-- ==== Sys2Proof/Word.lean ====
section
/-! DEFINITION. The word types of the machine. -/

namespace Sys2Proof

/-- A 64-bit word: scalar registers, control registers, addresses while they are computed. -/
abbrev Word := BitVec 64

/-- The unit of memory. -/
abbrev Byte := BitVec 8

/-- A scalar register number x0 to x31. -/
abbrev XReg := Fin 32

/-- A vector register number v0 to v63. -/
abbrev VReg := Fin 64

/-- A mask register number m0 to m7. -/
abbrev MReg := Fin 8

end Sys2Proof
end

