-- ==== Sys2Proof/Config.lean ====
section
/-! DEFINITION. What an implementation fixes and what the manual leaves free. No constant here has a value that a proof can see. -/

namespace Sys2Proof.Config

/-- The n-th free 64-bit value of a run: a value the manual does not state (assumption log, entry 8). -/
opaque freeWord : Nat → Word

/-- The n-th seed of a die's physical noise source (R62): key in the low half, stream in the high half. -/
opaque noise : Nat → BitVec 128

/-- The pseudo-channel of its stack in which a line lies, as a number below 384 after reduction: the mapping is not architected (R435; assumption log, entry 48). -/
opaque lineChannel : Nat → Nat

/-- The bank of its pseudo-channel in which a line lies, below 16 after reduction: the mapping is not architected (R435). -/
opaque lineBank : Nat → Nat

/-- The row of its bank in which a line lies: the mapping is not architected (R435). -/
opaque lineRow : Nat → Nat

/-- The n-th read of a controller finds an error that the base die's ECC corrects (R443, R453). -/
opaque corrected : Nat → Bool

/-- The nonce of the tag of a counter block or node, from its number and its parent's counter: R445 gives neither metadata addresses nor the nonce's bits. -/
opaque metaNonce : Nat → Nat → BitVec 128

/-- The n-th 256-bit key drawn from the hub's noise source (R446). -/
opaque keyNoise : Nat → BitVec 256

/-- The result code a BOUNDED special function proposes for a function number, a type code and an input code (R249). -/
opaque sfBounded : Nat → Nat → Nat → Nat

/-- What the sequencer's private register holds when the image of a digest starts on an input code, and what its private mask bit holds: R251 and R428 state v0 alone. -/
opaque sfPrivate : BitVec 256 → Nat → Nat → BitVec 32

/-- The bit of a private mask register then. -/
opaque sfPredicate : BitVec 256 → Nat → Nat → Bool

/-- The package serial, fused at manufacture (Table 18.3). -/
opaque serial : BitVec 128

/-- SHA-256 of the public key of an image key slot of the fuses (R427). -/
opaque keySlot : Nat → BitVec 256

/-- The revocation fuse of an image key slot (R427). -/
opaque revoked : Nat → Bool

/-- The fused minimum security version of an image kind (Table 18.5). -/
opaque minSvn : Nat → BitVec 16

/-- The fused unique secret from which the identity key is derived (R430). -/
opaque uniqueSecret : BitVec 256

/-- The measurement of the hub ROM, index 1 (R429). -/
opaque romDigest : BitVec 256

/-- The measurement of the life-cycle state and fuse configuration, index 6, for a STATE code, OWNER and the fuses (R429). -/
opaque fuseDigest : Nat → BitVec 256 → List Nat → BitVec 256

/-- A byte of the identity certificate of slot 0, which depends on the device secret and measurement 2 (R430). -/
opaque certByte : BitVec 256 → BitVec 256 → Nat → BitVec 8

/-- SHA-256 of the certificate chain of slot 0 (R430). -/
opaque certDigest : BitVec 256 → BitVec 256 → BitVec 256

/-- The signature the identity key makes of a digest (R430). -/
opaque identitySign : BitVec 256 → BitVec 256 → BitVec 256 → BitVec 512

/-- The package position that the module's configuration in flash holds (R425). -/
opaque pkgPos : BitVec 6

/-- The LLC set of a line; the mapping is not architected (R82, R96). -/
opaque llcSet : Nat → Nat

/-- The LLC bank of a line, of 512; the mapping is not architected (R82, R371). -/
opaque llcBank : Nat → Nat

/-- The set of a line in a die's cache ways; the mapping is not architected. -/
opaque dieSet : Nat → Nat

end Sys2Proof.Config
end

