-- ==== Sys2Proof/Syntax.lean ====
section
/-! DEFINITION. The instructions and the device steps of the KXS4-P384: one constructor for each row of
the table of operations and events (spec/04 for the instructions, spec/95 for the steps of the other agents).
Register numbers are bounded numbers, code fields keep the width the encoding gives them; `WellFormed` says which codes are reserved. -/

namespace Sys2Proof

/-- One row of the table of operations and events. -/
inductive Instr where
  /-- R147: Writes rd = rs1 + rs2 modulo 2^64. -/
  | add (rd : XReg) (rs1 : XReg) (rs2 : XReg)
  /-- R147: Writes rd = rs1 - rs2 modulo 2^64. -/
  | sub (rd : XReg) (rs1 : XReg) (rs2 : XReg)
  /-- R147: Writes the bitwise AND of rs1 and rs2 to rd. -/
  | and (rd : XReg) (rs1 : XReg) (rs2 : XReg)
  /-- R147: Writes the bitwise OR of rs1 and rs2 to rd. -/
  | or (rd : XReg) (rs1 : XReg) (rs2 : XReg)
  /-- R147: Writes the bitwise XOR of rs1 and rs2 to rd. -/
  | xor (rd : XReg) (rs1 : XReg) (rs2 : XReg)
  /-- R147: Shifts rs1 left by rs2[5:0] and writes rd. -/
  | sll (rd : XReg) (rs1 : XReg) (rs2 : XReg)
  /-- R147: Shifts rs1 right logically by rs2[5:0] and writes rd. -/
  | srl (rd : XReg) (rs1 : XReg) (rs2 : XReg)
  /-- R147: Shifts rs1 right arithmetically by rs2[5:0] and writes rd. -/
  | sra (rd : XReg) (rs1 : XReg) (rs2 : XReg)
  /-- R147: Rotates rs1 left by rs2[5:0] and writes rd. -/
  | rotl (rd : XReg) (rs1 : XReg) (rs2 : XReg)
  /-- R147: Rotates rs1 right by rs2[5:0] and writes rd. -/
  | rotr (rd : XReg) (rs1 : XReg) (rs2 : XReg)
  /-- R147: Writes 1 to rd when rs1 < rs2, compared signed, and 0 otherwise. -/
  | slt (rd : XReg) (rs1 : XReg) (rs2 : XReg)
  /-- R147: Writes 1 to rd when rs1 < rs2, compared unsigned, and 0 otherwise. -/
  | sltn (rd : XReg) (rs1 : XReg) (rs2 : XReg)
  /-- R147: Writes the signed minimum of rs1 and rs2 to rd. -/
  | min (rd : XReg) (rs1 : XReg) (rs2 : XReg)
  /-- R147: Writes the signed maximum of rs1 and rs2 to rd. -/
  | max (rd : XReg) (rs1 : XReg) (rs2 : XReg)
  /-- R147: Writes the unsigned minimum of rs1 and rs2 to rd. -/
  | minn (rd : XReg) (rs1 : XReg) (rs2 : XReg)
  /-- R147: Writes the unsigned maximum of rs1 and rs2 to rd. -/
  | maxn (rd : XReg) (rs1 : XReg) (rs2 : XReg)
  /-- R147: Writes the low 64 bits of rs1 x rs2 to rd. -/
  | mul (rd : XReg) (rs1 : XReg) (rs2 : XReg)
  /-- R147: Writes the high 64 bits of the signed product of rs1 and rs2 to rd. -/
  | mulh (rd : XReg) (rs1 : XReg) (rs2 : XReg)
  /-- R147: Writes the high 64 bits of the unsigned product of rs1 and rs2 to rd. -/
  | mulhn (rd : XReg) (rs1 : XReg) (rs2 : XReg)
  /-- R148: Writes the signed quotient of rs1 and rs2, rounded toward zero, to rd, with the defined results for division by zero and overflow. -/
  | div (rd : XReg) (rs1 : XReg) (rs2 : XReg)
  /-- R148: Writes the unsigned quotient of rs1 and rs2 to rd; division by zero gives all ones. -/
  | divn (rd : XReg) (rs1 : XReg) (rs2 : XReg)
  /-- R148: Writes the signed remainder of rs1 and rs2 to rd. -/
  | rem (rd : XReg) (rs1 : XReg) (rs2 : XReg)
  /-- R148: Writes the unsigned remainder of rs1 and rs2 to rd. -/
  | remn (rd : XReg) (rs1 : XReg) (rs2 : XReg)
  /-- R149: Counts the leading zeros of the low w bits of rs1 and writes the count to rd. -/
  | clz (rd : XReg) (rs1 : XReg) (w : BitVec 3)
  /-- R149: Counts the trailing zeros of the low w bits of rs1 and writes the count to rd. -/
  | ctz (rd : XReg) (rs1 : XReg) (w : BitVec 3)
  /-- R149: Counts the set bits of the low w bits of rs1 and writes the count to rd. -/
  | popc (rd : XReg) (rs1 : XReg) (w : BitVec 3)
  /-- R149: Sign-extends the low w bits of rs1 into rd. -/
  | sext (rd : XReg) (rs1 : XReg) (w : BitVec 3)
  /-- R149: Zero-extends the low w bits of rs1 into rd. -/
  | zext (rd : XReg) (rs1 : XReg) (w : BitVec 3)
  /-- R151: Writes the rounded sum of rs1 and rs2 in F32 or F64 to rd and ORs in the flags. -/
  | fadd (rd : XReg) (rs1 : XReg) (rs2 : XReg) (fmt : Bool) (rnd : BitVec 3)
  /-- R151: Writes the rounded difference of rs1 and rs2 in F32 or F64 to rd. -/
  | fsub (rd : XReg) (rs1 : XReg) (rs2 : XReg) (fmt : Bool) (rnd : BitVec 3)
  /-- R151: Writes the rounded product of rs1 and rs2 in F32 or F64 to rd. -/
  | fmul (rd : XReg) (rs1 : XReg) (rs2 : XReg) (fmt : Bool) (rnd : BitVec 3)
  /-- R151: Writes the rounded quotient of rs1 and rs2 to rd; division of a finite nonzero value by zero sets DZ. -/
  | fdiv (rd : XReg) (rs1 : XReg) (rs2 : XReg) (fmt : Bool) (rnd : BitVec 3)
  /-- R151: Writes the rounded square root of rs1 to rd; a negative operand gives NaN and sets NV. -/
  | fsqrt (rd : XReg) (rs1 : XReg) (fmt : Bool) (rnd : BitVec 3)
  /-- R151: Writes the smaller operand to rd, with -0 < +0, and sets no flag. -/
  | fmin (rd : XReg) (rs1 : XReg) (rs2 : XReg) (fmt : Bool)
  /-- R151: Writes the larger operand to rd, with -0 < +0, and sets no flag. -/
  | fmax (rd : XReg) (rs1 : XReg) (rs2 : XReg) (fmt : Bool)
  /-- R152: Writes 1 to rd when the condition holds between rs1 and rs2, and 0 otherwise, setting no flag. -/
  | fcmp (rd : XReg) (rs1 : XReg) (rs2 : XReg) (fmt : Bool) (cond : BitVec 3)
  /-- R153: Converts between fmt and the other type named in the rs2 field, in the direction set by dir. -/
  | fcvt (rd : XReg) (rs1 : XReg) (ty : BitVec 5) (fmt : Bool) (rnd : BitVec 3) (dir : Bool)
  /-- R154: Writes the one-hot class mask of rs1 to rd. -/
  | fclass (rd : XReg) (rs1 : XReg) (fmt : Bool)
  /-- R155: Writes rs1 x rs2 + rs3, rounded once, to rd. -/
  | ffma (rd : XReg) (rs1 : XReg) (rs2 : XReg) (rs3 : XReg) (fmt : Bool) (rnd : BitVec 3)
  /-- R150: Writes rs1 + sext(imm14) to rd. -/
  | addi (rd : XReg) (rs1 : XReg) (imm : BitVec 14)
  /-- R150: Writes rs1 AND sext(imm14) to rd. -/
  | andi (rd : XReg) (rs1 : XReg) (imm : BitVec 14)
  /-- R150: Writes rs1 OR sext(imm14) to rd. -/
  | ori (rd : XReg) (rs1 : XReg) (imm : BitVec 14)
  /-- R150: Writes rs1 XOR sext(imm14) to rd. -/
  | xori (rd : XReg) (rs1 : XReg) (imm : BitVec 14)
  /-- R150: Shifts rs1 left by imm14[5:0] and writes rd. -/
  | slli (rd : XReg) (rs1 : XReg) (sh : BitVec 6)
  /-- R150: Shifts rs1 right logically by imm14[5:0] and writes rd. -/
  | srli (rd : XReg) (rs1 : XReg) (sh : BitVec 6)
  /-- R150: Shifts rs1 right arithmetically by imm14[5:0] and writes rd. -/
  | srai (rd : XReg) (rs1 : XReg) (sh : BitVec 6)
  /-- R150: Writes 1 to rd when rs1 < sext(imm14), compared signed. -/
  | slti (rd : XReg) (rs1 : XReg) (imm : BitVec 14)
  /-- R150: Writes sext(imm19) << 14 to rd. -/
  | lih (rd : XReg) (imm : BitVec 19)
  /-- R150: Writes pc + (sext(imm19) << 14) to rd. -/
  | addpc (rd : XReg) (imm : BitVec 19)
  /-- R156: Loads 8 bits at rs1 + imm14, sign-extended, into rd. -/
  | ldI8 (rd : XReg) (rs1 : XReg) (imm : BitVec 14)
  /-- R156: Loads 8 bits at rs1 + imm14, zero-extended, into rd. -/
  | ldN8 (rd : XReg) (rs1 : XReg) (imm : BitVec 14)
  /-- R156: Loads 16 bits, sign-extended, into rd. -/
  | ldI16 (rd : XReg) (rs1 : XReg) (imm : BitVec 14)
  /-- R156: Loads 16 bits, zero-extended, into rd. -/
  | ldN16 (rd : XReg) (rs1 : XReg) (imm : BitVec 14)
  /-- R156: Loads 32 bits, sign-extended, into rd. -/
  | ldI32 (rd : XReg) (rs1 : XReg) (imm : BitVec 14)
  /-- R156: Loads 32 bits, zero-extended, into rd. -/
  | ldN32 (rd : XReg) (rs1 : XReg) (imm : BitVec 14)
  /-- R156: Loads 64 bits into rd. -/
  | ldI64 (rd : XReg) (rs1 : XReg) (imm : BitVec 14)
  /-- R158: Loads 8 to 64 bits at rs1, zero-extended, as an acquire at the named scope. -/
  | ldacq (rd : XReg) (rs1 : XReg) (ew : BitVec 3) (scope : BitVec 3)
  /-- R156: Stores the low 8 bits of the data register at rs1 + imm14. -/
  | st8 (rs : XReg) (rs1 : XReg) (imm : BitVec 14)
  /-- R156: Stores the low 16 bits of the data register at rs1 + imm14. -/
  | st16 (rs : XReg) (rs1 : XReg) (imm : BitVec 14)
  /-- R156: Stores the low 32 bits of the data register at rs1 + imm14. -/
  | st32 (rs : XReg) (rs1 : XReg) (imm : BitVec 14)
  /-- R156: Stores the data register at rs1 + imm14. -/
  | st64 (rs : XReg) (rs1 : XReg) (imm : BitVec 14)
  /-- R158: Stores 8 to 64 bits at rs1 as a release at the named scope. -/
  | strel (rs : XReg) (rs1 : XReg) (ew : BitVec 3) (scope : BitVec 3)
  /-- R159: Atomically adds rs2 to the 64-bit word at rs1 and returns the old word in rd. -/
  | amoAdd (rd : XReg) (rs1 : XReg) (rs2 : XReg) (ord : BitVec 2) (scope : BitVec 3)
  /-- R159: Atomically ANDs rs2 into the word at rs1 and returns the old word. -/
  | amoAnd (rd : XReg) (rs1 : XReg) (rs2 : XReg) (ord : BitVec 2) (scope : BitVec 3)
  /-- R159: Atomically ORs rs2 into the word at rs1 and returns the old word. -/
  | amoOr (rd : XReg) (rs1 : XReg) (rs2 : XReg) (ord : BitVec 2) (scope : BitVec 3)
  /-- R159: Atomically XORs rs2 into the word at rs1 and returns the old word. -/
  | amoXor (rd : XReg) (rs1 : XReg) (rs2 : XReg) (ord : BitVec 2) (scope : BitVec 3)
  /-- R159: Atomically stores the signed minimum of the word and rs2 and returns the old word. -/
  | amoMin (rd : XReg) (rs1 : XReg) (rs2 : XReg) (ord : BitVec 2) (scope : BitVec 3)
  /-- R159: Atomically stores the signed maximum of the word and rs2 and returns the old word. -/
  | amoMax (rd : XReg) (rs1 : XReg) (rs2 : XReg) (ord : BitVec 2) (scope : BitVec 3)
  /-- R159: Atomically swaps rs2 with the word at rs1 and returns the old word. -/
  | amoSwap (rd : XReg) (rs1 : XReg) (rs2 : XReg) (ord : BitVec 2) (scope : BitVec 3)
  /-- R159: Atomically stores rs2 when the word equals rd on entry, and returns the old word in rd. -/
  | amoCas (rd : XReg) (rs1 : XReg) (rs2 : XReg) (ord : BitVec 2) (scope : BitVec 3)
  /-- R160: Brings a line toward the named level without ever faulting, and writes 0 to the status register. -/
  | prefetch (st : XReg) (rs1 : XReg) (level : BitVec 2)
  /-- R160: Pins a global line at the named level and writes the status decided by R96. -/
  | pin (st : XReg) (rs1 : XReg) (level : BitVec 2)
  /-- R160: Releases the context's pin on a line at the named level and writes 0. -/
  | unpin (st : XReg) (rs1 : XReg) (level : BitVec 2)
  /-- R161: Branches by off14 when the two registers are equal. -/
  | beq (rs1 : XReg) (rs2 : XReg) (off : BitVec 14)
  /-- R161: Branches by off14 when the two registers differ. -/
  | bne (rs1 : XReg) (rs2 : XReg) (off : BitVec 14)
  /-- R161: Branches when rs1 < rs2, compared signed. -/
  | blt (rs1 : XReg) (rs2 : XReg) (off : BitVec 14)
  /-- R161: Branches when rs1 >= rs2, compared signed. -/
  | bge (rs1 : XReg) (rs2 : XReg) (off : BitVec 14)
  /-- R161: Branches when rs1 < rs2, compared unsigned. -/
  | bltn (rs1 : XReg) (rs2 : XReg) (off : BitVec 14)
  /-- R161: Branches when rs1 >= rs2, compared unsigned. -/
  | bgen (rs1 : XReg) (rs2 : XReg) (off : BitVec 14)
  /-- R162: Writes pc + 4 to rd and jumps by off19 words. -/
  | jal (rd : XReg) (off : BitVec 19)
  /-- R162: Jumps to rs1 + imm14 and writes pc + 4 to rd, trapping MISALIGNED on a target not a multiple of 4. -/
  | jalr (rd : XReg) (rs1 : XReg) (imm : BitVec 14)
  /-- R166: Traps with cause ECALL. -/
  | ecall
  /-- R166: Traps with cause BREAKPOINT. -/
  | ebreak
  /-- R176: Replays a held in-flight record if one is present, copies back x8 and x9 after an ECALL, and returns to TRAPPC at the level PP. -/
  | tret
  /-- R167: Stops issuing and begins ending the hart once its outstanding work is acknowledged. -/
  | halt
  /-- R166: Passes the hart's scalar issue slots to the other harts of the core for up to 16 scalar ticks, with no architectural effect. -/
  | yield
  /-- R102: Holds later accesses of the hart until earlier accesses of the named sets have completed at the named scope. -/
  | fence (scope : BitVec 3) (sets : BitVec 3)
  /-- R101: Holds later accesses until every earlier access of the hart's octets and scalar side has been performed. -/
  | vlsync
  /-- R169: Stores the oldest event record at rs1, removes it from the queue and writes the earlier count to rd, or writes 0 when the queue is empty. -/
  | evpop (rd : XReg) (rs1 : XReg)
  /-- R169: Waits until the event queue is non-empty and then acts as EVPOP. -/
  | evwait (rd : XReg) (rs1 : XReg)
  /-- R164: Reads a control register into rd and writes rs1 to it under the register's write rule. -/
  | csrrw (rd : XReg) (rs1 : XReg) (csr : BitVec 12)
  /-- R164: Reads a control register into rd and sets the bits of rs1 in it. -/
  | csrrs (rd : XReg) (rs1 : XReg) (csr : BitVec 12)
  /-- R164: Reads a control register into rd and clears the bits of rs1 in it. -/
  | csrrc (rd : XReg) (rs1 : XReg) (csr : BitVec 12)
  /-- R374: Freezes the application context if no freeze has begun and writes the frozen in-flight record at IFRBASE, returning the entry count. -/
  | ifrsave (rd : XReg)
  /-- R374: Loads the in-flight record at IFRBASE into the hart's record buffer after checking its context and contents. -/
  | ifrload (rd : XReg)
  /-- R375: Reissues the held record in order index order, records the horizon at every target and returns the count of answers from duplicate tables. -/
  | ifrreplay (rd : XReg)
  /-- R177: Writes the frozen application context other than the record to the save area. -/
  | ctxsavev (rd : XReg)
  /-- R178: Restores what CTXSAVEV wrote under the current grant, refusing a smaller grant when the record binds it. -/
  | ctxloadv (rd : XReg)
  /-- R391: Raises the generation of an ASID and broadcasts it, completing when every core has acknowledged. -/
  | genbump (rd : XReg) (rs1 : XReg)
  /-- R179: Caps the grant a target hart receives at its next VSETVL and starts its lane-reclaim deadline. -/
  | lanecap (rd : XReg) (rs1 : XReg) (rs2 : XReg)
  /-- R177: Verifies a signed special-function image and installs it in a slot of the core's special-function sequencer. -/
  | sfuload (rd : XReg) (rs1 : XReg) (rs2 : XReg)
  /-- R172: Reads a 64-byte launch record and offers it to a launch queue, writing the push status to rd. -/
  | launch (rd : XReg) (rs1 : XReg) (rs2 : XReg)
  /-- R195: Adds va and vb elementwise into vd. -/
  | vadd (vd : VReg) (va : VReg) (vb : VReg) (m : MReg) (ca : Bool) (cb : Bool) (z : Bool)
  /-- R195: Subtracts vb from va elementwise into vd. -/
  | vsub (vd : VReg) (va : VReg) (vb : VReg) (m : MReg) (ca : Bool) (cb : Bool) (z : Bool)
  /-- R195: Multiplies va and vb elementwise into vd. -/
  | vmul (vd : VReg) (va : VReg) (vb : VReg) (m : MReg) (ca : Bool) (cb : Bool) (z : Bool)
  /-- R195: Writes the high half of each integer product into vd. -/
  | vmulh (vd : VReg) (va : VReg) (vb : VReg) (m : MReg) (ca : Bool) (cb : Bool) (z : Bool)
  /-- R195: Divides va by vb elementwise into vd. -/
  | vdiv (vd : VReg) (va : VReg) (vb : VReg) (m : MReg) (ca : Bool) (cb : Bool) (z : Bool)
  /-- R195: Writes a x b + vd, rounded once, elementwise. -/
  | vfma (vd : VReg) (va : VReg) (vb : VReg) (m : MReg) (ca : Bool) (cb : Bool) (z : Bool)
  /-- R195: Writes a x b - vd, rounded once, elementwise. -/
  | vfms (vd : VReg) (va : VReg) (vb : VReg) (m : MReg) (ca : Bool) (cb : Bool) (z : Bool)
  /-- R195: Writes -(a x b) + vd, rounded once, elementwise. -/
  | vfnma (vd : VReg) (va : VReg) (vb : VReg) (m : MReg) (ca : Bool) (cb : Bool) (z : Bool)
  /-- R195: Writes the elementwise minimum of va and vb. -/
  | vmin (vd : VReg) (va : VReg) (vb : VReg) (m : MReg) (ca : Bool) (cb : Bool) (z : Bool)
  /-- R195: Writes the elementwise maximum of va and vb. -/
  | vmax (vd : VReg) (va : VReg) (vb : VReg) (m : MReg) (ca : Bool) (cb : Bool) (z : Bool)
  /-- R195: Adds integers elementwise with saturation, setting SAT. -/
  | vadds (vd : VReg) (va : VReg) (vb : VReg) (m : MReg) (ca : Bool) (cb : Bool) (z : Bool)
  /-- R195: Subtracts integers elementwise with saturation, setting SAT. -/
  | vsubs (vd : VReg) (va : VReg) (vb : VReg) (m : MReg) (ca : Bool) (cb : Bool) (z : Bool)
  /-- R195: Bitwise AND of va and vb into vd. -/
  | vand (vd : VReg) (va : VReg) (vb : VReg) (m : MReg) (ca : Bool) (cb : Bool) (z : Bool)
  /-- R195: Bitwise OR of va and vb into vd. -/
  | vor (vd : VReg) (va : VReg) (vb : VReg) (m : MReg) (ca : Bool) (cb : Bool) (z : Bool)
  /-- R195: Bitwise XOR of va and vb into vd. -/
  | vxor (vd : VReg) (va : VReg) (vb : VReg) (m : MReg) (ca : Bool) (cb : Bool) (z : Bool)
  /-- R195: Shifts each element of va left by vb. -/
  | vsll (vd : VReg) (va : VReg) (vb : VReg) (m : MReg) (ca : Bool) (cb : Bool) (z : Bool)
  /-- R195: Shifts each element of va right logically by vb. -/
  | vsrl (vd : VReg) (va : VReg) (vb : VReg) (m : MReg) (ca : Bool) (cb : Bool) (z : Bool)
  /-- R195: Shifts each element of va right arithmetically by vb. -/
  | vsra (vd : VReg) (va : VReg) (vb : VReg) (m : MReg) (ca : Bool) (cb : Bool) (z : Bool)
  /-- R200: Writes mask md with the condition applied to va and vb for each active element. -/
  | vcmp (md : MReg) (cond : BitVec 3) (va : VReg) (vb : VReg) (m : MReg) (ca : Bool) (cb : Bool) (z : Bool)
  /-- R201: Selects va where the mask is set and vb elsewhere. -/
  | vmerge (vd : VReg) (va : VReg) (vb : VReg) (m : MReg) (ca : Bool) (cb : Bool)
  /-- R203: Multiplies each element of va by the E8M0 scale in byte 0 of its lane of vb. -/
  | vmulsc (vd : VReg) (va : VReg) (vb : VReg) (m : MReg) (ca : Bool) (cb : Bool) (z : Bool)
  /-- R209: Gathers elements of va by the indices in vb, giving 0 for an index at or beyond the capacity. -/
  | vperm (vd : VReg) (va : VReg) (vb : VReg) (m : MReg) (ca : Bool) (cb : Bool) (z : Bool)
  /-- R210: Interleaves the low halves of va and va+1 into vd. -/
  | vzipLo (vd : VReg) (va : VReg) (m : MReg) (ca : Bool) (z : Bool)
  /-- R210: Interleaves the high halves of va and va+1 into vd. -/
  | vzipHi (vd : VReg) (va : VReg) (m : MReg) (ca : Bool) (z : Bool)
  /-- R210: Writes the even elements of the pair va, va+1 into vd. -/
  | vunzipEven (vd : VReg) (va : VReg) (m : MReg) (ca : Bool) (z : Bool)
  /-- R210: Writes the odd elements of the pair va, va+1 into vd. -/
  | vunzipOdd (vd : VReg) (va : VReg) (m : MReg) (ca : Bool) (z : Bool)
  /-- R195: Writes the rounded square root of each element. -/
  | vsqrt (vd : VReg) (va : VReg) (m : MReg) (ca : Bool) (z : Bool)
  /-- R195: Writes the absolute value of each element. -/
  | vabs (vd : VReg) (va : VReg) (m : MReg) (ca : Bool) (z : Bool)
  /-- R195: Writes the negation of each element. -/
  | vneg (vd : VReg) (va : VReg) (m : MReg) (ca : Bool) (z : Bool)
  /-- R195: Copies va into vd with va's whole tag. -/
  | vmov (vd : VReg) (va : VReg) (m : MReg) (ca : Bool) (z : Bool)
  /-- R207: Moves elements between the packed and spread layouts, keeping type and role. -/
  | vreshuf (vd : VReg) (va : VReg) (m : MReg) (ca : Bool) (z : Bool)
  /-- R212: Writes the active elements of va in index order to the first positions of vd and zeroes the rest. -/
  | vcompress (vd : VReg) (va : VReg) (m : MReg) (ca : Bool)
  /-- R212: Writes va[j] to the j-th active position of vd. -/
  | vexpand (vd : VReg) (va : VReg) (m : MReg) (ca : Bool) (z : Bool)
  /-- R212: Writes to each active position the number of set mask bits below it. -/
  | viota (vd : VReg) (m : MReg) (ca : Bool) (z : Bool)
  /-- R204: Converts each element to the target type lane by lane, choosing the result layout. -/
  | vcvt (vd : VReg) (va : VReg) (ty : BitVec 5) (sr : Bool) (m : MReg) (ca : Bool) (z : Bool)
  /-- R242: Computes a built-in or loaded special function of each element. -/
  | vsf (vd : VReg) (va : VReg) (fn : BitVec 6) (m : MReg) (ca : Bool) (z : Bool)
  /-- R250: Writes the reduction f, the index word and n of a function's kind to vd, vd+1 and vd+2. -/
  | vsfrr (vd : VReg) (va : VReg) (fn : BitVec 6) (m : MReg) (ca : Bool) (z : Bool)
  /-- R250: Looks up a function's table at the row and column of each index word. -/
  | vsftab (vd : VReg) (va : VReg) (fn : BitVec 6) (m : MReg) (ca : Bool) (z : Bool)
  /-- R250: Writes vd x va + vb rounded once RNE in F32. -/
  | vsfpoly (vd : VReg) (va : VReg) (vb : VReg) (m : MReg) (ca : Bool) (cb : Bool) (z : Bool)
  /-- R250: Writes va x 2^vb rounded once RNE in F32. -/
  | vsfscl (vd : VReg) (va : VReg) (vb : VReg) (m : MReg) (ca : Bool) (cb : Bool) (z : Bool)
  /-- R214: Writes counter-based random N32 values and advances RNGCTR by VL. -/
  | vrngN32 (vd : VReg) (m : MReg) (z : Bool)
  /-- R214: Writes counter-based random N64 values and advances RNGCTR by VL. -/
  | vrngN64 (vd : VReg) (m : MReg) (z : Bool)
  /-- R214: Writes counter-based uniform F32 values in [0, 1) and advances RNGCTR by VL. -/
  | vrngF32 (vd : VReg) (m : MReg) (z : Bool)
  /-- R198: Adds a scalar to each element. -/
  | vaddX (vd : VReg) (va : VReg) (xs : XReg) (sw : Bool) (m : MReg) (ca : Bool) (z : Bool)
  /-- R198: Subtracts with a scalar operand, in the order set by sw. -/
  | vsubX (vd : VReg) (va : VReg) (xs : XReg) (sw : Bool) (m : MReg) (ca : Bool) (z : Bool)
  /-- R198: Multiplies each element by a scalar. -/
  | vmulX (vd : VReg) (va : VReg) (xs : XReg) (sw : Bool) (m : MReg) (ca : Bool) (z : Bool)
  /-- R198: Writes a x scalar + vd, rounded once. -/
  | vfmaX (vd : VReg) (va : VReg) (xs : XReg) (sw : Bool) (m : MReg) (ca : Bool) (z : Bool)
  /-- R198: Writes the minimum of each element and a scalar. -/
  | vminX (vd : VReg) (va : VReg) (xs : XReg) (sw : Bool) (m : MReg) (ca : Bool) (z : Bool)
  /-- R198: Writes the maximum of each element and a scalar. -/
  | vmaxX (vd : VReg) (va : VReg) (xs : XReg) (sw : Bool) (m : MReg) (ca : Bool) (z : Bool)
  /-- R198: Bitwise AND of each element with a scalar. -/
  | vandX (vd : VReg) (va : VReg) (xs : XReg) (sw : Bool) (m : MReg) (ca : Bool) (z : Bool)
  /-- R198: Bitwise OR of each element with a scalar. -/
  | vorX (vd : VReg) (va : VReg) (xs : XReg) (sw : Bool) (m : MReg) (ca : Bool) (z : Bool)
  /-- R198: Bitwise XOR of each element with a scalar. -/
  | vxorX (vd : VReg) (va : VReg) (xs : XReg) (sw : Bool) (m : MReg) (ca : Bool) (z : Bool)
  /-- R198: Shifts left with a scalar operand. -/
  | vsllX (vd : VReg) (va : VReg) (xs : XReg) (sw : Bool) (m : MReg) (ca : Bool) (z : Bool)
  /-- R198: Shifts right logically with a scalar operand. -/
  | vsrlX (vd : VReg) (va : VReg) (xs : XReg) (sw : Bool) (m : MReg) (ca : Bool) (z : Bool)
  /-- R198: Shifts right arithmetically with a scalar operand. -/
  | vsraX (vd : VReg) (va : VReg) (xs : XReg) (sw : Bool) (m : MReg) (ca : Bool) (z : Bool)
  /-- R198: Compares each element with a scalar into mask md. -/
  | vcmpX (md : MReg) (cond : BitVec 3) (va : VReg) (xs : XReg) (sw : Bool) (m : MReg) (ca : Bool) (z : Bool)
  /-- R213: Writes a scalar to each active element of vd; sw is reserved. -/
  | vbcast (vd : VReg) (xs : XReg) (sw : Bool) (m : MReg) (z : Bool)
  /-- R213: Writes element xi of va to scalar register xs, or 0 beyond the capacity; sw is reserved. -/
  | vmvx (xs : XReg) (va : VReg) (xi : XReg) (sw : Bool) (ca : Bool)
  /-- R213: Writes scalar xs into element xi of vd only; sw is reserved. -/
  | vxmv (vd : VReg) (xs : XReg) (xi : XReg) (sw : Bool)
  /-- R199: Adds a signed immediate to each element. -/
  | vaddi (vd : VReg) (va : VReg) (imm : BitVec 6) (m : MReg) (ca : Bool) (z : Bool)
  /-- R199: ANDs a signed immediate into each element. -/
  | vandi (vd : VReg) (va : VReg) (imm : BitVec 6) (m : MReg) (ca : Bool) (z : Bool)
  /-- R199: Shifts each element left by an immediate. -/
  | vslli (vd : VReg) (va : VReg) (imm : BitVec 6) (m : MReg) (ca : Bool) (z : Bool)
  /-- R199: Shifts each element right logically by an immediate. -/
  | vsrli (vd : VReg) (va : VReg) (imm : BitVec 6) (m : MReg) (ca : Bool) (z : Bool)
  /-- R199: Shifts each element right arithmetically by an immediate. -/
  | vsrai (vd : VReg) (va : VReg) (imm : BitVec 6) (m : MReg) (ca : Bool) (z : Bool)
  /-- R211: Writes elem(va, i - k) to each active position i >= k. -/
  | vslideup (vd : VReg) (va : VReg) (imm : BitVec 6) (m : MReg) (ca : Bool) (z : Bool)
  /-- R211: Writes elem(va, i + k), or 0 past VL, to each active position. -/
  | vslidedn (vd : VReg) (va : VReg) (imm : BitVec 6) (m : MReg) (ca : Bool) (z : Bool)
  /-- R211: Rotates lane slices of va by k lanes into vd. -/
  | vring (vd : VReg) (va : VReg) (imm : BitVec 6) (m : MReg) (ca : Bool) (z : Bool)
  /-- R216: Reduces each row by the fixed block order into element q of vd. -/
  | vrsum (vd : VReg) (va : VReg) (m : MReg) (ca : Bool)
  /-- R217: Writes each row's largest active element. -/
  | vrmax (vd : VReg) (va : VReg) (m : MReg) (ca : Bool)
  /-- R217: Writes each row's smallest active element. -/
  | vrmin (vd : VReg) (va : VReg) (m : MReg) (ca : Bool)
  /-- R216: Reduces the squares of each row by the fixed block order. -/
  | vrssq (vd : VReg) (va : VReg) (m : MReg) (ca : Bool)
  /-- R252: Computes the soft maximum of each row. -/
  | vsoftmax (vd : VReg) (va : VReg) (m : MReg) (ca : Bool) (z : Bool)
  /-- R218: Normalises each row by its root mean square. -/
  | vrnormRms (vd : VReg) (va : VReg) (m : MReg) (ca : Bool) (z : Bool)
  /-- R218: Normalises each row by its mean and variance. -/
  | vrnormLayer (vd : VReg) (va : VReg) (m : MReg) (ca : Bool) (z : Bool)
  /-- R241: Moves tile row p of va into elements pL to pL + L - 1 of vd. -/
  | vtmovRow (vd : VReg) (va : VReg) (xi : XReg) (ca : Bool)
  /-- R241: Moves elements pL to pL + L - 1 of va into tile row p of vd. -/
  | vtmovCol (vd : VReg) (va : VReg) (xi : XReg) (ca : Bool)
  /-- R187: Decides the lane grant in vector mode, sets the element width and VL, clears VSTART and writes VL to rd. -/
  | vsetvl (rd : XReg) (rs1 : XReg) (ew : BitVec 3)
  /-- R191: Writes rs1[7:0] to the tag of v, refusing a forbidden tag. -/
  | vsettag (v : VReg) (rs1 : XReg)
  /-- R191: Writes the tag of v, zero-extended, to rd. -/
  | vgettag (rd : XReg) (v : VReg)
  /-- R192: Requests the switch of the hart's granted lanes to vector mode. -/
  | modeV
  /-- R192: Requests the switch of the hart's granted lanes to matrix mode. -/
  | modeM
  /-- R202: Writes ma AND mb into md below VL. -/
  | mand (md : MReg) (ma : MReg) (mb : MReg)
  /-- R202: Writes ma OR mb into md below VL. -/
  | mor (md : MReg) (ma : MReg) (mb : MReg)
  /-- R202: Writes ma XOR mb into md below VL. -/
  | mxor (md : MReg) (ma : MReg) (mb : MReg)
  /-- R202: Writes ma AND NOT mb into md below VL. -/
  | mandn (md : MReg) (ma : MReg) (mb : MReg)
  /-- R202: Writes the number of set bits of ma below VL to a scalar register. -/
  | mpopc (x : XReg) (ma : MReg)
  /-- R202: Writes the index of the lowest set bit of ma below VL, or all ones. -/
  | mfirst (x : XReg) (ma : MReg)
  /-- R202: Sets the bits of md below VL and clears the others. -/
  | mset (md : MReg)
  /-- R257: Loads VL unit-stride elements into v after a pre-probe of all active elements. -/
  | vld (v : VReg) (xb : XReg) (ty : BitVec 5) (z : Bool) (m : MReg)
  /-- R257: Loads unit-stride elements, trimming VL at a failing element above the start instead of trapping. -/
  | vldff (v : VReg) (xb : XReg) (ty : BitVec 5) (z : Bool) (m : MReg)
  /-- R278: Loads from a buffer handle the elements whose chunks are set in the chunk mask, acquiring those chunks. -/
  | vldm (v : VReg) (xb : XReg) (ty : BitVec 5) (z : Bool) (m : MReg)
  /-- R260: Stores the active elements of v at unit stride. -/
  | vst (v : VReg) (xb : XReg) (m : MReg) (ca : Bool)
  /-- R260: Stores at unit stride, trimming VL at a failing element above the start. -/
  | vstff (v : VReg) (xb : XReg) (m : MReg) (ca : Bool)
  /-- R224: Runs a weight-stationary product of A rows against the B tile into the C register. -/
  | mma (vc : VReg) (va : VReg) (vb : VReg) (ta : BitVec 4) (tb : BitVec 4) (tacc : BitVec 4) (tres : BitVec 4) (fin : Bool) (half : Bool) (ca : Bool) (cb : Bool) (rnd : BitVec 3) (sat : Bool)
  /-- R229: Runs a result-stationary product step into the hart's RS accumulator. -/
  | mmaRs (va : VReg) (vb : VReg) (ta : BitVec 4) (tb : BitVec 4) (tacc : BitVec 4) (tres : BitVec 4) (ca : Bool) (cb : Bool) (rnd : BitVec 3) (sat : Bool)
  /-- R224: Runs a block-scaled weight-stationary product into the C register. -/
  | mmax (vc : VReg) (va : VReg) (vb : VReg) (vsa : VReg) (vsb : VReg) (ta : BitVec 4) (tb : BitVec 4) (tacc : BitVec 4) (tres : BitVec 4) (fin : Bool) (half : Bool) (ca : Bool) (cb : Bool) (rnd : BitVec 3) (sat : Bool)
  /-- R229: Runs a block-scaled result-stationary product step into the RS accumulator. -/
  | mmaxRs (va : VReg) (vb : VReg) (vsa : VReg) (vsb : VReg) (ta : BitVec 4) (tb : BitVec 4) (tacc : BitVec 4) (tres : BitVec 4) (ca : Bool) (cb : Bool) (rnd : BitVec 3) (sat : Bool)
  /-- R234: Converts 16 rows of the RS accumulator to tres into a vector register. -/
  | mdrain (v : VReg) (xs : XReg) (tres : BitVec 4) (rnd : BitVec 3)
  /-- R239: Requests up to three chained array segments from available lenders and sets MGRANT. -/
  | mattach (seg : BitVec 2)
  /-- R240: Releases every chained segment and sets MGRANT to 0. -/
  | mdetach
  /-- R235: Writes 16 rows of the RS accumulator from a vector register without conversion. -/
  | mpreload (v : VReg) (xs : XReg)
  /-- R236: Zeroes the RS accumulator and sets ACCT to F32 or I32. -/
  | mzero (tres : BitVec 4)
  /-- R237: Stores the RS accumulator, converted to tres, at strided or indexed addresses as a vector store. -/
  | mdrainst (xb : XReg) (xstride : XReg) (vi : VReg) (ix : Bool) (m : MReg) (tres : BitVec 4) (rnd : BitVec 3) (sat : Bool) (qos : BitVec 2)
  /-- R257: Loads elements at a signed scalar stride. -/
  | vlds (v : VReg) (xb : XReg) (xs : XReg) (ty : BitVec 5) (m : MReg) (ff : Bool) (z : Bool) (qos : BitVec 2)
  /-- R257: Loads elements at offsets taken from an index register. -/
  | vldx (v : VReg) (xb : XReg) (vi : VReg) (ty : BitVec 5) (m : MReg) (ca : Bool) (ff : Bool) (z : Bool) (qos : BitVec 2)
  /-- R257: Stores elements at a signed scalar stride. -/
  | vsts (v : VReg) (xb : XReg) (xs : XReg) (m : MReg) (ca : Bool) (ff : Bool) (qos : BitVec 2)
  /-- R257: Stores elements at offsets taken from an index register. -/
  | vstx (v : VReg) (xb : XReg) (vi : VReg) (m : MReg) (ca : Bool) (ff : Bool) (qos : BitVec 2)
  /-- R263: Atomically adds each element to its memory element in index order and returns the old values. -/
  | vamoAdd (v : VReg) (xb : XReg) (vi : VReg) (ty : BitVec 5) (m : MReg) (ca : Bool) (z : Bool) (qos : BitVec 2) (ord : BitVec 2) (scope : BitVec 3)
  /-- R263: Atomically stores the minimum at each element's address and returns the old values. -/
  | vamoMin (v : VReg) (xb : XReg) (vi : VReg) (ty : BitVec 5) (m : MReg) (ca : Bool) (z : Bool) (qos : BitVec 2) (ord : BitVec 2) (scope : BitVec 3)
  /-- R263: Atomically stores the maximum at each element's address and returns the old values. -/
  | vamoMax (v : VReg) (xb : XReg) (vi : VReg) (ty : BitVec 5) (m : MReg) (ca : Bool) (z : Bool) (qos : BitVec 2) (ord : BitVec 2) (scope : BitVec 3)
  /-- R263: Atomically swaps each element with its memory element and returns the old values. -/
  | vamoSwap (v : VReg) (xb : XReg) (vi : VReg) (ty : BitVec 5) (m : MReg) (ca : Bool) (z : Bool) (qos : BitVec 2) (ord : BitVec 2) (scope : BitVec 3)
  /-- R268: Pre-probes an append queue and begins appending the converted active values of va. -/
  | vappend (va : VReg) (xq : XReg) (m : MReg) (rnd : BitVec 3) (sat : Bool) (qos : BitVec 2)
  /-- R268: Pre-probes an append queue and begins appending the indices of the active elements. -/
  | vappendIdx (xq : XReg) (m : MReg) (rnd : BitVec 3) (sat : Bool) (qos : BitVec 2)
  /-- R272: Pre-probes the handles and inboxes, then sends one train per destination die carrying the converted elements of va. -/
  | vscatr (va : VReg) (vb : VReg) (ty : BitVec 5) (m : MReg) (rnd : BitVec 3) (sat : Bool) (qos : BitVec 2)
  /-- R271: Chooses a replica for each token at one version, writes destination handles and charges in-flight and load counters. -/
  | vroute (vd : VReg) (va : VReg) (vb : VReg) (m : MReg) (qos : BitVec 2)
  /-- R265: Quantises va into 32-element MX blocks, writing codes to vd and E8M0 scales to vs. -/
  | vmxq (vd : VReg) (vs : VReg) (va : VReg) (ty : BitVec 5) (m : MReg) (rnd : BitVec 3) (sat : Bool) (qos : BitVec 2)
  /-- R275: Checks a stream from memory into a FREE buffer handle, moves it to FILLING and starts the transfer. -/
  | strm (h : BitVec 5) (xa : XReg) (xb : XReg) (xc : XReg) (ty : BitVec 5) (mk : MReg) (qos : BitVec 2) (ix : Bool) (vi : VReg) (ev : Bool)
  /-- R275: Checks a stream from a buffer to memory, moves the handle to DRAINING and starts the transfer. -/
  | strmw (h : BitVec 5) (xa : XReg) (xb : XReg) (xc : XReg) (ty : BitVec 5) (mk : MReg) (qos : BitVec 2) (ix : Bool) (vi : VReg) (ev : Bool)
  /-- R279: Waits while the handle is FILLING or DRAINING and differs from the named state, then writes its state. -/
  | hwait (xa : XReg) (h : BitVec 5) (target : BitVec 5)
  /-- R279: Writes the handle's state code to xa at once. -/
  | hstate (xa : XReg) (h : BitVec 5)
  /-- R279: Moves a FULL handle to FREE. -/
  | hfree (h : BitVec 5)
  /-- R280: Checks a copy command and waits for a free slot of the named copy queue. -/
  | xcopy (q : BitVec 5) (xa : XReg) (xb : XReg) (xc : XReg) (ty : BitVec 5) (qos : BitVec 2) (ev : Bool)
  /-- R283: Executes a gang instance that fetches a strip once and delivers it to every selected member. -/
  | gstream (v : VReg) (xb : XReg) (mask : BitVec 8) (code : BitVec 3) (ty : BitVec 5)
  /-- R284: Executes a gang instance that copies a register of the source member to every selected member. -/
  | gbcast (v : VReg) (member : BitVec 6) (mask : BitVec 8) (code : BitVec 3) (ty : BitVec 5)
  /-- R287: Adds to a Trivet counter and returns the old value. -/
  | scntadd (xd : XReg) (xh : XReg) (xv : XReg) (sys : Bool)
  /-- R287: Reads a Trivet counter. -/
  | scntrd (xd : XReg) (xh : XReg) (sys : Bool)
  /-- R287: Begins waiting until a counter reaches a value. -/
  | scntwait (xd : XReg) (xh : XReg) (xv : XReg) (sys : Bool)
  /-- R288: Records an arrival at a barrier and returns its phase, advancing the phase when the count is reached. -/
  | sbararr (xd : XReg) (xh : XReg) (sys : Bool)
  /-- R287: Begins waiting until a barrier has passed a phase or is BROKEN. -/
  | sbarwait (xd : XReg) (xh : XReg) (xv : XReg) (sys : Bool)
  /-- R287: Joins a semaphore's queue to take a value. -/
  | ssemacq (xd : XReg) (xh : XReg) (xv : XReg) (sys : Bool)
  /-- R287: Adds to a semaphore, saturating, and returns the new value. -/
  | ssemrel (xd : XReg) (xh : XReg) (xv : XReg) (sys : Bool)
  /-- R289: Contributes a value to a reduction cell's open round, or is refused. -/
  | sredadd (xd : XReg) (xh : XReg) (xv : XReg) (ty : BitVec 3) (sys : Bool)
  /-- R287: Begins waiting until a reduction cell has completed enough rounds. -/
  | sredget (xd : XReg) (xh : XReg) (xv : XReg) (ty : BitVec 3) (sys : Bool)
  /-- R305: The front end issues one ready instruction per scalar tick, taking harts round-robin. -/
  | scalarIssue (core : Nat)
  /-- R306: A vector or matrix instruction enters decode once register entries and micro-op windows have room. -/
  | vectorDecode (hart : Nat) (unit : Nat) (groups : Nat) (writes : Nat) (masks : Nat) (srcs : List (Nat × Bool)) (skipped : List Nat)
  /-- R311: A resource takes one ready micro-op by the fewest-remaining rule, or a skipped group goes to the fill path. -/
  | microOpIssue (core : Nat) (unit : Nat)
  /-- R311: A micro-op passed over 32 times is taken at its resource's next choice. -/
  | microOpPromotion (core : Nat) (unit : Nat)
  /-- R309: A producer's element group becomes available after its latency and the micro-op completes. -/
  | groupAvailable (core : Nat) (age : Nat) (group : Nat)
  /-- R22: After earlier vector instructions finish, the lanes switch mode in 12 cycles. -/
  | modeSwitch (hart : Nat)
  /-- R189: After earlier vector instructions complete, octets are dropped or added, lanes zeroed and a kind 5 record posted or held. -/
  | grantChange (hart : Nat)
  /-- R167: Once outstanding work is acknowledged, segments are released, lanes zeroed and the hart unbound. -/
  | haltComplete (hart : Nat)
  /-- R102: The fence's earlier accesses have completed at its scope and later accesses may begin. -/
  | fenceComplete (hart : Nat)
  /-- R101: Every earlier access has been performed and later accesses are released. -/
  | vlsyncComplete (hart : Nat)
  /-- R100: An access is performed at its memory slice in the octet's FIFO order, or discarded by a horizon. -/
  | accessPerformed (k : Nat)
  /-- R363: A load response arrives and binds the value, or is discarded after a freeze. -/
  | loadValueBound (k : Nat)
  /-- R102: A store's acknowledgement arrives as visible at its scope and retires it. -/
  | storeAcknowledge (k : Nat)
  /-- R371: The issuer confirms a class T response and the target frees its duplicate-table entry. -/
  | tagConfirm (k : Nat)
  /-- R287: A counter reaches the waited value and the waiter returns it. -/
  | scntwaitSatisfied (hart : Nat)
  /-- R287: A barrier passes the phase or breaks and the waiter returns 0 or 1. -/
  | sbarwaitRelease (hart : Nat)
  /-- R287: The semaphore value suffices for the first waiter, which takes it. -/
  | ssemacqGrant (sem : Nat)
  /-- R287: The cell completes the waited round and the waiter receives the result. -/
  | sredgetSatisfied (hart : Nat)
  /-- R279: A waited handle leaves FILLING or DRAINING or reaches the named state and HWAIT returns. -/
  | hwaitWake (hart : Nat)
  /-- R169: A record enters the empty queue and the waiting EVWAIT pops it. -/
  | evwaitWake (hart : Nat)
  /-- R171: A slot frees and a held grant-change record or a stalled producer posts. -/
  | eventStallRelease (hart : Nat)
  /-- R277: A stream chunk finishes and its bit is set in the engine-owned chunk mask. -/
  | chunkDone (hart : Nat) (h : Nat) (c : Nat)
  /-- R275: The last chunk of a STRM is visible and the handle becomes FULL. -/
  | strmComplete (hart : Nat) (h : Nat)
  /-- R275: Every write of a STRMW is visible at PKG scope and the handle becomes FREE. -/
  | strmwComplete (hart : Nat) (h : Nat)
  /-- R334: The stream engine sends one line request flit per tick while under 512 outstanding reads. -/
  | streamEngineRequest (core : Nat)
  /-- R280: A copy queue slot frees and the waiting XCOPY is posted. -/
  | xcopyPost (hart : Nat)
  /-- R280: After earlier commands of its queue complete, the queue reads the source and writes the destination. -/
  | copyExecute (die : Nat) (cq : Nat)
  /-- R280: A copy's writes finish, its flag is written with release, and an event is posted if requested. -/
  | copyComplete (die : Nat) (cq : Nat)
  /-- R268: Room exists in the ring and the appender claims a contiguous slot range and writes its slots. -/
  | vappendClaim (hart : Nat)
  /-- R268: The committed count reaches the claim start and the appender commits with release. -/
  | vappendCommit (k : Nat)
  /-- R272: A train reaches its destination die, whose inboxes append or refuse its elements, and is acknowledged. -/
  | trainArrival (k : Nat)
  /-- R109: A train's acknowledgement reaches the issuer; the last one completes VSCATR. -/
  | trainAcknowledge (k : Nat)
  /-- R411: An element for a DEAD replica or ABSENT die reaches the hub and is forwarded to the primary or lost. -/
  | trainRedirect (k : Nat)
  /-- R283: A gang instance's data lands in a selected member's register. -/
  | gangStripLand (hart : Nat) (n : Nat)
  /-- R391: A core acknowledges a new generation; the last acknowledgement completes the GENBUMP. -/
  | genbumpAck (asid : Nat) (core : Nat)
  /-- R338: A 64-byte host write to a queue window pushes a launch record or is refused. -/
  | hostPush (q : Nat) (off : Nat) (bytes : List (BitVec 8))
  /-- R339: A slot frees and a held host push enters its queue. -/
  | heldPushAccept
  /-- R339: A held host push expires after 1 ms and completes with an error. -/
  | hostPushTimeout
  /-- R344: The distributor selects the head of an eligible queue by priority and weight credits. -/
  | select
  /-- R345: 100 us pass without a binding and the distributor selects again. -/
  | selectionTimeout
  /-- R347: Free resources meet the selected record and its next gang is bound whole. -/
  | bindGang (choice : List Nat)
  /-- R352: A gang's last member finishes HALT and its barrier is released. -/
  | gangComplete (gang : Nat)
  /-- R360: A driver write raises a PREEMPT on the named bound hart. -/
  | preemptreq (hart : Nat)
  /-- R378: The lane-reclaim deadline expires and raises a PREEMPT of reason 2. -/
  | laneReclaimDeadline (hart : Nat)
  /-- R360: A pending PREEMPT is taken at application level and the freeze begins. -/
  | preempt (hart : Nat)
  /-- R363: Issued micro-ops have finished and the 256-cycle settle window begins. -/
  | settleWindow (hart : Nat)
  /-- R363: The settle window expires and the in-flight record is frozen. -/
  | recordFrozen (hart : Nat)
  /-- R379: An uncorrectable error in a context's data kills the whole context. -/
  | uncorrectableError (ctx : Nat) (source : Nat) (pa : Word)
  /-- R379: A driver write of KILLED = 1 to a context entry kills the context. -/
  | killedWrite (ctx : Nat)
  /-- R380: A containment notice is delivered as a CONTAINMENT trap on the service hart. -/
  | noticeDelivery
  /-- R361: Sets a barrier's arrival count to 0 and clears BROKEN. -/
  | trvresetBarrier (i : Nat)
  /-- R361: Sets a semaphore's value to VALUE. -/
  | trvresetSemaphore (i : Nat) (v : BitVec 32)
  /-- R362: Sets a counter's value to TRVDATA. -/
  | trvsetCounter (i : Nat)
  /-- R362: Sets a barrier's participant count and clears its counts, phase and BROKEN. -/
  | trvsetBarrier (i : Nat) (n : Nat)
  /-- R362: Sets a semaphore's value to TRVDATA. -/
  | trvsetSemaphore (i : Nat)
  /-- R362: Sets a reduction cell's type and count and clears its rounds. -/
  | trvsetCell (i : Nat) (n : Nat) (ty : Nat)
  /-- R423: A write to a device register with no row of its own stores it under its field rules. -/
  | registerWrite (off : Nat) (val : Word)
  /-- R98: A host CXL.mem access is served at the hub by physical address. -/
  | hostCxlMemAccess (pa : Nat) (len : Nat) (write : Bool) (bytes : List (BitVec 8))
  /-- R325: A flit enters a router, the k-th where several wait at an external port, and its route is computed. -/
  | flitArrival (die : Nat) (stop : Nat) (net : Nat) (input : Nat) (vc : Nat) (k : Nat)
  /-- R329: An output port grants one eligible flit per tick by promotion, class credit and input order. -/
  | outputPortGrant (die : Nat) (stop : Nat) (net : Nat) (out : Nat)
  /-- R331: A flit's ageing counter reaches AGEMAX and the flit is promoted. -/
  | flitPromotion (die : Nat) (stop : Nat) (net : Nat) (out : Nat)
  /-- R332: A write stores new arbitration weights and AGEMAX with clamping. -/
  | nocarb (die : Nat) (val : Word)
  /-- R333: The new arbitration settings take effect at every router of the die. -/
  | nocarbApply (die : Nat)
  /-- R396: Starts copying a source frame to the destination frame of a FREE slot. -/
  | migrationGo (slot : Nat)
  /-- R395: Returns a DONE or ERROR slot to FREE with POINTER 0. -/
  | migrationClear (slot : Nat)
  /-- R396: One line is locked, recalled, copied and unlocked, advancing POINTER or stopping in ERROR. -/
  | migrationLineCopy (slot : Nat) (err : Bool)
  /-- R405: A policy interval ends; loads are computed and at most one sequence starts. -/
  | ladleIntervalEnd
  /-- R403: A charge or discharge reaches the hub and adjusts one in-flight bucket. -/
  | inflightMessage (k : Nat)
  /-- R407: Starts replicating an expert onto a die by taking a frame and copying its weights. -/
  | replicate (e : Nat) (die : Nat)
  /-- R407: The copy finishes; the checksum is compared and the replica entry written before SWITCH. -/
  | replicationVerify (err : Nat)
  /-- R407: A die applies a SWITCH between two VROUTEs and acknowledges. -/
  | switchApply (die : Nat)
  /-- R407: An acknowledgement reaches the hub; the last advances LDVER and rotates the buckets. -/
  | switchAck (die : Nat)
  /-- R410: A die fails to acknowledge a switch within 2 us and is marked ABSENT. -/
  | switchAckTimeout (die : Nat)
  /-- R409: Makes an ACTIVE replica RETIRING and runs a switch. -/
  | retire (e : Nat) (k : Nat)
  /-- R409: The replica's counts reach 0 and its inbox is consumed, ending DRAIN. -/
  | drainEnd
  /-- R409: The retired replica's frame is zeroed and returned and the replica becomes EMPTY. -/
  | wipe
  /-- R412: After a trigger and an idle phase, replica gradients are added into each primary and DONE is raised. -/
  | merge
  /-- R413: Sets HOLD on an expert. -/
  | hold (e : Nat)
  /-- R413: Clears HOLD on an expert. -/
  | unhold (e : Nat)
  /-- R413: Wipes a DEAD replica's frame when its die is present and makes it EMPTY. -/
  | reclaim (e : Nat) (k : Nat)
  /-- R410: Clears ABSENT for a die, which takes the whole table before routing again. -/
  | rejoin (die : Nat)
  /-- R413: Sets a RETIRING replica's counts to 0 and in DRAIN counts its inbox as drained. -/
  | forcedrain (e : Nat) (k : Nat)
  /-- R413: Runs a switch carrying the driver's table edits. -/
  | publish
  /-- R433: Zeroes on-package SRAM, destroys key slots and begins the HBM zero-fill. -/
  | coldReset
  /-- R433: Writes back dirty LLC lines and zeroes on-package SRAM, keeping keys and error history. -/
  | warmReset
  /-- R429: A boot stage verifies and measures the next image or stops the boot. -/
  | bootStage (image : List (BitVec 8))
  /-- R433: The HBM zero-fill passes the last line and FILL clears. -/
  | zeroFillComplete
  /-- R431: A token-checked request moves the package from MANUFACTURE to PROVISIONED. -/
  | lcreqProvisioned
  /-- R431: A token-checked request moves the package from PROVISIONED to DEPLOYED. -/
  | lcreqDeployed
  /-- R431: A doubly signed request moves the package from DEPLOYED to RMA. -/
  | lcreqRma
  /-- R431: An operator-signed request moves the package to DECOMMISSIONED. -/
  | lcreqDecommissioned
  /-- R430: An SPDM request answered over the DOE mailbox. -/
  | getVersion
  /-- R430: An SPDM request answered over the DOE mailbox. -/
  | getCapabilities
  /-- R430: An SPDM request fixing ECDSA P-256 and SHA-256. -/
  | negotiateAlgorithms
  /-- R430: An SPDM request returning certificate digests. -/
  | getDigests
  /-- R430: An SPDM request returning the identity certificate. -/
  | getCertificate (off : Nat) (len : Nat)
  /-- R430: An SPDM challenge signed with the device identity key. -/
  | challenge (nonce : BitVec 256)
  /-- R430: An SPDM request returning measurement indices 1 to 6. -/
  | getMeasurements (index : Nat)
  /-- R426: A ROUTE write takes effect for accesses issued after it completes. -/
  | routeWrite (p : Nat) (val : Word)
  /-- R425: A remote access not delivered within FABTMO is an uncorrectable error. -/
  | fabricTimeout (ctx : Nat) (pa : Word)
  /-- R66: A die's noise source starts or stops failing its health test. -/
  | nsfailChange (die : Nat) (v : Bool)
  /-- R437: A request reaches an HBM controller and takes a source slot, or waits at the hub. -/
  | memoryRequest (stack : Nat) (kind : Nat) (source : Nat) (pch : Nat) (bank : Nat) (row : Nat) (write : Bool) (line : Nat)
  /-- R438: No marked request remains, so the controller marks a new batch and ranks sources. -/
  | batchFormation (stack : Nat)
  /-- R439: A bank serves the first request in marked, row-hit, rank and age order. -/
  | bankCommandSlot (stack : Nat) (pch : Nat) (bank : Nat)
  /-- R450: The page re-encryption ends and held accesses to the page resume. -/
  | minorOverflowEnd (page : Nat)
  /-- R448: At the patrol rate, one line is locked, checked, re-encrypted under NEXT and unlocked; it finds a result code and the home die of the line's frame. -/
  | nimbusPatrolLine (found : Nat × Nat)
  /-- R451: Rotates the key slots at once, or sets ROTREF when a region holds OLD2. -/
  | rotate
  /-- R455: A failed unit is mapped out, its user killed and HEALTH updated. -/
  | unitMapOut (cls : Nat) (die : Nat) (index : Nat)
  /-- R458: Kills the die's contexts, marks it RESETTING and ABSENT, and starts moving routes. -/
  | dierst (die : Nat)
  /-- R458: The 10 us drain ends; remaining flits are discarded and resent on the new route. -/
  | dieDrainEnd (die : Nat)
  /-- R458: The die's SRAM is zeroed and tested and STATE returns to IN_SERVICE. -/
  | dieResetComplete (die : Nat)
  /-- R459: Every 1 ms, firmware steps clocks by power and temperature and resets an overheated die. -/
  | powerEvaluation (readings : List (Nat × Nat))
  /-- R433: The HBM zero-fill passes one line, advancing FILLPTR and releasing host CXL.mem accesses that wait for that line. -/
  | zeroFillLine
  /-- R426: An optical fabric link, or the CXL host link, trains or drops, changing LINKSTAT.UP. -/
  | linkTrained (link : Nat) (up : Bool)
  /-- R98: A memory access from another package arrives over the Phifety fabric and is served at this package's hub. -/
  | fabricAccess (pa : Nat) (len : Nat) (write : Bool) (bytes : List (BitVec 8))
  deriving DecidableEq, Repr

/-- Whether a row is a step of an agent other than a hart (spec/95): such a step has no encoding. -/
def Instr.isDeviceStep : Instr → Bool
  | .add _ _ _ => false
  | .sub _ _ _ => false
  | .and _ _ _ => false
  | .or _ _ _ => false
  | .xor _ _ _ => false
  | .sll _ _ _ => false
  | .srl _ _ _ => false
  | .sra _ _ _ => false
  | .rotl _ _ _ => false
  | .rotr _ _ _ => false
  | .slt _ _ _ => false
  | .sltn _ _ _ => false
  | .min _ _ _ => false
  | .max _ _ _ => false
  | .minn _ _ _ => false
  | .maxn _ _ _ => false
  | .mul _ _ _ => false
  | .mulh _ _ _ => false
  | .mulhn _ _ _ => false
  | .div _ _ _ => false
  | .divn _ _ _ => false
  | .rem _ _ _ => false
  | .remn _ _ _ => false
  | .clz _ _ _ => false
  | .ctz _ _ _ => false
  | .popc _ _ _ => false
  | .sext _ _ _ => false
  | .zext _ _ _ => false
  | .fadd _ _ _ _ _ => false
  | .fsub _ _ _ _ _ => false
  | .fmul _ _ _ _ _ => false
  | .fdiv _ _ _ _ _ => false
  | .fsqrt _ _ _ _ => false
  | .fmin _ _ _ _ => false
  | .fmax _ _ _ _ => false
  | .fcmp _ _ _ _ _ => false
  | .fcvt _ _ _ _ _ _ => false
  | .fclass _ _ _ => false
  | .ffma _ _ _ _ _ _ => false
  | .addi _ _ _ => false
  | .andi _ _ _ => false
  | .ori _ _ _ => false
  | .xori _ _ _ => false
  | .slli _ _ _ => false
  | .srli _ _ _ => false
  | .srai _ _ _ => false
  | .slti _ _ _ => false
  | .lih _ _ => false
  | .addpc _ _ => false
  | .ldI8 _ _ _ => false
  | .ldN8 _ _ _ => false
  | .ldI16 _ _ _ => false
  | .ldN16 _ _ _ => false
  | .ldI32 _ _ _ => false
  | .ldN32 _ _ _ => false
  | .ldI64 _ _ _ => false
  | .ldacq _ _ _ _ => false
  | .st8 _ _ _ => false
  | .st16 _ _ _ => false
  | .st32 _ _ _ => false
  | .st64 _ _ _ => false
  | .strel _ _ _ _ => false
  | .amoAdd _ _ _ _ _ => false
  | .amoAnd _ _ _ _ _ => false
  | .amoOr _ _ _ _ _ => false
  | .amoXor _ _ _ _ _ => false
  | .amoMin _ _ _ _ _ => false
  | .amoMax _ _ _ _ _ => false
  | .amoSwap _ _ _ _ _ => false
  | .amoCas _ _ _ _ _ => false
  | .prefetch _ _ _ => false
  | .pin _ _ _ => false
  | .unpin _ _ _ => false
  | .beq _ _ _ => false
  | .bne _ _ _ => false
  | .blt _ _ _ => false
  | .bge _ _ _ => false
  | .bltn _ _ _ => false
  | .bgen _ _ _ => false
  | .jal _ _ => false
  | .jalr _ _ _ => false
  | .ecall => false
  | .ebreak => false
  | .tret => false
  | .halt => false
  | .yield => false
  | .fence _ _ => false
  | .vlsync => false
  | .evpop _ _ => false
  | .evwait _ _ => false
  | .csrrw _ _ _ => false
  | .csrrs _ _ _ => false
  | .csrrc _ _ _ => false
  | .ifrsave _ => false
  | .ifrload _ => false
  | .ifrreplay _ => false
  | .ctxsavev _ => false
  | .ctxloadv _ => false
  | .genbump _ _ => false
  | .lanecap _ _ _ => false
  | .sfuload _ _ _ => false
  | .launch _ _ _ => false
  | .vadd _ _ _ _ _ _ _ => false
  | .vsub _ _ _ _ _ _ _ => false
  | .vmul _ _ _ _ _ _ _ => false
  | .vmulh _ _ _ _ _ _ _ => false
  | .vdiv _ _ _ _ _ _ _ => false
  | .vfma _ _ _ _ _ _ _ => false
  | .vfms _ _ _ _ _ _ _ => false
  | .vfnma _ _ _ _ _ _ _ => false
  | .vmin _ _ _ _ _ _ _ => false
  | .vmax _ _ _ _ _ _ _ => false
  | .vadds _ _ _ _ _ _ _ => false
  | .vsubs _ _ _ _ _ _ _ => false
  | .vand _ _ _ _ _ _ _ => false
  | .vor _ _ _ _ _ _ _ => false
  | .vxor _ _ _ _ _ _ _ => false
  | .vsll _ _ _ _ _ _ _ => false
  | .vsrl _ _ _ _ _ _ _ => false
  | .vsra _ _ _ _ _ _ _ => false
  | .vcmp _ _ _ _ _ _ _ _ => false
  | .vmerge _ _ _ _ _ _ => false
  | .vmulsc _ _ _ _ _ _ _ => false
  | .vperm _ _ _ _ _ _ _ => false
  | .vzipLo _ _ _ _ _ => false
  | .vzipHi _ _ _ _ _ => false
  | .vunzipEven _ _ _ _ _ => false
  | .vunzipOdd _ _ _ _ _ => false
  | .vsqrt _ _ _ _ _ => false
  | .vabs _ _ _ _ _ => false
  | .vneg _ _ _ _ _ => false
  | .vmov _ _ _ _ _ => false
  | .vreshuf _ _ _ _ _ => false
  | .vcompress _ _ _ _ => false
  | .vexpand _ _ _ _ _ => false
  | .viota _ _ _ _ => false
  | .vcvt _ _ _ _ _ _ _ => false
  | .vsf _ _ _ _ _ _ => false
  | .vsfrr _ _ _ _ _ _ => false
  | .vsftab _ _ _ _ _ _ => false
  | .vsfpoly _ _ _ _ _ _ _ => false
  | .vsfscl _ _ _ _ _ _ _ => false
  | .vrngN32 _ _ _ => false
  | .vrngN64 _ _ _ => false
  | .vrngF32 _ _ _ => false
  | .vaddX _ _ _ _ _ _ _ => false
  | .vsubX _ _ _ _ _ _ _ => false
  | .vmulX _ _ _ _ _ _ _ => false
  | .vfmaX _ _ _ _ _ _ _ => false
  | .vminX _ _ _ _ _ _ _ => false
  | .vmaxX _ _ _ _ _ _ _ => false
  | .vandX _ _ _ _ _ _ _ => false
  | .vorX _ _ _ _ _ _ _ => false
  | .vxorX _ _ _ _ _ _ _ => false
  | .vsllX _ _ _ _ _ _ _ => false
  | .vsrlX _ _ _ _ _ _ _ => false
  | .vsraX _ _ _ _ _ _ _ => false
  | .vcmpX _ _ _ _ _ _ _ _ => false
  | .vbcast _ _ _ _ _ => false
  | .vmvx _ _ _ _ _ => false
  | .vxmv _ _ _ _ => false
  | .vaddi _ _ _ _ _ _ => false
  | .vandi _ _ _ _ _ _ => false
  | .vslli _ _ _ _ _ _ => false
  | .vsrli _ _ _ _ _ _ => false
  | .vsrai _ _ _ _ _ _ => false
  | .vslideup _ _ _ _ _ _ => false
  | .vslidedn _ _ _ _ _ _ => false
  | .vring _ _ _ _ _ _ => false
  | .vrsum _ _ _ _ => false
  | .vrmax _ _ _ _ => false
  | .vrmin _ _ _ _ => false
  | .vrssq _ _ _ _ => false
  | .vsoftmax _ _ _ _ _ => false
  | .vrnormRms _ _ _ _ _ => false
  | .vrnormLayer _ _ _ _ _ => false
  | .vtmovRow _ _ _ _ => false
  | .vtmovCol _ _ _ _ => false
  | .vsetvl _ _ _ => false
  | .vsettag _ _ => false
  | .vgettag _ _ => false
  | .modeV => false
  | .modeM => false
  | .mand _ _ _ => false
  | .mor _ _ _ => false
  | .mxor _ _ _ => false
  | .mandn _ _ _ => false
  | .mpopc _ _ => false
  | .mfirst _ _ => false
  | .mset _ => false
  | .vld _ _ _ _ _ => false
  | .vldff _ _ _ _ _ => false
  | .vldm _ _ _ _ _ => false
  | .vst _ _ _ _ => false
  | .vstff _ _ _ _ => false
  | .mma _ _ _ _ _ _ _ _ _ _ _ _ _ => false
  | .mmaRs _ _ _ _ _ _ _ _ _ _ => false
  | .mmax _ _ _ _ _ _ _ _ _ _ _ _ _ _ _ => false
  | .mmaxRs _ _ _ _ _ _ _ _ _ _ _ _ => false
  | .mdrain _ _ _ _ => false
  | .mattach _ => false
  | .mdetach => false
  | .mpreload _ _ => false
  | .mzero _ => false
  | .mdrainst _ _ _ _ _ _ _ _ _ => false
  | .vlds _ _ _ _ _ _ _ _ => false
  | .vldx _ _ _ _ _ _ _ _ _ => false
  | .vsts _ _ _ _ _ _ _ => false
  | .vstx _ _ _ _ _ _ _ => false
  | .vamoAdd _ _ _ _ _ _ _ _ _ _ => false
  | .vamoMin _ _ _ _ _ _ _ _ _ _ => false
  | .vamoMax _ _ _ _ _ _ _ _ _ _ => false
  | .vamoSwap _ _ _ _ _ _ _ _ _ _ => false
  | .vappend _ _ _ _ _ _ => false
  | .vappendIdx _ _ _ _ _ => false
  | .vscatr _ _ _ _ _ _ _ => false
  | .vroute _ _ _ _ _ => false
  | .vmxq _ _ _ _ _ _ _ _ => false
  | .strm _ _ _ _ _ _ _ _ _ _ => false
  | .strmw _ _ _ _ _ _ _ _ _ _ => false
  | .hwait _ _ _ => false
  | .hstate _ _ => false
  | .hfree _ => false
  | .xcopy _ _ _ _ _ _ _ => false
  | .gstream _ _ _ _ _ => false
  | .gbcast _ _ _ _ _ => false
  | .scntadd _ _ _ _ => false
  | .scntrd _ _ _ => false
  | .scntwait _ _ _ _ => false
  | .sbararr _ _ _ => false
  | .sbarwait _ _ _ _ => false
  | .ssemacq _ _ _ _ => false
  | .ssemrel _ _ _ _ => false
  | .sredadd _ _ _ _ _ => false
  | .sredget _ _ _ _ _ => false
  | .scalarIssue _ => true
  | .vectorDecode _ _ _ _ _ _ _ => true
  | .microOpIssue _ _ => true
  | .microOpPromotion _ _ => true
  | .groupAvailable _ _ _ => true
  | .modeSwitch _ => true
  | .grantChange _ => true
  | .haltComplete _ => true
  | .fenceComplete _ => true
  | .vlsyncComplete _ => true
  | .accessPerformed _ => true
  | .loadValueBound _ => true
  | .storeAcknowledge _ => true
  | .tagConfirm _ => true
  | .scntwaitSatisfied _ => true
  | .sbarwaitRelease _ => true
  | .ssemacqGrant _ => true
  | .sredgetSatisfied _ => true
  | .hwaitWake _ => true
  | .evwaitWake _ => true
  | .eventStallRelease _ => true
  | .chunkDone _ _ _ => true
  | .strmComplete _ _ => true
  | .strmwComplete _ _ => true
  | .streamEngineRequest _ => true
  | .xcopyPost _ => true
  | .copyExecute _ _ => true
  | .copyComplete _ _ => true
  | .vappendClaim _ => true
  | .vappendCommit _ => true
  | .trainArrival _ => true
  | .trainAcknowledge _ => true
  | .trainRedirect _ => true
  | .gangStripLand _ _ => true
  | .genbumpAck _ _ => true
  | .hostPush _ _ _ => true
  | .heldPushAccept => true
  | .hostPushTimeout => true
  | .select => true
  | .selectionTimeout => true
  | .bindGang _ => true
  | .gangComplete _ => true
  | .preemptreq _ => true
  | .laneReclaimDeadline _ => true
  | .preempt _ => true
  | .settleWindow _ => true
  | .recordFrozen _ => true
  | .uncorrectableError _ _ _ => true
  | .killedWrite _ => true
  | .noticeDelivery => true
  | .trvresetBarrier _ => true
  | .trvresetSemaphore _ _ => true
  | .trvsetCounter _ => true
  | .trvsetBarrier _ _ => true
  | .trvsetSemaphore _ => true
  | .trvsetCell _ _ _ => true
  | .registerWrite _ _ => true
  | .hostCxlMemAccess _ _ _ _ => true
  | .flitArrival _ _ _ _ _ _ => true
  | .outputPortGrant _ _ _ _ => true
  | .flitPromotion _ _ _ _ => true
  | .nocarb _ _ => true
  | .nocarbApply _ => true
  | .migrationGo _ => true
  | .migrationClear _ => true
  | .migrationLineCopy _ _ => true
  | .ladleIntervalEnd => true
  | .inflightMessage _ => true
  | .replicate _ _ => true
  | .replicationVerify _ => true
  | .switchApply _ => true
  | .switchAck _ => true
  | .switchAckTimeout _ => true
  | .retire _ _ => true
  | .drainEnd => true
  | .wipe => true
  | .merge => true
  | .hold _ => true
  | .unhold _ => true
  | .reclaim _ _ => true
  | .rejoin _ => true
  | .forcedrain _ _ => true
  | .publish => true
  | .coldReset => true
  | .warmReset => true
  | .bootStage _ => true
  | .zeroFillComplete => true
  | .lcreqProvisioned => true
  | .lcreqDeployed => true
  | .lcreqRma => true
  | .lcreqDecommissioned => true
  | .getVersion => true
  | .getCapabilities => true
  | .negotiateAlgorithms => true
  | .getDigests => true
  | .getCertificate _ _ => true
  | .challenge _ => true
  | .getMeasurements _ => true
  | .routeWrite _ _ => true
  | .fabricTimeout _ _ => true
  | .nsfailChange _ _ => true
  | .memoryRequest _ _ _ _ _ _ _ _ => true
  | .batchFormation _ => true
  | .bankCommandSlot _ _ _ => true
  | .minorOverflowEnd _ => true
  | .nimbusPatrolLine _ => true
  | .rotate => true
  | .unitMapOut _ _ _ => true
  | .dierst _ => true
  | .dieDrainEnd _ => true
  | .dieResetComplete _ => true
  | .powerEvaluation _ => true
  | .zeroFillLine => true
  | .linkTrained _ _ => true
  | .fabricAccess _ _ _ _ => true

end Sys2Proof
end

