-- ==== Sys2Proof/WellFormed.lean ====
section
/-! DEFINITION. Which instructions are well formed: no reserved code (R8, R115 and the field rules of R124 to R131)
and, for a device step, a target that the package has. -/

namespace Sys2Proof

/-- No field of the instruction holds a reserved code; a device step names a unit that exists. -/
def Instr.wellFormed : Instr → Bool
  | .add _ _ _ => true
  | .sub _ _ _ => true
  | .and _ _ _ => true
  | .or _ _ _ => true
  | .xor _ _ _ => true
  | .sll _ _ _ => true
  | .srl _ _ _ => true
  | .sra _ _ _ => true
  | .rotl _ _ _ => true
  | .rotr _ _ _ => true
  | .slt _ _ _ => true
  | .sltn _ _ _ => true
  | .min _ _ _ => true
  | .max _ _ _ => true
  | .minn _ _ _ => true
  | .maxn _ _ _ => true
  | .mul _ _ _ => true
  | .mulh _ _ _ => true
  | .mulhn _ _ _ => true
  | .div _ _ _ => true
  | .divn _ _ _ => true
  | .rem _ _ _ => true
  | .remn _ _ _ => true
  | .clz _ _ w => decide (w ≤ 4#3)
  | .ctz _ _ w => decide (w ≤ 4#3)
  | .popc _ _ w => decide (w ≤ 4#3)
  | .sext _ _ w => decide (w ≤ 4#3)
  | .zext _ _ w => decide (w ≤ 4#3)
  | .fadd _ _ _ _ rnd => decide (rnd ≠ 7#3)
  | .fsub _ _ _ _ rnd => decide (rnd ≠ 7#3)
  | .fmul _ _ _ _ rnd => decide (rnd ≠ 7#3)
  | .fdiv _ _ _ _ rnd => decide (rnd ≠ 7#3)
  | .fsqrt _ _ _ rnd => decide (rnd ≠ 7#3)
  | .fmin _ _ _ _ => true
  | .fmax _ _ _ _ => true
  | .fcmp _ _ _ _ _ => true
  | .fcvt _ _ _ _ rnd _ => decide (rnd ≠ 7#3)
  | .fclass _ _ _ => true
  | .ffma _ _ _ _ _ rnd => decide (rnd ≠ 7#3)
  | .addi _ _ _ => true
  | .andi _ _ _ => true
  | .ori _ _ _ => true
  | .xori _ _ _ => true
  | .slli _ _ _ => true
  | .srli _ _ _ => true
  | .srai _ _ _ => true
  | .slti _ _ _ => true
  | .lih _ _ => true
  | .addpc _ _ => true
  | .ldI8 _ _ _ => true
  | .ldN8 _ _ _ => true
  | .ldI16 _ _ _ => true
  | .ldN16 _ _ _ => true
  | .ldI32 _ _ _ => true
  | .ldN32 _ _ _ => true
  | .ldI64 _ _ _ => true
  | .ldacq _ _ ew scope => decide (ew ≤ 4#3) && decide (scope ≤ 4#3)
  | .st8 _ _ _ => true
  | .st16 _ _ _ => true
  | .st32 _ _ _ => true
  | .st64 _ _ _ => true
  | .strel _ _ ew scope => decide (ew ≤ 4#3) && decide (scope ≤ 4#3)
  | .amoAdd _ _ _ _ scope => decide (scope ≤ 4#3)
  | .amoAnd _ _ _ _ scope => decide (scope ≤ 4#3)
  | .amoOr _ _ _ _ scope => decide (scope ≤ 4#3)
  | .amoXor _ _ _ _ scope => decide (scope ≤ 4#3)
  | .amoMin _ _ _ _ scope => decide (scope ≤ 4#3)
  | .amoMax _ _ _ _ scope => decide (scope ≤ 4#3)
  | .amoSwap _ _ _ _ scope => decide (scope ≤ 4#3)
  | .amoCas _ _ _ _ scope => decide (scope ≤ 4#3)
  | .prefetch _ _ level => decide (level ≠ 3#2)
  | .pin _ _ level => decide (level ≠ 3#2)
  | .unpin _ _ level => decide (level ≠ 3#2)
  | .beq _ _ _ => true
  | .bne _ _ _ => true
  | .blt _ _ _ => true
  | .bge _ _ _ => true
  | .bltn _ _ _ => true
  | .bgen _ _ _ => true
  | .jal _ _ => true
  | .jalr _ _ _ => true
  | .ecall => true
  | .ebreak => true
  | .tret => true
  | .halt => true
  | .yield => true
  | .fence scope sets => decide (scope ≤ 4#3) && decide (sets ≠ 0#3)
  | .vlsync => true
  | .evpop _ _ => true
  | .evwait _ _ => true
  | .csrrw _ _ _ => true
  | .csrrs _ _ _ => true
  | .csrrc _ _ _ => true
  | .ifrsave _ => true
  | .ifrload _ => true
  | .ifrreplay _ => true
  | .ctxsavev _ => true
  | .ctxloadv _ => true
  | .genbump _ _ => true
  | .lanecap _ _ _ => true
  | .sfuload _ _ _ => true
  | .launch _ _ _ => true
  | .vadd _ _ _ _ _ _ _ => true
  | .vsub _ _ _ _ _ _ _ => true
  | .vmul _ _ _ _ _ _ _ => true
  | .vmulh _ _ _ _ _ _ _ => true
  | .vdiv _ _ _ _ _ _ _ => true
  | .vfma _ _ _ _ _ _ _ => true
  | .vfms _ _ _ _ _ _ _ => true
  | .vfnma _ _ _ _ _ _ _ => true
  | .vmin _ _ _ _ _ _ _ => true
  | .vmax _ _ _ _ _ _ _ => true
  | .vadds _ _ _ _ _ _ _ => true
  | .vsubs _ _ _ _ _ _ _ => true
  | .vand _ _ _ _ _ _ _ => true
  | .vor _ _ _ _ _ _ _ => true
  | .vxor _ _ _ _ _ _ _ => true
  | .vsll _ _ _ _ _ _ _ => true
  | .vsrl _ _ _ _ _ _ _ => true
  | .vsra _ _ _ _ _ _ _ => true
  | .vcmp _ _ _ _ _ _ _ _ => true
  | .vmerge _ _ _ _ _ _ => true
  | .vmulsc _ _ _ _ _ _ _ => true
  | .vperm _ _ _ _ _ _ _ => true
  | .vzipLo _ _ _ _ _ => true
  | .vzipHi _ _ _ _ _ => true
  | .vunzipEven _ _ _ _ _ => true
  | .vunzipOdd _ _ _ _ _ => true
  | .vsqrt _ _ _ _ _ => true
  | .vabs _ _ _ _ _ => true
  | .vneg _ _ _ _ _ => true
  | .vmov _ _ _ _ _ => true
  | .vreshuf _ _ _ _ _ => true
  | .vcompress _ _ _ _ => true
  | .vexpand _ _ _ _ _ => true
  | .viota _ _ _ _ => true
  | .vcvt _ _ _ _ _ _ _ => true
  | .vsf _ _ _ _ _ _ => true
  | .vsfrr _ _ _ _ _ _ => true
  | .vsftab _ _ _ _ _ _ => true
  | .vsfpoly _ _ _ _ _ _ _ => true
  | .vsfscl _ _ _ _ _ _ _ => true
  | .vrngN32 _ _ _ => true
  | .vrngN64 _ _ _ => true
  | .vrngF32 _ _ _ => true
  | .vaddX _ _ _ _ _ _ _ => true
  | .vsubX _ _ _ _ _ _ _ => true
  | .vmulX _ _ _ _ _ _ _ => true
  | .vfmaX _ _ _ _ _ _ _ => true
  | .vminX _ _ _ _ _ _ _ => true
  | .vmaxX _ _ _ _ _ _ _ => true
  | .vandX _ _ _ _ _ _ _ => true
  | .vorX _ _ _ _ _ _ _ => true
  | .vxorX _ _ _ _ _ _ _ => true
  | .vsllX _ _ _ _ _ _ _ => true
  | .vsrlX _ _ _ _ _ _ _ => true
  | .vsraX _ _ _ _ _ _ _ => true
  | .vcmpX _ _ _ _ _ _ _ _ => true
  | .vbcast _ _ sw _ _ => !sw
  | .vmvx _ _ _ sw _ => !sw
  | .vxmv _ _ _ sw => !sw
  | .vaddi _ _ _ _ _ _ => true
  | .vandi _ _ _ _ _ _ => true
  | .vslli _ _ _ _ _ _ => true
  | .vsrli _ _ _ _ _ _ => true
  | .vsrai _ _ _ _ _ _ => true
  | .vslideup _ _ _ _ _ _ => true
  | .vslidedn _ _ _ _ _ _ => true
  | .vring _ _ _ _ _ _ => true
  | .vrsum _ _ _ _ => true
  | .vrmax _ _ _ _ => true
  | .vrmin _ _ _ _ => true
  | .vrssq _ _ _ _ => true
  | .vsoftmax _ _ _ _ _ => true
  | .vrnormRms _ _ _ _ _ => true
  | .vrnormLayer _ _ _ _ _ => true
  | .vtmovRow _ _ _ _ => true
  | .vtmovCol _ _ _ _ => true
  | .vsetvl _ _ ew => decide (ew ≤ 4#3)
  | .vsettag _ _ => true
  | .vgettag _ _ => true
  | .modeV => true
  | .modeM => true
  | .mand _ _ _ => true
  | .mor _ _ _ => true
  | .mxor _ _ _ => true
  | .mandn _ _ _ => true
  | .mpopc _ _ => true
  | .mfirst _ _ => true
  | .mset _ => true
  | .vld _ _ _ _ _ => true
  | .vldff _ _ _ _ _ => true
  | .vldm _ _ _ _ _ => true
  | .vst _ _ _ _ => true
  | .vstff _ _ _ _ => true
  | .mma _ _ _ _ _ _ _ _ _ _ _ rnd _ => decide (rnd ≠ 7#3)
  | .mmaRs _ _ _ _ _ _ _ _ rnd _ => decide (rnd ≠ 7#3)
  | .mmax _ _ _ _ _ _ _ _ _ _ _ _ _ rnd _ => decide (rnd ≠ 7#3)
  | .mmaxRs _ _ _ _ _ _ _ _ _ _ rnd _ => decide (rnd ≠ 7#3)
  | .mdrain _ _ _ rnd => decide (rnd ≠ 7#3)
  | .mattach _ => true
  | .mdetach => true
  | .mpreload _ _ => true
  | .mzero _ => true
  | .mdrainst _ xstride vi ix _ _ rnd _ _ => decide (rnd ≠ 7#3) && decide (if ix then xstride = 0 else vi = 0)
  | .vlds _ _ _ _ _ _ _ _ => true
  | .vldx _ _ _ _ _ _ _ _ _ => true
  | .vsts _ _ _ _ _ _ _ => true
  | .vstx _ _ _ _ _ _ _ => true
  | .vamoAdd _ _ _ _ _ _ _ _ _ scope => decide (scope ≤ 4#3)
  | .vamoMin _ _ _ _ _ _ _ _ _ scope => decide (scope ≤ 4#3)
  | .vamoMax _ _ _ _ _ _ _ _ _ scope => decide (scope ≤ 4#3)
  | .vamoSwap _ _ _ _ _ _ _ _ _ scope => decide (scope ≤ 4#3)
  | .vappend _ _ _ rnd _ _ => decide (rnd ≠ 7#3)
  | .vappendIdx _ _ rnd _ _ => decide (rnd ≠ 7#3)
  | .vscatr _ _ _ _ rnd _ _ => decide (rnd ≠ 7#3)
  | .vroute _ _ _ _ _ => true
  | .vmxq _ _ _ _ _ rnd _ _ => decide (rnd ≠ 7#3)
  | .strm _ _ xb _ _ _ _ ix vi _ => decide (if ix then xb = 0 else vi = 0)
  | .strmw _ _ xb _ _ _ _ ix vi _ => decide (if ix then xb = 0 else vi = 0)
  | .hwait _ _ target => decide (target ≤ 3#5)
  | .hstate _ _ => true
  | .hfree _ => true
  | .xcopy _ _ _ _ _ _ _ => true
  | .gstream _ _ _ _ _ => true
  | .gbcast _ _ _ _ _ => true
  | .scntadd _ _ _ _ => true
  | .scntrd _ _ _ => true
  | .scntwait _ _ _ _ => true
  | .sbararr _ _ _ => true
  | .sbarwait _ _ _ _ => true
  | .ssemacq _ _ _ _ => true
  | .ssemrel _ _ _ _ => true
  | .sredadd _ _ _ ty _ => decide (ty ≤ 2#3)
  | .sredget _ _ _ ty _ => decide (ty ≤ 2#3)
  | .scalarIssue core => decide (core < 512)
  | .vectorDecode hart _ _ _ _ _ _ => decide (hart < 2048)
  | .microOpIssue core _ => decide (core < 512)
  | .microOpPromotion core _ => decide (core < 512)
  | .groupAvailable core _ _ => decide (core < 512)
  | .modeSwitch hart => decide (hart < 2048)
  | .grantChange hart => decide (hart < 2048)
  | .haltComplete hart => decide (hart < 2048)
  | .fenceComplete hart => decide (hart < 2048)
  | .vlsyncComplete hart => decide (hart < 2048)
  | .accessPerformed _ => true
  | .loadValueBound _ => true
  | .storeAcknowledge _ => true
  | .tagConfirm _ => true
  | .scntwaitSatisfied hart => decide (hart < 2048)
  | .sbarwaitRelease hart => decide (hart < 2048)
  | .ssemacqGrant _ => true
  | .sredgetSatisfied hart => decide (hart < 2048)
  | .hwaitWake hart => decide (hart < 2048)
  | .evwaitWake hart => decide (hart < 2048)
  | .eventStallRelease hart => decide (hart < 2048)
  | .chunkDone hart _ _ => decide (hart < 2048)
  | .strmComplete hart _ => decide (hart < 2048)
  | .strmwComplete hart _ => decide (hart < 2048)
  | .streamEngineRequest core => decide (core < 512)
  | .xcopyPost hart => decide (hart < 2048)
  | .copyExecute die _ => decide (die < 8)
  | .copyComplete die _ => decide (die < 8)
  | .vappendClaim hart => decide (hart < 2048)
  | .vappendCommit _ => true
  | .trainArrival _ => true
  | .trainAcknowledge _ => true
  | .trainRedirect _ => true
  | .gangStripLand hart _ => decide (hart < 2048)
  | .genbumpAck _ core => decide (core < 512)
  | .hostPush q _ _ => decide (q < 64)
  | .heldPushAccept => true
  | .hostPushTimeout => true
  | .select => true
  | .selectionTimeout => true
  | .bindGang _ => true
  | .gangComplete _ => true
  | .preemptreq hart => decide (hart < 2048)
  | .laneReclaimDeadline hart => decide (hart < 2048)
  | .preempt hart => decide (hart < 2048)
  | .settleWindow hart => decide (hart < 2048)
  | .recordFrozen hart => decide (hart < 2048)
  | .uncorrectableError ctx _ _ => decide (ctx < 4096)
  | .killedWrite ctx => decide (ctx < 4096)
  | .noticeDelivery => true
  | .trvresetBarrier _ => true
  | .trvresetSemaphore _ _ => true
  | .trvsetCounter _ => true
  | .trvsetBarrier _ _ => true
  | .trvsetSemaphore _ => true
  | .trvsetCell _ _ _ => true
  | .registerWrite _ _ => true
  | .hostCxlMemAccess _ _ _ _ => true
  | .flitArrival die stop _ _ _ _ => decide (die < 8) && decide (stop < 16)
  | .outputPortGrant die stop _ _ => decide (die < 8) && decide (stop < 16)
  | .flitPromotion die stop _ _ => decide (die < 8) && decide (stop < 16)
  | .nocarb die _ => decide (die < 8)
  | .nocarbApply die => decide (die < 8)
  | .migrationGo slot => decide (slot < 64)
  | .migrationClear slot => decide (slot < 64)
  | .migrationLineCopy slot _ => decide (slot < 64)
  | .ladleIntervalEnd => true
  | .inflightMessage _ => true
  | .replicate e die => decide (e < 4096) && decide (die < 8)
  | .replicationVerify _ => true
  | .switchApply die => decide (die < 8)
  | .switchAck die => decide (die < 8)
  | .switchAckTimeout die => decide (die < 8)
  | .retire e _ => decide (e < 4096)
  | .drainEnd => true
  | .wipe => true
  | .merge => true
  | .hold e => decide (e < 4096)
  | .unhold e => decide (e < 4096)
  | .reclaim e _ => decide (e < 4096)
  | .rejoin die => decide (die < 8)
  | .forcedrain e _ => decide (e < 4096)
  | .publish => true
  | .coldReset => true
  | .warmReset => true
  | .bootStage _ => true
  | .zeroFillComplete => true
  | .lcreqProvisioned => true
  | .lcreqDeployed => true
  | .lcreqRma => true
  | .lcreqDecommissioned => true
  | .getVersion => true
  | .getCapabilities => true
  | .negotiateAlgorithms => true
  | .getDigests => true
  | .getCertificate _ _ => true
  | .challenge _ => true
  | .getMeasurements _ => true
  | .routeWrite _ _ => true
  | .fabricTimeout ctx _ => decide (ctx < 4096)
  | .nsfailChange die _ => decide (die < 8)
  | .memoryRequest stack _ _ _ _ _ _ _ => decide (stack < 16)
  | .batchFormation stack => decide (stack < 16)
  | .bankCommandSlot stack _ _ => decide (stack < 16)
  | .minorOverflowEnd _ => true
  | .nimbusPatrolLine _ => true
  | .rotate => true
  | .unitMapOut _ die _ => decide (die < 8)
  | .dierst die => decide (die < 8)
  | .dieDrainEnd die => decide (die < 8)
  | .dieResetComplete die => decide (die < 8)
  | .powerEvaluation _ => true
  | .zeroFillLine => true
  | .linkTrained _ _ => true
  | .fabricAccess _ _ _ _ => true

end Sys2Proof
end

