-- ==== Sys2Proof/Decode.lean ====
section
/-! DEFINITION. The decoder (R113 to R131), total on any bytes, and the encoder written from the same tables.
A word is the length bit, the major opcode and the fields of its format from bit 8 upward; `unpack` cuts the fields by their widths and `pack` joins them. -/

namespace Sys2Proof

/-- Why an encoding raises ILLEGAL_INSTRUCTION (Table 4.1). -/
inductive DecodeError where
  /-- The major opcode is illegal or unassigned (Tables 4.6 and 4.7). -/
  | unassignedMajor
  /-- The function, sub-operation or op value is unassigned. -/
  | unassignedFunction
  /-- A reserved bit, or a field the instruction does not use, is not zero (R8). -/
  | reservedField
  /-- A field holds a reserved code (R115). -/
  | reservedCode
  /-- There are fewer bytes than the instruction has. -/
  | truncated
  deriving DecidableEq, Repr

/-- The instruction formats (Tables 4.2 and 4.3), with the variants whose fields R124 to R129 rename. -/
inductive Fmt where
  | s3
  | bt
  | fp
  | s4
  | si
  | sh
  | acq
  | amo
  | cc
  | sb
  | sj
  | sys
  | csr
  | v3
  | vcp
  | vzp
  | vtm
  | vx
  | vcx
  | vmvx
  | vxmv
  | vi
  | vcv
  | vm
  | vc
  | mm
  | lm
  | lmc
  | lmd
  | lv
  | lr
  | le
  | lg
  | ls
  deriving DecidableEq, Repr

/-- The widths of a format's fields from bit 8 upward. -/
def Fmt.widths : Fmt → List Nat
  | .s3 => [5, 5, 5, 9]
  | .bt => [5, 5, 3, 2, 9]
  | .fp => [5, 5, 5, 4, 1, 3, 1]
  | .s4 => [5, 5, 5, 5, 1, 3]
  | .si => [5, 5, 14]
  | .sh => [5, 5, 6, 8]
  | .acq => [5, 5, 3, 3, 8]
  | .amo => [5, 5, 5, 4, 2, 3]
  | .cc => [5, 5, 5, 2, 7]
  | .sb => [5, 5, 14]
  | .sj => [5, 19]
  | .sys => [5, 5, 4, 3, 3, 4]
  | .csr => [5, 5, 12, 2]
  | .v3 => [6, 6, 6, 3, 1, 1, 1]
  | .vcp => [3, 3, 6, 6, 3, 1, 1, 1]
  | .vzp => [6, 6, 1, 5, 3, 1, 1, 1]
  | .vtm => [6, 6, 1, 5, 3, 1, 1, 1]
  | .vx => [6, 6, 5, 1, 3, 1, 1, 1]
  | .vcx => [3, 3, 6, 5, 1, 3, 1, 1, 1]
  | .vmvx => [5, 1, 6, 5, 1, 3, 1, 1, 1]
  | .vxmv => [6, 5, 1, 5, 1, 3, 1, 1, 1]
  | .vi => [6, 6, 6, 3, 1, 1, 1]
  | .vcv => [6, 6, 5, 1, 3, 1, 1, 1]
  | .vm => [6, 5, 5, 1, 1, 3, 1, 2]
  | .vc => [5, 5, 3, 4, 6, 1]
  | .mm => [3, 3, 3, 4, 5, 6]
  | .lm => [6, 6, 6, 4, 4, 4, 4, 1, 1, 1, 1, 1, 6, 6, 3, 1, 1]
  | .lmc => [6, 5, 4, 2, 4, 3, 32]
  | .lmd => [6, 5, 5, 6, 1, 3, 4, 3, 1, 2, 20]
  | .lv => [6, 5, 5, 6, 3, 1, 1, 1, 2, 4, 2, 3, 17]
  | .lr => [6, 6, 6, 5, 3, 3, 1, 2, 24]
  | .le => [5, 5, 5, 5, 5, 3, 2, 1, 6, 1, 3, 15]
  | .lg => [6, 5, 8, 3, 5, 6, 23]
  | .ls => [5, 5, 5, 4, 3, 1, 33]

/-- Cut a number into fields of the given widths, the lowest first. -/
def unpack : List Nat → Nat → List Nat
  | [], _ => []
  | w :: ws, n => n % 2 ^ w :: unpack ws (n / 2 ^ w)

/-- Join fields of the given widths, the lowest first. -/
def pack : List Nat → List Nat → Nat
  | w :: ws, v :: vs => v + 2 ^ w * pack ws vs
  | _, _ => 0

/-- A scalar register number from a 5-bit field. -/
def toX (n : Nat) : XReg := Fin.ofNat 32 n

/-- A vector register number from a 6-bit field. -/
def toV (n : Nat) : VReg := Fin.ofNat 64 n

/-- A mask register number from a 3-bit field. -/
def toM (n : Nat) : MReg := Fin.ofNat 8 n

/-- A one-bit field. -/
def toB (n : Nat) : Bool := n % 2 == 1

/-- A field that the instruction reserves must be zero (R8). -/
def reserved (l : List Nat) (i : Instr) : Except DecodeError Instr :=
  if l.all (· == 0) then .ok i else .error .reservedField

/-- The instructions of format S3. -/
def decodeS3 (maj : Nat) : List Nat → Except DecodeError Instr
  | [rd, rs1, rs2, fn] =>
    match maj, fn with
    | 0x1, 0 => .ok (Instr.add (toX rd) (toX rs1) (toX rs2))
    | 0x1, 1 => .ok (Instr.sub (toX rd) (toX rs1) (toX rs2))
    | 0x1, 2 => .ok (Instr.and (toX rd) (toX rs1) (toX rs2))
    | 0x1, 3 => .ok (Instr.or (toX rd) (toX rs1) (toX rs2))
    | 0x1, 4 => .ok (Instr.xor (toX rd) (toX rs1) (toX rs2))
    | 0x1, 5 => .ok (Instr.sll (toX rd) (toX rs1) (toX rs2))
    | 0x1, 6 => .ok (Instr.srl (toX rd) (toX rs1) (toX rs2))
    | 0x1, 7 => .ok (Instr.sra (toX rd) (toX rs1) (toX rs2))
    | 0x1, 8 => .ok (Instr.rotl (toX rd) (toX rs1) (toX rs2))
    | 0x1, 9 => .ok (Instr.rotr (toX rd) (toX rs1) (toX rs2))
    | 0x1, 10 => .ok (Instr.slt (toX rd) (toX rs1) (toX rs2))
    | 0x1, 11 => .ok (Instr.sltn (toX rd) (toX rs1) (toX rs2))
    | 0x1, 12 => .ok (Instr.min (toX rd) (toX rs1) (toX rs2))
    | 0x1, 13 => .ok (Instr.max (toX rd) (toX rs1) (toX rs2))
    | 0x1, 14 => .ok (Instr.minn (toX rd) (toX rs1) (toX rs2))
    | 0x1, 15 => .ok (Instr.maxn (toX rd) (toX rs1) (toX rs2))
    | 0x1, 16 => .ok (Instr.mul (toX rd) (toX rs1) (toX rs2))
    | 0x1, 17 => .ok (Instr.mulh (toX rd) (toX rs1) (toX rs2))
    | 0x1, 18 => .ok (Instr.mulhn (toX rd) (toX rs1) (toX rs2))
    | 0x1, 19 => .ok (Instr.div (toX rd) (toX rs1) (toX rs2))
    | 0x1, 20 => .ok (Instr.divn (toX rd) (toX rs1) (toX rs2))
    | 0x1, 21 => .ok (Instr.rem (toX rd) (toX rs1) (toX rs2))
    | 0x1, 22 => .ok (Instr.remn (toX rd) (toX rs1) (toX rs2))
    | 0x34, 0 => reserved [rs1, rs2] (Instr.ifrsave (toX rd))
    | 0x34, 1 => reserved [rs1, rs2] (Instr.ifrload (toX rd))
    | 0x34, 2 => reserved [rs1, rs2] (Instr.ifrreplay (toX rd))
    | 0x34, 3 => reserved [rs1, rs2] (Instr.ctxsavev (toX rd))
    | 0x34, 4 => reserved [rs1, rs2] (Instr.ctxloadv (toX rd))
    | 0x34, 5 => reserved [rs2] (Instr.genbump (toX rd) (toX rs1))
    | 0x34, 6 => .ok (Instr.lanecap (toX rd) (toX rs1) (toX rs2))
    | 0x34, 7 => .ok (Instr.sfuload (toX rd) (toX rs1) (toX rs2))
    | 0x35, 0 => .ok (Instr.launch (toX rd) (toX rs1) (toX rs2))
    | _, _ => .error .unassignedFunction
  | _ => .error .truncated

/-- The instructions of format BT. -/
def decodeBt (maj : Nat) : List Nat → Except DecodeError Instr
  | [rd, rs1, w, r, fn] =>
    match maj, fn with
    | 0x2, 0 => reserved [r] (Instr.clz (toX rd) (toX rs1) (BitVec.ofNat 3 w))
    | 0x2, 1 => reserved [r] (Instr.ctz (toX rd) (toX rs1) (BitVec.ofNat 3 w))
    | 0x2, 2 => reserved [r] (Instr.popc (toX rd) (toX rs1) (BitVec.ofNat 3 w))
    | 0x2, 3 => reserved [r] (Instr.sext (toX rd) (toX rs1) (BitVec.ofNat 3 w))
    | 0x2, 4 => reserved [r] (Instr.zext (toX rd) (toX rs1) (BitVec.ofNat 3 w))
    | _, _ => .error .unassignedFunction
  | _ => .error .truncated

/-- The instructions of format FP. -/
def decodeFp (maj : Nat) : List Nat → Except DecodeError Instr
  | [rd, rs1, rs2, op, fmt, rnd, dir] =>
    match maj, op with
    | 0x3, 0 => reserved [dir] (Instr.fadd (toX rd) (toX rs1) (toX rs2) (toB fmt) (BitVec.ofNat 3 rnd))
    | 0x3, 1 => reserved [dir] (Instr.fsub (toX rd) (toX rs1) (toX rs2) (toB fmt) (BitVec.ofNat 3 rnd))
    | 0x3, 2 => reserved [dir] (Instr.fmul (toX rd) (toX rs1) (toX rs2) (toB fmt) (BitVec.ofNat 3 rnd))
    | 0x3, 3 => reserved [dir] (Instr.fdiv (toX rd) (toX rs1) (toX rs2) (toB fmt) (BitVec.ofNat 3 rnd))
    | 0x3, 4 => reserved [rs2, dir] (Instr.fsqrt (toX rd) (toX rs1) (toB fmt) (BitVec.ofNat 3 rnd))
    | 0x3, 5 => reserved [rnd, dir] (Instr.fmin (toX rd) (toX rs1) (toX rs2) (toB fmt))
    | 0x3, 6 => reserved [rnd, dir] (Instr.fmax (toX rd) (toX rs1) (toX rs2) (toB fmt))
    | 0x3, 7 => reserved [dir] (Instr.fcmp (toX rd) (toX rs1) (toX rs2) (toB fmt) (BitVec.ofNat 3 rnd))
    | 0x3, 8 => .ok (Instr.fcvt (toX rd) (toX rs1) (BitVec.ofNat 5 rs2) (toB fmt) (BitVec.ofNat 3 rnd) (toB dir))
    | 0x3, 9 => reserved [rs2, rnd, dir] (Instr.fclass (toX rd) (toX rs1) (toB fmt))
    | _, _ => .error .unassignedFunction
  | _ => .error .truncated

/-- The instructions of format S4. -/
def decodeS4 (maj : Nat) : List Nat → Except DecodeError Instr
  | [rd, rs1, rs2, rs3, fmt, rnd] =>
    match maj with
    | 0x4 => .ok (Instr.ffma (toX rd) (toX rs1) (toX rs2) (toX rs3) (toB fmt) (BitVec.ofNat 3 rnd))
    | _ => .error .unassignedFunction
  | _ => .error .truncated

/-- The instructions of format SI. -/
def decodeSi (maj : Nat) : List Nat → Except DecodeError Instr
  | [rd, rs1, imm] =>
    match maj with
    | 0x8 => .ok (Instr.addi (toX rd) (toX rs1) (BitVec.ofNat 14 imm))
    | 0x9 => .ok (Instr.andi (toX rd) (toX rs1) (BitVec.ofNat 14 imm))
    | 0xa => .ok (Instr.ori (toX rd) (toX rs1) (BitVec.ofNat 14 imm))
    | 0xb => .ok (Instr.xori (toX rd) (toX rs1) (BitVec.ofNat 14 imm))
    | 0xf => .ok (Instr.slti (toX rd) (toX rs1) (BitVec.ofNat 14 imm))
    | 0x18 => .ok (Instr.ldI8 (toX rd) (toX rs1) (BitVec.ofNat 14 imm))
    | 0x19 => .ok (Instr.ldN8 (toX rd) (toX rs1) (BitVec.ofNat 14 imm))
    | 0x1a => .ok (Instr.ldI16 (toX rd) (toX rs1) (BitVec.ofNat 14 imm))
    | 0x1b => .ok (Instr.ldN16 (toX rd) (toX rs1) (BitVec.ofNat 14 imm))
    | 0x1c => .ok (Instr.ldI32 (toX rd) (toX rs1) (BitVec.ofNat 14 imm))
    | 0x1d => .ok (Instr.ldN32 (toX rd) (toX rs1) (BitVec.ofNat 14 imm))
    | 0x1e => .ok (Instr.ldI64 (toX rd) (toX rs1) (BitVec.ofNat 14 imm))
    | 0x20 => .ok (Instr.st8 (toX rd) (toX rs1) (BitVec.ofNat 14 imm))
    | 0x21 => .ok (Instr.st16 (toX rd) (toX rs1) (BitVec.ofNat 14 imm))
    | 0x22 => .ok (Instr.st32 (toX rd) (toX rs1) (BitVec.ofNat 14 imm))
    | 0x23 => .ok (Instr.st64 (toX rd) (toX rs1) (BitVec.ofNat 14 imm))
    | 0x2f => .ok (Instr.jalr (toX rd) (toX rs1) (BitVec.ofNat 14 imm))
    | _ => .error .unassignedFunction
  | _ => .error .truncated

/-- The instructions of format SH. -/
def decodeSh (maj : Nat) : List Nat → Except DecodeError Instr
  | [rd, rs1, sh, r] =>
    match maj with
    | 0xc => reserved [r] (Instr.slli (toX rd) (toX rs1) (BitVec.ofNat 6 sh))
    | 0xd => reserved [r] (Instr.srli (toX rd) (toX rs1) (BitVec.ofNat 6 sh))
    | 0xe => reserved [r] (Instr.srai (toX rd) (toX rs1) (BitVec.ofNat 6 sh))
    | _ => .error .unassignedFunction
  | _ => .error .truncated

/-- The instructions of format SJ. -/
def decodeSj (maj : Nat) : List Nat → Except DecodeError Instr
  | [rd, off] =>
    match maj with
    | 0x10 => .ok (Instr.lih (toX rd) (BitVec.ofNat 19 off))
    | 0x11 => .ok (Instr.addpc (toX rd) (BitVec.ofNat 19 off))
    | 0x2e => .ok (Instr.jal (toX rd) (BitVec.ofNat 19 off))
    | _ => .error .unassignedFunction
  | _ => .error .truncated

/-- The instructions of format ACQ. -/
def decodeAcq (maj : Nat) : List Nat → Except DecodeError Instr
  | [rd, rs1, scope, ew, r] =>
    match maj with
    | 0x1f => reserved [r] (Instr.ldacq (toX rd) (toX rs1) (BitVec.ofNat 3 ew) (BitVec.ofNat 3 scope))
    | 0x24 => reserved [r] (Instr.strel (toX rd) (toX rs1) (BitVec.ofNat 3 ew) (BitVec.ofNat 3 scope))
    | _ => .error .unassignedFunction
  | _ => .error .truncated

/-- The instructions of format AMO. -/
def decodeAmo (maj : Nat) : List Nat → Except DecodeError Instr
  | [rd, rs1, rs2, op, ord, scope] =>
    match maj, op with
    | 0x25, 0 => .ok (Instr.amoAdd (toX rd) (toX rs1) (toX rs2) (BitVec.ofNat 2 ord) (BitVec.ofNat 3 scope))
    | 0x25, 1 => .ok (Instr.amoAnd (toX rd) (toX rs1) (toX rs2) (BitVec.ofNat 2 ord) (BitVec.ofNat 3 scope))
    | 0x25, 2 => .ok (Instr.amoOr (toX rd) (toX rs1) (toX rs2) (BitVec.ofNat 2 ord) (BitVec.ofNat 3 scope))
    | 0x25, 3 => .ok (Instr.amoXor (toX rd) (toX rs1) (toX rs2) (BitVec.ofNat 2 ord) (BitVec.ofNat 3 scope))
    | 0x25, 4 => .ok (Instr.amoMin (toX rd) (toX rs1) (toX rs2) (BitVec.ofNat 2 ord) (BitVec.ofNat 3 scope))
    | 0x25, 5 => .ok (Instr.amoMax (toX rd) (toX rs1) (toX rs2) (BitVec.ofNat 2 ord) (BitVec.ofNat 3 scope))
    | 0x25, 6 => .ok (Instr.amoSwap (toX rd) (toX rs1) (toX rs2) (BitVec.ofNat 2 ord) (BitVec.ofNat 3 scope))
    | 0x25, 7 => .ok (Instr.amoCas (toX rd) (toX rs1) (toX rs2) (BitVec.ofNat 2 ord) (BitVec.ofNat 3 scope))
    | _, _ => .error .unassignedFunction
  | _ => .error .truncated

/-- The instructions of format CC. -/
def decodeCc (maj : Nat) : List Nat → Except DecodeError Instr
  | [sub, rs1, st, level, r] =>
    match maj, sub with
    | 0x26, 0 => reserved [r] (Instr.prefetch (toX st) (toX rs1) (BitVec.ofNat 2 level))
    | 0x26, 1 => reserved [r] (Instr.pin (toX st) (toX rs1) (BitVec.ofNat 2 level))
    | 0x26, 2 => reserved [r] (Instr.unpin (toX st) (toX rs1) (BitVec.ofNat 2 level))
    | _, _ => .error .unassignedFunction
  | _ => .error .truncated

/-- The instructions of format SB. -/
def decodeSb (maj : Nat) : List Nat → Except DecodeError Instr
  | [rs1, rs2, off] =>
    match maj with
    | 0x28 => .ok (Instr.beq (toX rs1) (toX rs2) (BitVec.ofNat 14 off))
    | 0x29 => .ok (Instr.bne (toX rs1) (toX rs2) (BitVec.ofNat 14 off))
    | 0x2a => .ok (Instr.blt (toX rs1) (toX rs2) (BitVec.ofNat 14 off))
    | 0x2b => .ok (Instr.bge (toX rs1) (toX rs2) (BitVec.ofNat 14 off))
    | 0x2c => .ok (Instr.bltn (toX rs1) (toX rs2) (BitVec.ofNat 14 off))
    | 0x2d => .ok (Instr.bgen (toX rs1) (toX rs2) (BitVec.ofNat 14 off))
    | _ => .error .unassignedFunction
  | _ => .error .truncated

/-- The instructions of format SYS. -/
def decodeSys (maj : Nat) : List Nat → Except DecodeError Instr
  | [rd, rs1, sub, scope, sets, r] =>
    match maj, sub with
    | 0x30, 0 => reserved [rd, rs1, scope, sets, r] Instr.ecall
    | 0x30, 1 => reserved [rd, rs1, scope, sets, r] Instr.ebreak
    | 0x30, 2 => reserved [rd, rs1, scope, sets, r] Instr.tret
    | 0x30, 3 => reserved [rd, rs1, scope, sets, r] Instr.halt
    | 0x30, 4 => reserved [rd, rs1, scope, sets, r] Instr.yield
    | 0x30, 5 => reserved [rd, rs1, r] (Instr.fence (BitVec.ofNat 3 scope) (BitVec.ofNat 3 sets))
    | 0x30, 6 => reserved [rd, rs1, scope, sets, r] Instr.vlsync
    | 0x30, 7 => reserved [scope, sets, r] (Instr.evpop (toX rd) (toX rs1))
    | 0x30, 8 => reserved [scope, sets, r] (Instr.evwait (toX rd) (toX rs1))
    | _, _ => .error .unassignedFunction
  | _ => .error .truncated

/-- The instructions of format CSR. -/
def decodeCsr (maj : Nat) : List Nat → Except DecodeError Instr
  | [rd, rs1, csr, r] =>
    match maj with
    | 0x31 => reserved [r] (Instr.csrrw (toX rd) (toX rs1) (BitVec.ofNat 12 csr))
    | 0x32 => reserved [r] (Instr.csrrs (toX rd) (toX rs1) (BitVec.ofNat 12 csr))
    | 0x33 => reserved [r] (Instr.csrrc (toX rd) (toX rs1) (BitVec.ofNat 12 csr))
    | _ => .error .unassignedFunction
  | _ => .error .truncated

/-- The instructions of format V3. -/
def decodeV3 (maj : Nat) : List Nat → Except DecodeError Instr
  | [vd, va, vb, m, ca, cb, z] =>
    match maj, vb, cb with
    | 0x40, _, _ => .ok (Instr.vadd (toV vd) (toV va) (toV vb) (toM m) (toB ca) (toB cb) (toB z))
    | 0x41, _, _ => .ok (Instr.vsub (toV vd) (toV va) (toV vb) (toM m) (toB ca) (toB cb) (toB z))
    | 0x42, _, _ => .ok (Instr.vmul (toV vd) (toV va) (toV vb) (toM m) (toB ca) (toB cb) (toB z))
    | 0x43, _, _ => .ok (Instr.vmulh (toV vd) (toV va) (toV vb) (toM m) (toB ca) (toB cb) (toB z))
    | 0x44, _, _ => .ok (Instr.vdiv (toV vd) (toV va) (toV vb) (toM m) (toB ca) (toB cb) (toB z))
    | 0x45, _, _ => .ok (Instr.vfma (toV vd) (toV va) (toV vb) (toM m) (toB ca) (toB cb) (toB z))
    | 0x46, _, _ => .ok (Instr.vfms (toV vd) (toV va) (toV vb) (toM m) (toB ca) (toB cb) (toB z))
    | 0x47, _, _ => .ok (Instr.vfnma (toV vd) (toV va) (toV vb) (toM m) (toB ca) (toB cb) (toB z))
    | 0x48, _, _ => .ok (Instr.vmin (toV vd) (toV va) (toV vb) (toM m) (toB ca) (toB cb) (toB z))
    | 0x49, _, _ => .ok (Instr.vmax (toV vd) (toV va) (toV vb) (toM m) (toB ca) (toB cb) (toB z))
    | 0x4a, _, _ => .ok (Instr.vadds (toV vd) (toV va) (toV vb) (toM m) (toB ca) (toB cb) (toB z))
    | 0x4b, _, _ => .ok (Instr.vsubs (toV vd) (toV va) (toV vb) (toM m) (toB ca) (toB cb) (toB z))
    | 0x4c, _, _ => .ok (Instr.vand (toV vd) (toV va) (toV vb) (toM m) (toB ca) (toB cb) (toB z))
    | 0x4d, _, _ => .ok (Instr.vor (toV vd) (toV va) (toV vb) (toM m) (toB ca) (toB cb) (toB z))
    | 0x4e, _, _ => .ok (Instr.vxor (toV vd) (toV va) (toV vb) (toM m) (toB ca) (toB cb) (toB z))
    | 0x4f, _, _ => .ok (Instr.vsll (toV vd) (toV va) (toV vb) (toM m) (toB ca) (toB cb) (toB z))
    | 0x50, _, _ => .ok (Instr.vsrl (toV vd) (toV va) (toV vb) (toM m) (toB ca) (toB cb) (toB z))
    | 0x51, _, _ => .ok (Instr.vsra (toV vd) (toV va) (toV vb) (toM m) (toB ca) (toB cb) (toB z))
    | 0x53, _, _ => reserved [z] (Instr.vmerge (toV vd) (toV va) (toV vb) (toM m) (toB ca) (toB cb))
    | 0x54, _, _ => .ok (Instr.vmulsc (toV vd) (toV va) (toV vb) (toM m) (toB ca) (toB cb) (toB z))
    | 0x55, _, _ => .ok (Instr.vperm (toV vd) (toV va) (toV vb) (toM m) (toB ca) (toB cb) (toB z))
    | 0x58, 0, _ => reserved [cb] (Instr.vsqrt (toV vd) (toV va) (toM m) (toB ca) (toB z))
    | 0x58, 1, _ => reserved [cb] (Instr.vabs (toV vd) (toV va) (toM m) (toB ca) (toB z))
    | 0x58, 2, _ => reserved [cb] (Instr.vneg (toV vd) (toV va) (toM m) (toB ca) (toB z))
    | 0x58, 3, _ => reserved [cb] (Instr.vmov (toV vd) (toV va) (toM m) (toB ca) (toB z))
    | 0x58, 4, _ => reserved [cb] (Instr.vreshuf (toV vd) (toV va) (toM m) (toB ca) (toB z))
    | 0x58, 5, _ => reserved [cb, z] (Instr.vcompress (toV vd) (toV va) (toM m) (toB ca))
    | 0x58, 6, _ => reserved [cb] (Instr.vexpand (toV vd) (toV va) (toM m) (toB ca) (toB z))
    | 0x58, 7, _ => reserved [va, cb] (Instr.viota (toV vd) (toM m) (toB ca) (toB z))
    | 0x5a, _, _ => reserved [cb] (Instr.vsf (toV vd) (toV va) (BitVec.ofNat 6 vb) (toM m) (toB ca) (toB z))
    | 0x5b, _, _ => reserved [cb] (Instr.vsfrr (toV vd) (toV va) (BitVec.ofNat 6 vb) (toM m) (toB ca) (toB z))
    | 0x5c, _, _ => reserved [cb] (Instr.vsftab (toV vd) (toV va) (BitVec.ofNat 6 vb) (toM m) (toB ca) (toB z))
    | 0x5d, _, _ => .ok (Instr.vsfpoly (toV vd) (toV va) (toV vb) (toM m) (toB ca) (toB cb) (toB z))
    | 0x5e, _, _ => .ok (Instr.vsfscl (toV vd) (toV va) (toV vb) (toM m) (toB ca) (toB cb) (toB z))
    | 0x5f, 0, _ => reserved [va, ca, cb] (Instr.vrngN32 (toV vd) (toM m) (toB z))
    | 0x5f, 1, _ => reserved [va, ca, cb] (Instr.vrngN64 (toV vd) (toM m) (toB z))
    | 0x5f, 2, _ => reserved [va, ca, cb] (Instr.vrngF32 (toV vd) (toM m) (toB z))
    | 0x78, 0, _ => reserved [cb, z] (Instr.vrsum (toV vd) (toV va) (toM m) (toB ca))
    | 0x78, 1, _ => reserved [cb, z] (Instr.vrmax (toV vd) (toV va) (toM m) (toB ca))
    | 0x78, 2, _ => reserved [cb, z] (Instr.vrmin (toV vd) (toV va) (toM m) (toB ca))
    | 0x78, 3, _ => reserved [cb, z] (Instr.vrssq (toV vd) (toV va) (toM m) (toB ca))
    | 0x78, 4, _ => reserved [cb] (Instr.vsoftmax (toV vd) (toV va) (toM m) (toB ca) (toB z))
    | 0x78, 5, 0 => .ok (Instr.vrnormRms (toV vd) (toV va) (toM m) (toB ca) (toB z))
    | 0x78, 5, 1 => .ok (Instr.vrnormLayer (toV vd) (toV va) (toM m) (toB ca) (toB z))
    | _, _, _ => .error .unassignedFunction
  | _ => .error .truncated

/-- The instructions of format VCP. -/
def decodeVcp (maj : Nat) : List Nat → Except DecodeError Instr
  | [md, cond, va, vb, m, ca, cb, z] =>
    match maj with
    | 0x52 => .ok (Instr.vcmp (toM md) (BitVec.ofNat 3 cond) (toV va) (toV vb) (toM m) (toB ca) (toB cb) (toB z))
    | _ => .error .unassignedFunction
  | _ => .error .truncated

/-- The instructions of format VZP. -/
def decodeVzp (maj : Nat) : List Nat → Except DecodeError Instr
  | [vd, va, sel, r, m, ca, cb, z] =>
    match maj, sel with
    | 0x56, 0 => reserved [r, cb] (Instr.vzipLo (toV vd) (toV va) (toM m) (toB ca) (toB z))
    | 0x56, 1 => reserved [r, cb] (Instr.vzipHi (toV vd) (toV va) (toM m) (toB ca) (toB z))
    | 0x57, 0 => reserved [r, cb] (Instr.vunzipEven (toV vd) (toV va) (toM m) (toB ca) (toB z))
    | 0x57, 1 => reserved [r, cb] (Instr.vunzipOdd (toV vd) (toV va) (toM m) (toB ca) (toB z))
    | _, _ => .error .unassignedFunction
  | _ => .error .truncated

/-- The instructions of format VCV. -/
def decodeVcv (maj : Nat) : List Nat → Except DecodeError Instr
  | [vd, va, ty, sr, m, ca, r, z] =>
    match maj with
    | 0x59 => reserved [r] (Instr.vcvt (toV vd) (toV va) (BitVec.ofNat 5 ty) (toB sr) (toM m) (toB ca) (toB z))
    | _ => .error .unassignedFunction
  | _ => .error .truncated

/-- The instructions of format VX. -/
def decodeVx (maj : Nat) : List Nat → Except DecodeError Instr
  | [vd, va, xs, sw, m, ca, r, z] =>
    match maj with
    | 0x60 => reserved [r] (Instr.vaddX (toV vd) (toV va) (toX xs) (toB sw) (toM m) (toB ca) (toB z))
    | 0x61 => reserved [r] (Instr.vsubX (toV vd) (toV va) (toX xs) (toB sw) (toM m) (toB ca) (toB z))
    | 0x62 => reserved [r] (Instr.vmulX (toV vd) (toV va) (toX xs) (toB sw) (toM m) (toB ca) (toB z))
    | 0x63 => reserved [r] (Instr.vfmaX (toV vd) (toV va) (toX xs) (toB sw) (toM m) (toB ca) (toB z))
    | 0x64 => reserved [r] (Instr.vminX (toV vd) (toV va) (toX xs) (toB sw) (toM m) (toB ca) (toB z))
    | 0x65 => reserved [r] (Instr.vmaxX (toV vd) (toV va) (toX xs) (toB sw) (toM m) (toB ca) (toB z))
    | 0x66 => reserved [r] (Instr.vandX (toV vd) (toV va) (toX xs) (toB sw) (toM m) (toB ca) (toB z))
    | 0x67 => reserved [r] (Instr.vorX (toV vd) (toV va) (toX xs) (toB sw) (toM m) (toB ca) (toB z))
    | 0x68 => reserved [r] (Instr.vxorX (toV vd) (toV va) (toX xs) (toB sw) (toM m) (toB ca) (toB z))
    | 0x69 => reserved [r] (Instr.vsllX (toV vd) (toV va) (toX xs) (toB sw) (toM m) (toB ca) (toB z))
    | 0x6a => reserved [r] (Instr.vsrlX (toV vd) (toV va) (toX xs) (toB sw) (toM m) (toB ca) (toB z))
    | 0x6b => reserved [r] (Instr.vsraX (toV vd) (toV va) (toX xs) (toB sw) (toM m) (toB ca) (toB z))
    | 0x6d => reserved [va, sw, ca, r] (Instr.vbcast (toV vd) (toX xs) (toB sw) (toM m) (toB z))
    | _ => .error .unassignedFunction
  | _ => .error .truncated

/-- The instructions of format VCX. -/
def decodeVcx (maj : Nat) : List Nat → Except DecodeError Instr
  | [md, cond, va, xs, sw, m, ca, r, z] =>
    match maj with
    | 0x6c => reserved [r] (Instr.vcmpX (toM md) (BitVec.ofNat 3 cond) (toV va) (toX xs) (toB sw) (toM m) (toB ca) (toB z))
    | _ => .error .unassignedFunction
  | _ => .error .truncated

/-- The instructions of format VMVX. -/
def decodeVmvx (maj : Nat) : List Nat → Except DecodeError Instr
  | [xi, r1, va, xs, sw, m, ca, r, z] =>
    match maj with
    | 0x6e => reserved [r1, sw, m, r, z] (Instr.vmvx (toX xs) (toV va) (toX xi) (toB sw) (toB ca))
    | _ => .error .unassignedFunction
  | _ => .error .truncated

/-- The instructions of format VXMV. -/
def decodeVxmv (maj : Nat) : List Nat → Except DecodeError Instr
  | [vd, xi, r1, xs, sw, m, ca, r, z] =>
    match maj with
    | 0x6f => reserved [r1, sw, m, ca, r, z] (Instr.vxmv (toV vd) (toX xs) (toX xi) (toB sw))
    | _ => .error .unassignedFunction
  | _ => .error .truncated

/-- The instructions of format VI. -/
def decodeVi (maj : Nat) : List Nat → Except DecodeError Instr
  | [vd, va, imm, m, ca, r, z] =>
    match maj with
    | 0x70 => reserved [r] (Instr.vaddi (toV vd) (toV va) (BitVec.ofNat 6 imm) (toM m) (toB ca) (toB z))
    | 0x71 => reserved [r] (Instr.vandi (toV vd) (toV va) (BitVec.ofNat 6 imm) (toM m) (toB ca) (toB z))
    | 0x72 => reserved [r] (Instr.vslli (toV vd) (toV va) (BitVec.ofNat 6 imm) (toM m) (toB ca) (toB z))
    | 0x73 => reserved [r] (Instr.vsrli (toV vd) (toV va) (BitVec.ofNat 6 imm) (toM m) (toB ca) (toB z))
    | 0x74 => reserved [r] (Instr.vsrai (toV vd) (toV va) (BitVec.ofNat 6 imm) (toM m) (toB ca) (toB z))
    | 0x75 => reserved [r] (Instr.vslideup (toV vd) (toV va) (BitVec.ofNat 6 imm) (toM m) (toB ca) (toB z))
    | 0x76 => reserved [r] (Instr.vslidedn (toV vd) (toV va) (BitVec.ofNat 6 imm) (toM m) (toB ca) (toB z))
    | 0x77 => reserved [r] (Instr.vring (toV vd) (toV va) (BitVec.ofNat 6 imm) (toM m) (toB ca) (toB z))
    | _ => .error .unassignedFunction
  | _ => .error .truncated

/-- The instructions of format VTM. -/
def decodeVtm (maj : Nat) : List Nat → Except DecodeError Instr
  | [vd, va, sel, xi, m, ca, cb, z] =>
    match maj, sel with
    | 0x79, 0 => reserved [m, cb, z] (Instr.vtmovRow (toV vd) (toV va) (toX xi) (toB ca))
    | 0x79, 1 => reserved [m, cb, z] (Instr.vtmovCol (toV vd) (toV va) (toX xi) (toB ca))
    | _, _ => .error .unassignedFunction
  | _ => .error .truncated

/-- The instructions of format VC. -/
def decodeVc (maj : Nat) : List Nat → Except DecodeError Instr
  | [rd, rs1, ew, sub, v, r] =>
    match maj, ew, sub with
    | 0x7a, _, 0 => reserved [v, r] (Instr.vsetvl (toX rd) (toX rs1) (BitVec.ofNat 3 ew))
    | 0x7a, _, 1 => reserved [rd, ew, r] (Instr.vsettag (toV v) (toX rs1))
    | 0x7a, _, 2 => reserved [rs1, ew, r] (Instr.vgettag (toX rd) (toV v))
    | 0x7a, 0, 3 => reserved [rd, rs1, v, r] Instr.modeV
    | 0x7a, 1, 3 => reserved [rd, rs1, v, r] Instr.modeM
    | _, _, _ => .error .unassignedFunction
  | _ => .error .truncated

/-- The instructions of format MM. -/
def decodeMm (maj : Nat) : List Nat → Except DecodeError Instr
  | [md, ma, mb, fn, x, r] =>
    match maj, fn with
    | 0x7b, 0 => reserved [x, r] (Instr.mand (toM md) (toM ma) (toM mb))
    | 0x7b, 1 => reserved [x, r] (Instr.mor (toM md) (toM ma) (toM mb))
    | 0x7b, 2 => reserved [x, r] (Instr.mxor (toM md) (toM ma) (toM mb))
    | 0x7b, 3 => reserved [x, r] (Instr.mandn (toM md) (toM ma) (toM mb))
    | 0x7b, 4 => reserved [md, mb, r] (Instr.mpopc (toX x) (toM ma))
    | 0x7b, 5 => reserved [md, mb, r] (Instr.mfirst (toX x) (toM ma))
    | 0x7b, 6 => reserved [ma, mb, x, r] (Instr.mset (toM md))
    | _, _ => .error .unassignedFunction
  | _ => .error .truncated

/-- The instructions of format VM. -/
def decodeVm (maj : Nat) : List Nat → Except DecodeError Instr
  | [v, xb, ty, z, r, m, ca, fn2] =>
    match maj, fn2 with
    | 0x7c, 0 => reserved [r, ca] (Instr.vld (toV v) (toX xb) (BitVec.ofNat 5 ty) (toB z) (toM m))
    | 0x7c, 1 => reserved [r, ca] (Instr.vldff (toV v) (toX xb) (BitVec.ofNat 5 ty) (toB z) (toM m))
    | 0x7c, 2 => reserved [r, ca] (Instr.vldm (toV v) (toX xb) (BitVec.ofNat 5 ty) (toB z) (toM m))
    | 0x7d, 0 => reserved [ty, z, r] (Instr.vst (toV v) (toX xb) (toM m) (toB ca))
    | 0x7d, 1 => reserved [ty, z, r] (Instr.vstff (toV v) (toX xb) (toM m) (toB ca))
    | _, _ => .error .unassignedFunction
  | _ => .error .truncated

/-- The instructions of format LM. -/
def decodeLm (maj : Nat) : List Nat → Except DecodeError Instr
  | [vc, va, vb, ta, tb, tacc, tres, rs, fin, half, ca, cb, vsa, vsb, rnd, sat, r] =>
    match maj, rs with
    | 0x1, 0 => reserved [vsa, vsb, r] (Instr.mma (toV vc) (toV va) (toV vb) (BitVec.ofNat 4 ta) (BitVec.ofNat 4 tb) (BitVec.ofNat 4 tacc) (BitVec.ofNat 4 tres) (toB fin) (toB half) (toB ca) (toB cb) (BitVec.ofNat 3 rnd) (toB sat))
    | 0x1, 1 => reserved [vc, fin, half, vsa, vsb, r] (Instr.mmaRs (toV va) (toV vb) (BitVec.ofNat 4 ta) (BitVec.ofNat 4 tb) (BitVec.ofNat 4 tacc) (BitVec.ofNat 4 tres) (toB ca) (toB cb) (BitVec.ofNat 3 rnd) (toB sat))
    | 0x2, 0 => reserved [r] (Instr.mmax (toV vc) (toV va) (toV vb) (toV vsa) (toV vsb) (BitVec.ofNat 4 ta) (BitVec.ofNat 4 tb) (BitVec.ofNat 4 tacc) (BitVec.ofNat 4 tres) (toB fin) (toB half) (toB ca) (toB cb) (BitVec.ofNat 3 rnd) (toB sat))
    | 0x2, 1 => reserved [vc, fin, half, r] (Instr.mmaxRs (toV va) (toV vb) (toV vsa) (toV vsb) (BitVec.ofNat 4 ta) (BitVec.ofNat 4 tb) (BitVec.ofNat 4 tacc) (BitVec.ofNat 4 tres) (toB ca) (toB cb) (BitVec.ofNat 3 rnd) (toB sat))
    | _, _ => .error .unassignedFunction
  | _ => .error .truncated

/-- The instructions of format LMC. -/
def decodeLmc (maj : Nat) : List Nat → Except DecodeError Instr
  | [v, xs, sub, seg, tres, rnd, r] =>
    match maj, sub with
    | 0x3, 0 => reserved [seg, r] (Instr.mdrain (toV v) (toX xs) (BitVec.ofNat 4 tres) (BitVec.ofNat 3 rnd))
    | 0x3, 1 => reserved [v, xs, tres, rnd, r] (Instr.mattach (BitVec.ofNat 2 seg))
    | 0x3, 2 => reserved [v, xs, seg, tres, rnd, r] Instr.mdetach
    | 0x3, 3 => reserved [seg, tres, rnd, r] (Instr.mpreload (toV v) (toX xs))
    | 0x3, 4 => reserved [v, xs, seg, rnd, r] (Instr.mzero (BitVec.ofNat 4 tres))
    | _, _ => .error .unassignedFunction
  | _ => .error .truncated

/-- The instructions of format LMD. -/
def decodeLmd (maj : Nat) : List Nat → Except DecodeError Instr
  | [r1, xb, xstride, vi, ix, m, tres, rnd, sat, qos, r] =>
    match maj with
    | 0x4 => reserved [r1, r] (Instr.mdrainst (toX xb) (toX xstride) (toV vi) (toB ix) (toM m) (BitVec.ofNat 4 tres) (BitVec.ofNat 3 rnd) (toB sat) (BitVec.ofNat 2 qos))
    | _ => .error .unassignedFunction
  | _ => .error .truncated

/-- The instructions of format LV. -/
def decodeLv (maj : Nat) : List Nat → Except DecodeError Instr
  | [v, xb, ty, vi, m, ca, ff, z, qos, op, ord, scope, r] =>
    match maj, op with
    | 0x10, _ => reserved [vi / 32, ca, op, ord, scope, r] (Instr.vlds (toV v) (toX xb) (toX vi) (BitVec.ofNat 5 ty) (toM m) (toB ff) (toB z) (BitVec.ofNat 2 qos))
    | 0x11, _ => reserved [op, ord, scope, r] (Instr.vldx (toV v) (toX xb) (toV vi) (BitVec.ofNat 5 ty) (toM m) (toB ca) (toB ff) (toB z) (BitVec.ofNat 2 qos))
    | 0x12, _ => reserved [vi / 32, ty, z, op, ord, scope, r] (Instr.vsts (toV v) (toX xb) (toX vi) (toM m) (toB ca) (toB ff) (BitVec.ofNat 2 qos))
    | 0x13, _ => reserved [ty, z, op, ord, scope, r] (Instr.vstx (toV v) (toX xb) (toV vi) (toM m) (toB ca) (toB ff) (BitVec.ofNat 2 qos))
    | 0x14, 0 => reserved [ff, r] (Instr.vamoAdd (toV v) (toX xb) (toV vi) (BitVec.ofNat 5 ty) (toM m) (toB ca) (toB z) (BitVec.ofNat 2 qos) (BitVec.ofNat 2 ord) (BitVec.ofNat 3 scope))
    | 0x14, 1 => reserved [ff, r] (Instr.vamoMin (toV v) (toX xb) (toV vi) (BitVec.ofNat 5 ty) (toM m) (toB ca) (toB z) (BitVec.ofNat 2 qos) (BitVec.ofNat 2 ord) (BitVec.ofNat 3 scope))
    | 0x14, 2 => reserved [ff, r] (Instr.vamoMax (toV v) (toX xb) (toV vi) (BitVec.ofNat 5 ty) (toM m) (toB ca) (toB z) (BitVec.ofNat 2 qos) (BitVec.ofNat 2 ord) (BitVec.ofNat 3 scope))
    | 0x14, 3 => reserved [ff, r] (Instr.vamoSwap (toV v) (toX xb) (toV vi) (BitVec.ofNat 5 ty) (toM m) (toB ca) (toB z) (BitVec.ofNat 2 qos) (BitVec.ofNat 2 ord) (BitVec.ofNat 3 scope))
    | _, _ => .error .unassignedFunction
  | _ => .error .truncated

/-- The instructions of format LR. -/
def decodeLr (maj : Nat) : List Nat → Except DecodeError Instr
  | [vd, va, vb, ty, m, rnd, sat, qos, r] =>
    match maj, vb with
    | 0x15, 0 => reserved [vd, r] (Instr.vappend (toV va) (toX ty) (toM m) (BitVec.ofNat 3 rnd) (toB sat) (BitVec.ofNat 2 qos))
    | 0x15, 1 => reserved [vd, va, r] (Instr.vappendIdx (toX ty) (toM m) (BitVec.ofNat 3 rnd) (toB sat) (BitVec.ofNat 2 qos))
    | 0x16, _ => reserved [vd, r] (Instr.vscatr (toV va) (toV vb) (BitVec.ofNat 5 ty) (toM m) (BitVec.ofNat 3 rnd) (toB sat) (BitVec.ofNat 2 qos))
    | 0x17, _ => reserved [ty, rnd, sat, r] (Instr.vroute (toV vd) (toV va) (toV vb) (toM m) (BitVec.ofNat 2 qos))
    | 0x18, _ => reserved [r] (Instr.vmxq (toV vd) (toV vb) (toV va) (BitVec.ofNat 5 ty) (toM m) (BitVec.ofNat 3 rnd) (toB sat) (BitVec.ofNat 2 qos))
    | _, _ => .error .unassignedFunction
  | _ => .error .truncated

/-- The instructions of format LE. -/
def decodeLe (maj : Nat) : List Nat → Except DecodeError Instr
  | [xa, xb, xc, ty, h, mk, qos, ix, vi, ev, sub, r] =>
    match maj, sub with
    | 0x20, _ => reserved [sub, r] (Instr.strm (BitVec.ofNat 5 h) (toX xa) (toX xb) (toX xc) (BitVec.ofNat 5 ty) (toM mk) (BitVec.ofNat 2 qos) (toB ix) (toV vi) (toB ev))
    | 0x21, _ => reserved [sub, r] (Instr.strmw (BitVec.ofNat 5 h) (toX xa) (toX xb) (toX xc) (BitVec.ofNat 5 ty) (toM mk) (BitVec.ofNat 2 qos) (toB ix) (toV vi) (toB ev))
    | 0x22, 0 => reserved [xb, xc, mk, qos, ix, vi, ev, r] (Instr.hwait (toX xa) (BitVec.ofNat 5 h) (BitVec.ofNat 5 ty))
    | 0x22, 1 => reserved [xb, xc, ty, mk, qos, ix, vi, ev, r] (Instr.hstate (toX xa) (BitVec.ofNat 5 h))
    | 0x22, 2 => reserved [xa, xb, xc, ty, mk, qos, ix, vi, ev, r] (Instr.hfree (BitVec.ofNat 5 h))
    | 0x23, _ => reserved [mk, ix, vi, sub, r] (Instr.xcopy (BitVec.ofNat 5 h) (toX xa) (toX xb) (toX xc) (BitVec.ofNat 5 ty) (BitVec.ofNat 2 qos) (toB ev))
    | _, _ => .error .unassignedFunction
  | _ => .error .truncated

/-- The instructions of format LG. -/
def decodeLg (maj : Nat) : List Nat → Except DecodeError Instr
  | [v, xb, mask, code, ty, member, r] =>
    match maj with
    | 0x24 => reserved [member, r] (Instr.gstream (toV v) (toX xb) (BitVec.ofNat 8 mask) (BitVec.ofNat 3 code) (BitVec.ofNat 5 ty))
    | 0x25 => reserved [xb, r] (Instr.gbcast (toV v) (BitVec.ofNat 6 member) (BitVec.ofNat 8 mask) (BitVec.ofNat 3 code) (BitVec.ofNat 5 ty))
    | _ => .error .unassignedFunction
  | _ => .error .truncated

/-- The instructions of format LS. -/
def decodeLs (maj : Nat) : List Nat → Except DecodeError Instr
  | [xd, xh, xv, op, ty, sys, r] =>
    match maj, op with
    | 0x30, 0 => reserved [ty, r] (Instr.scntadd (toX xd) (toX xh) (toX xv) (toB sys))
    | 0x30, 1 => reserved [xv, ty, r] (Instr.scntrd (toX xd) (toX xh) (toB sys))
    | 0x30, 2 => reserved [ty, r] (Instr.scntwait (toX xd) (toX xh) (toX xv) (toB sys))
    | 0x30, 3 => reserved [xv, ty, r] (Instr.sbararr (toX xd) (toX xh) (toB sys))
    | 0x30, 4 => reserved [ty, r] (Instr.sbarwait (toX xd) (toX xh) (toX xv) (toB sys))
    | 0x30, 5 => reserved [ty, r] (Instr.ssemacq (toX xd) (toX xh) (toX xv) (toB sys))
    | 0x30, 6 => reserved [ty, r] (Instr.ssemrel (toX xd) (toX xh) (toX xv) (toB sys))
    | 0x30, 7 => reserved [r] (Instr.sredadd (toX xd) (toX xh) (toX xv) (BitVec.ofNat 3 ty) (toB sys))
    | 0x30, 8 => reserved [r] (Instr.sredget (toX xd) (toX xh) (toX xv) (BitVec.ofNat 3 ty) (toB sys))
    | _, _ => .error .unassignedFunction
  | _ => .error .truncated

/-- The decoder of a format. -/
def decodeFields : Fmt → Nat → List Nat → Except DecodeError Instr
  | .s3 => decodeS3
  | .bt => decodeBt
  | .fp => decodeFp
  | .s4 => decodeS4
  | .si => decodeSi
  | .sh => decodeSh
  | .acq => decodeAcq
  | .amo => decodeAmo
  | .cc => decodeCc
  | .sb => decodeSb
  | .sj => decodeSj
  | .sys => decodeSys
  | .csr => decodeCsr
  | .v3 => decodeV3
  | .vcp => decodeVcp
  | .vzp => decodeVzp
  | .vtm => decodeVtm
  | .vx => decodeVx
  | .vcx => decodeVcx
  | .vmvx => decodeVmvx
  | .vxmv => decodeVxmv
  | .vi => decodeVi
  | .vcv => decodeVcv
  | .vm => decodeVm
  | .vc => decodeVc
  | .mm => decodeMm
  | .lm => decodeLm
  | .lmc => decodeLmc
  | .lmd => decodeLmd
  | .lv => decodeLv
  | .lr => decodeLr
  | .le => decodeLe
  | .lg => decodeLg
  | .ls => decodeLs

/-- The format of a 32-bit major opcode; none where Table 4.6 leaves it unassigned. -/
def formatOf (maj : Nat) : Option Fmt :=
  if maj = 0x1 then some .s3 else
  if maj = 0x2 then some .bt else
  if maj = 0x3 then some .fp else
  if maj = 0x4 then some .s4 else
  if 0x8 ≤ maj ∧ maj ≤ 0xb then some .si else
  if 0xc ≤ maj ∧ maj ≤ 0xe then some .sh else
  if maj = 0xf then some .si else
  if 0x10 ≤ maj ∧ maj ≤ 0x11 then some .sj else
  if 0x18 ≤ maj ∧ maj ≤ 0x1e then some .si else
  if maj = 0x1f then some .acq else
  if 0x20 ≤ maj ∧ maj ≤ 0x23 then some .si else
  if maj = 0x24 then some .acq else
  if maj = 0x25 then some .amo else
  if maj = 0x26 then some .cc else
  if 0x28 ≤ maj ∧ maj ≤ 0x2d then some .sb else
  if maj = 0x2e then some .sj else
  if maj = 0x2f then some .si else
  if maj = 0x30 then some .sys else
  if 0x31 ≤ maj ∧ maj ≤ 0x33 then some .csr else
  if 0x34 ≤ maj ∧ maj ≤ 0x35 then some .s3 else
  if 0x40 ≤ maj ∧ maj ≤ 0x51 then some .v3 else
  if maj = 0x52 then some .vcp else
  if 0x53 ≤ maj ∧ maj ≤ 0x55 then some .v3 else
  if 0x56 ≤ maj ∧ maj ≤ 0x57 then some .vzp else
  if maj = 0x58 then some .v3 else
  if maj = 0x59 then some .vcv else
  if 0x5a ≤ maj ∧ maj ≤ 0x5f then some .v3 else
  if 0x60 ≤ maj ∧ maj ≤ 0x6b then some .vx else
  if maj = 0x6c then some .vcx else
  if maj = 0x6d then some .vx else
  if maj = 0x6e then some .vmvx else
  if maj = 0x6f then some .vxmv else
  if 0x70 ≤ maj ∧ maj ≤ 0x77 then some .vi else
  if maj = 0x78 then some .v3 else
  if maj = 0x79 then some .vtm else
  if maj = 0x7a then some .vc else
  if maj = 0x7b then some .mm else
  if 0x7c ≤ maj ∧ maj ≤ 0x7d then some .vm else
  none

/-- The format of a long major opcode; none where Table 4.7 leaves it unassigned. -/
def longFormatOf (maj : Nat) : Option Fmt :=
  if 0x1 ≤ maj ∧ maj ≤ 0x2 then some .lm else
  if maj = 0x3 then some .lmc else
  if maj = 0x4 then some .lmd else
  if 0x10 ≤ maj ∧ maj ≤ 0x14 then some .lv else
  if 0x15 ≤ maj ∧ maj ≤ 0x18 then some .lr else
  if 0x20 ≤ maj ∧ maj ≤ 0x23 then some .le else
  if 0x24 ≤ maj ∧ maj ≤ 0x25 then some .lg else
  if maj = 0x30 then some .ls else
  none

/-- Decode an instruction whose length bit, major opcode and remaining bits are given; a reserved code is refused (R115). -/
def decodeParts (long : Bool) (maj payload : Nat) : Except DecodeError Instr :=
  match (if long then longFormatOf maj else formatOf maj) with
  | none => .error .unassignedMajor
  | some f =>
    match decodeFields f maj (unpack f.widths payload) with
    | .ok i => if i.wellFormed then .ok i else .error .reservedCode
    | .error e => .error e

/-- Decode an instruction word of 32 bits (bit 0 clear) or 64 bits (bit 0 set) (R113). -/
def decodeWord (w : Nat) : Except DecodeError Instr :=
  if w % 2 = 1 then decodeParts true (w / 2 % 128) (w / 256 % 2 ^ 56)
  else decodeParts false (w / 2 % 128) (w / 256 % 2 ^ 24)

/-- The number whose bytes, the lowest first, are given (R6). -/
def ofBytes : List (BitVec 8) → Nat
  | [] => 0
  | b :: bs => b.toNat + 256 * ofBytes bs

/-- The lowest `n` bytes of a number, the lowest first (R6). -/
def toBytes : Nat → Nat → List (BitVec 8)
  | 0, _ => []
  | n + 1, v => BitVec.ofNat 8 v :: toBytes n (v / 256)

/-- Decode the instruction at the head of a list of bytes: the instruction and its length in bytes (R113). -/
def decodeBytes (l : List (BitVec 8)) : Except DecodeError (Instr × Nat) :=
  let n := if ofBytes (l.take 1) % 2 = 1 then 8 else 4
  if l.length < n then .error .truncated
  else
    match decodeWord (ofBytes (l.take n)) with
    | .ok i => .ok (i, n)
    | .error e => .error e

/-- The instruction the decoder reads from a word numbered as the opcode table numbers it: `nbits` given bits,
zeros above them up to the longest instruction. -/
def decodeTableWord (nbits w : Nat) : Option Instr :=
  match decodeBytes (toBytes 8 (w % 2 ^ nbits)) with
  | .ok (i, _) => some i
  | .error _ => none

/-- The format, major opcode and field values of an instruction; none for a device step, which has no encoding. -/
def encodeFields : Instr → Option (Fmt × Nat × List Nat)
  | .add rd rs1 rs2 => some (.s3, 0x1, [rd.val, rs1.val, rs2.val, 0])
  | .sub rd rs1 rs2 => some (.s3, 0x1, [rd.val, rs1.val, rs2.val, 1])
  | .and rd rs1 rs2 => some (.s3, 0x1, [rd.val, rs1.val, rs2.val, 2])
  | .or rd rs1 rs2 => some (.s3, 0x1, [rd.val, rs1.val, rs2.val, 3])
  | .xor rd rs1 rs2 => some (.s3, 0x1, [rd.val, rs1.val, rs2.val, 4])
  | .sll rd rs1 rs2 => some (.s3, 0x1, [rd.val, rs1.val, rs2.val, 5])
  | .srl rd rs1 rs2 => some (.s3, 0x1, [rd.val, rs1.val, rs2.val, 6])
  | .sra rd rs1 rs2 => some (.s3, 0x1, [rd.val, rs1.val, rs2.val, 7])
  | .rotl rd rs1 rs2 => some (.s3, 0x1, [rd.val, rs1.val, rs2.val, 8])
  | .rotr rd rs1 rs2 => some (.s3, 0x1, [rd.val, rs1.val, rs2.val, 9])
  | .slt rd rs1 rs2 => some (.s3, 0x1, [rd.val, rs1.val, rs2.val, 10])
  | .sltn rd rs1 rs2 => some (.s3, 0x1, [rd.val, rs1.val, rs2.val, 11])
  | .min rd rs1 rs2 => some (.s3, 0x1, [rd.val, rs1.val, rs2.val, 12])
  | .max rd rs1 rs2 => some (.s3, 0x1, [rd.val, rs1.val, rs2.val, 13])
  | .minn rd rs1 rs2 => some (.s3, 0x1, [rd.val, rs1.val, rs2.val, 14])
  | .maxn rd rs1 rs2 => some (.s3, 0x1, [rd.val, rs1.val, rs2.val, 15])
  | .mul rd rs1 rs2 => some (.s3, 0x1, [rd.val, rs1.val, rs2.val, 16])
  | .mulh rd rs1 rs2 => some (.s3, 0x1, [rd.val, rs1.val, rs2.val, 17])
  | .mulhn rd rs1 rs2 => some (.s3, 0x1, [rd.val, rs1.val, rs2.val, 18])
  | .div rd rs1 rs2 => some (.s3, 0x1, [rd.val, rs1.val, rs2.val, 19])
  | .divn rd rs1 rs2 => some (.s3, 0x1, [rd.val, rs1.val, rs2.val, 20])
  | .rem rd rs1 rs2 => some (.s3, 0x1, [rd.val, rs1.val, rs2.val, 21])
  | .remn rd rs1 rs2 => some (.s3, 0x1, [rd.val, rs1.val, rs2.val, 22])
  | .clz rd rs1 w => some (.bt, 0x2, [rd.val, rs1.val, w.toNat, 0, 0])
  | .ctz rd rs1 w => some (.bt, 0x2, [rd.val, rs1.val, w.toNat, 0, 1])
  | .popc rd rs1 w => some (.bt, 0x2, [rd.val, rs1.val, w.toNat, 0, 2])
  | .sext rd rs1 w => some (.bt, 0x2, [rd.val, rs1.val, w.toNat, 0, 3])
  | .zext rd rs1 w => some (.bt, 0x2, [rd.val, rs1.val, w.toNat, 0, 4])
  | .fadd rd rs1 rs2 fmt rnd => some (.fp, 0x3, [rd.val, rs1.val, rs2.val, 0, fmt.toNat, rnd.toNat, 0])
  | .fsub rd rs1 rs2 fmt rnd => some (.fp, 0x3, [rd.val, rs1.val, rs2.val, 1, fmt.toNat, rnd.toNat, 0])
  | .fmul rd rs1 rs2 fmt rnd => some (.fp, 0x3, [rd.val, rs1.val, rs2.val, 2, fmt.toNat, rnd.toNat, 0])
  | .fdiv rd rs1 rs2 fmt rnd => some (.fp, 0x3, [rd.val, rs1.val, rs2.val, 3, fmt.toNat, rnd.toNat, 0])
  | .fsqrt rd rs1 fmt rnd => some (.fp, 0x3, [rd.val, rs1.val, 0, 4, fmt.toNat, rnd.toNat, 0])
  | .fmin rd rs1 rs2 fmt => some (.fp, 0x3, [rd.val, rs1.val, rs2.val, 5, fmt.toNat, 0, 0])
  | .fmax rd rs1 rs2 fmt => some (.fp, 0x3, [rd.val, rs1.val, rs2.val, 6, fmt.toNat, 0, 0])
  | .fcmp rd rs1 rs2 fmt cond => some (.fp, 0x3, [rd.val, rs1.val, rs2.val, 7, fmt.toNat, cond.toNat, 0])
  | .fcvt rd rs1 ty fmt rnd dir => some (.fp, 0x3, [rd.val, rs1.val, ty.toNat, 8, fmt.toNat, rnd.toNat, dir.toNat])
  | .fclass rd rs1 fmt => some (.fp, 0x3, [rd.val, rs1.val, 0, 9, fmt.toNat, 0, 0])
  | .ffma rd rs1 rs2 rs3 fmt rnd => some (.s4, 0x4, [rd.val, rs1.val, rs2.val, rs3.val, fmt.toNat, rnd.toNat])
  | .addi rd rs1 imm => some (.si, 0x8, [rd.val, rs1.val, imm.toNat])
  | .andi rd rs1 imm => some (.si, 0x9, [rd.val, rs1.val, imm.toNat])
  | .ori rd rs1 imm => some (.si, 0xa, [rd.val, rs1.val, imm.toNat])
  | .xori rd rs1 imm => some (.si, 0xb, [rd.val, rs1.val, imm.toNat])
  | .slli rd rs1 sh => some (.sh, 0xc, [rd.val, rs1.val, sh.toNat, 0])
  | .srli rd rs1 sh => some (.sh, 0xd, [rd.val, rs1.val, sh.toNat, 0])
  | .srai rd rs1 sh => some (.sh, 0xe, [rd.val, rs1.val, sh.toNat, 0])
  | .slti rd rs1 imm => some (.si, 0xf, [rd.val, rs1.val, imm.toNat])
  | .lih rd imm => some (.sj, 0x10, [rd.val, imm.toNat])
  | .addpc rd imm => some (.sj, 0x11, [rd.val, imm.toNat])
  | .ldI8 rd rs1 imm => some (.si, 0x18, [rd.val, rs1.val, imm.toNat])
  | .ldN8 rd rs1 imm => some (.si, 0x19, [rd.val, rs1.val, imm.toNat])
  | .ldI16 rd rs1 imm => some (.si, 0x1a, [rd.val, rs1.val, imm.toNat])
  | .ldN16 rd rs1 imm => some (.si, 0x1b, [rd.val, rs1.val, imm.toNat])
  | .ldI32 rd rs1 imm => some (.si, 0x1c, [rd.val, rs1.val, imm.toNat])
  | .ldN32 rd rs1 imm => some (.si, 0x1d, [rd.val, rs1.val, imm.toNat])
  | .ldI64 rd rs1 imm => some (.si, 0x1e, [rd.val, rs1.val, imm.toNat])
  | .ldacq rd rs1 ew scope => some (.acq, 0x1f, [rd.val, rs1.val, scope.toNat, ew.toNat, 0])
  | .st8 rs rs1 imm => some (.si, 0x20, [rs.val, rs1.val, imm.toNat])
  | .st16 rs rs1 imm => some (.si, 0x21, [rs.val, rs1.val, imm.toNat])
  | .st32 rs rs1 imm => some (.si, 0x22, [rs.val, rs1.val, imm.toNat])
  | .st64 rs rs1 imm => some (.si, 0x23, [rs.val, rs1.val, imm.toNat])
  | .strel rs rs1 ew scope => some (.acq, 0x24, [rs.val, rs1.val, scope.toNat, ew.toNat, 0])
  | .amoAdd rd rs1 rs2 ord scope => some (.amo, 0x25, [rd.val, rs1.val, rs2.val, 0, ord.toNat, scope.toNat])
  | .amoAnd rd rs1 rs2 ord scope => some (.amo, 0x25, [rd.val, rs1.val, rs2.val, 1, ord.toNat, scope.toNat])
  | .amoOr rd rs1 rs2 ord scope => some (.amo, 0x25, [rd.val, rs1.val, rs2.val, 2, ord.toNat, scope.toNat])
  | .amoXor rd rs1 rs2 ord scope => some (.amo, 0x25, [rd.val, rs1.val, rs2.val, 3, ord.toNat, scope.toNat])
  | .amoMin rd rs1 rs2 ord scope => some (.amo, 0x25, [rd.val, rs1.val, rs2.val, 4, ord.toNat, scope.toNat])
  | .amoMax rd rs1 rs2 ord scope => some (.amo, 0x25, [rd.val, rs1.val, rs2.val, 5, ord.toNat, scope.toNat])
  | .amoSwap rd rs1 rs2 ord scope => some (.amo, 0x25, [rd.val, rs1.val, rs2.val, 6, ord.toNat, scope.toNat])
  | .amoCas rd rs1 rs2 ord scope => some (.amo, 0x25, [rd.val, rs1.val, rs2.val, 7, ord.toNat, scope.toNat])
  | .prefetch st rs1 level => some (.cc, 0x26, [0, rs1.val, st.val, level.toNat, 0])
  | .pin st rs1 level => some (.cc, 0x26, [1, rs1.val, st.val, level.toNat, 0])
  | .unpin st rs1 level => some (.cc, 0x26, [2, rs1.val, st.val, level.toNat, 0])
  | .beq rs1 rs2 off => some (.sb, 0x28, [rs1.val, rs2.val, off.toNat])
  | .bne rs1 rs2 off => some (.sb, 0x29, [rs1.val, rs2.val, off.toNat])
  | .blt rs1 rs2 off => some (.sb, 0x2a, [rs1.val, rs2.val, off.toNat])
  | .bge rs1 rs2 off => some (.sb, 0x2b, [rs1.val, rs2.val, off.toNat])
  | .bltn rs1 rs2 off => some (.sb, 0x2c, [rs1.val, rs2.val, off.toNat])
  | .bgen rs1 rs2 off => some (.sb, 0x2d, [rs1.val, rs2.val, off.toNat])
  | .jal rd off => some (.sj, 0x2e, [rd.val, off.toNat])
  | .jalr rd rs1 imm => some (.si, 0x2f, [rd.val, rs1.val, imm.toNat])
  | .ecall => some (.sys, 0x30, [0, 0, 0, 0, 0, 0])
  | .ebreak => some (.sys, 0x30, [0, 0, 1, 0, 0, 0])
  | .tret => some (.sys, 0x30, [0, 0, 2, 0, 0, 0])
  | .halt => some (.sys, 0x30, [0, 0, 3, 0, 0, 0])
  | .yield => some (.sys, 0x30, [0, 0, 4, 0, 0, 0])
  | .fence scope sets => some (.sys, 0x30, [0, 0, 5, scope.toNat, sets.toNat, 0])
  | .vlsync => some (.sys, 0x30, [0, 0, 6, 0, 0, 0])
  | .evpop rd rs1 => some (.sys, 0x30, [rd.val, rs1.val, 7, 0, 0, 0])
  | .evwait rd rs1 => some (.sys, 0x30, [rd.val, rs1.val, 8, 0, 0, 0])
  | .csrrw rd rs1 csr => some (.csr, 0x31, [rd.val, rs1.val, csr.toNat, 0])
  | .csrrs rd rs1 csr => some (.csr, 0x32, [rd.val, rs1.val, csr.toNat, 0])
  | .csrrc rd rs1 csr => some (.csr, 0x33, [rd.val, rs1.val, csr.toNat, 0])
  | .ifrsave rd => some (.s3, 0x34, [rd.val, 0, 0, 0])
  | .ifrload rd => some (.s3, 0x34, [rd.val, 0, 0, 1])
  | .ifrreplay rd => some (.s3, 0x34, [rd.val, 0, 0, 2])
  | .ctxsavev rd => some (.s3, 0x34, [rd.val, 0, 0, 3])
  | .ctxloadv rd => some (.s3, 0x34, [rd.val, 0, 0, 4])
  | .genbump rd rs1 => some (.s3, 0x34, [rd.val, rs1.val, 0, 5])
  | .lanecap rd rs1 rs2 => some (.s3, 0x34, [rd.val, rs1.val, rs2.val, 6])
  | .sfuload rd rs1 rs2 => some (.s3, 0x34, [rd.val, rs1.val, rs2.val, 7])
  | .launch rd rs1 rs2 => some (.s3, 0x35, [rd.val, rs1.val, rs2.val, 0])
  | .vadd vd va vb m ca cb z => some (.v3, 0x40, [vd.val, va.val, vb.val, m.val, ca.toNat, cb.toNat, z.toNat])
  | .vsub vd va vb m ca cb z => some (.v3, 0x41, [vd.val, va.val, vb.val, m.val, ca.toNat, cb.toNat, z.toNat])
  | .vmul vd va vb m ca cb z => some (.v3, 0x42, [vd.val, va.val, vb.val, m.val, ca.toNat, cb.toNat, z.toNat])
  | .vmulh vd va vb m ca cb z => some (.v3, 0x43, [vd.val, va.val, vb.val, m.val, ca.toNat, cb.toNat, z.toNat])
  | .vdiv vd va vb m ca cb z => some (.v3, 0x44, [vd.val, va.val, vb.val, m.val, ca.toNat, cb.toNat, z.toNat])
  | .vfma vd va vb m ca cb z => some (.v3, 0x45, [vd.val, va.val, vb.val, m.val, ca.toNat, cb.toNat, z.toNat])
  | .vfms vd va vb m ca cb z => some (.v3, 0x46, [vd.val, va.val, vb.val, m.val, ca.toNat, cb.toNat, z.toNat])
  | .vfnma vd va vb m ca cb z => some (.v3, 0x47, [vd.val, va.val, vb.val, m.val, ca.toNat, cb.toNat, z.toNat])
  | .vmin vd va vb m ca cb z => some (.v3, 0x48, [vd.val, va.val, vb.val, m.val, ca.toNat, cb.toNat, z.toNat])
  | .vmax vd va vb m ca cb z => some (.v3, 0x49, [vd.val, va.val, vb.val, m.val, ca.toNat, cb.toNat, z.toNat])
  | .vadds vd va vb m ca cb z => some (.v3, 0x4a, [vd.val, va.val, vb.val, m.val, ca.toNat, cb.toNat, z.toNat])
  | .vsubs vd va vb m ca cb z => some (.v3, 0x4b, [vd.val, va.val, vb.val, m.val, ca.toNat, cb.toNat, z.toNat])
  | .vand vd va vb m ca cb z => some (.v3, 0x4c, [vd.val, va.val, vb.val, m.val, ca.toNat, cb.toNat, z.toNat])
  | .vor vd va vb m ca cb z => some (.v3, 0x4d, [vd.val, va.val, vb.val, m.val, ca.toNat, cb.toNat, z.toNat])
  | .vxor vd va vb m ca cb z => some (.v3, 0x4e, [vd.val, va.val, vb.val, m.val, ca.toNat, cb.toNat, z.toNat])
  | .vsll vd va vb m ca cb z => some (.v3, 0x4f, [vd.val, va.val, vb.val, m.val, ca.toNat, cb.toNat, z.toNat])
  | .vsrl vd va vb m ca cb z => some (.v3, 0x50, [vd.val, va.val, vb.val, m.val, ca.toNat, cb.toNat, z.toNat])
  | .vsra vd va vb m ca cb z => some (.v3, 0x51, [vd.val, va.val, vb.val, m.val, ca.toNat, cb.toNat, z.toNat])
  | .vcmp md cond va vb m ca cb z => some (.vcp, 0x52, [md.val, cond.toNat, va.val, vb.val, m.val, ca.toNat, cb.toNat, z.toNat])
  | .vmerge vd va vb m ca cb => some (.v3, 0x53, [vd.val, va.val, vb.val, m.val, ca.toNat, cb.toNat, 0])
  | .vmulsc vd va vb m ca cb z => some (.v3, 0x54, [vd.val, va.val, vb.val, m.val, ca.toNat, cb.toNat, z.toNat])
  | .vperm vd va vb m ca cb z => some (.v3, 0x55, [vd.val, va.val, vb.val, m.val, ca.toNat, cb.toNat, z.toNat])
  | .vzipLo vd va m ca z => some (.vzp, 0x56, [vd.val, va.val, 0, 0, m.val, ca.toNat, 0, z.toNat])
  | .vzipHi vd va m ca z => some (.vzp, 0x56, [vd.val, va.val, 1, 0, m.val, ca.toNat, 0, z.toNat])
  | .vunzipEven vd va m ca z => some (.vzp, 0x57, [vd.val, va.val, 0, 0, m.val, ca.toNat, 0, z.toNat])
  | .vunzipOdd vd va m ca z => some (.vzp, 0x57, [vd.val, va.val, 1, 0, m.val, ca.toNat, 0, z.toNat])
  | .vsqrt vd va m ca z => some (.v3, 0x58, [vd.val, va.val, 0, m.val, ca.toNat, 0, z.toNat])
  | .vabs vd va m ca z => some (.v3, 0x58, [vd.val, va.val, 1, m.val, ca.toNat, 0, z.toNat])
  | .vneg vd va m ca z => some (.v3, 0x58, [vd.val, va.val, 2, m.val, ca.toNat, 0, z.toNat])
  | .vmov vd va m ca z => some (.v3, 0x58, [vd.val, va.val, 3, m.val, ca.toNat, 0, z.toNat])
  | .vreshuf vd va m ca z => some (.v3, 0x58, [vd.val, va.val, 4, m.val, ca.toNat, 0, z.toNat])
  | .vcompress vd va m ca => some (.v3, 0x58, [vd.val, va.val, 5, m.val, ca.toNat, 0, 0])
  | .vexpand vd va m ca z => some (.v3, 0x58, [vd.val, va.val, 6, m.val, ca.toNat, 0, z.toNat])
  | .viota vd m ca z => some (.v3, 0x58, [vd.val, 0, 7, m.val, ca.toNat, 0, z.toNat])
  | .vcvt vd va ty sr m ca z => some (.vcv, 0x59, [vd.val, va.val, ty.toNat, sr.toNat, m.val, ca.toNat, 0, z.toNat])
  | .vsf vd va fn m ca z => some (.v3, 0x5a, [vd.val, va.val, fn.toNat, m.val, ca.toNat, 0, z.toNat])
  | .vsfrr vd va fn m ca z => some (.v3, 0x5b, [vd.val, va.val, fn.toNat, m.val, ca.toNat, 0, z.toNat])
  | .vsftab vd va fn m ca z => some (.v3, 0x5c, [vd.val, va.val, fn.toNat, m.val, ca.toNat, 0, z.toNat])
  | .vsfpoly vd va vb m ca cb z => some (.v3, 0x5d, [vd.val, va.val, vb.val, m.val, ca.toNat, cb.toNat, z.toNat])
  | .vsfscl vd va vb m ca cb z => some (.v3, 0x5e, [vd.val, va.val, vb.val, m.val, ca.toNat, cb.toNat, z.toNat])
  | .vrngN32 vd m z => some (.v3, 0x5f, [vd.val, 0, 0, m.val, 0, 0, z.toNat])
  | .vrngN64 vd m z => some (.v3, 0x5f, [vd.val, 0, 1, m.val, 0, 0, z.toNat])
  | .vrngF32 vd m z => some (.v3, 0x5f, [vd.val, 0, 2, m.val, 0, 0, z.toNat])
  | .vaddX vd va xs sw m ca z => some (.vx, 0x60, [vd.val, va.val, xs.val, sw.toNat, m.val, ca.toNat, 0, z.toNat])
  | .vsubX vd va xs sw m ca z => some (.vx, 0x61, [vd.val, va.val, xs.val, sw.toNat, m.val, ca.toNat, 0, z.toNat])
  | .vmulX vd va xs sw m ca z => some (.vx, 0x62, [vd.val, va.val, xs.val, sw.toNat, m.val, ca.toNat, 0, z.toNat])
  | .vfmaX vd va xs sw m ca z => some (.vx, 0x63, [vd.val, va.val, xs.val, sw.toNat, m.val, ca.toNat, 0, z.toNat])
  | .vminX vd va xs sw m ca z => some (.vx, 0x64, [vd.val, va.val, xs.val, sw.toNat, m.val, ca.toNat, 0, z.toNat])
  | .vmaxX vd va xs sw m ca z => some (.vx, 0x65, [vd.val, va.val, xs.val, sw.toNat, m.val, ca.toNat, 0, z.toNat])
  | .vandX vd va xs sw m ca z => some (.vx, 0x66, [vd.val, va.val, xs.val, sw.toNat, m.val, ca.toNat, 0, z.toNat])
  | .vorX vd va xs sw m ca z => some (.vx, 0x67, [vd.val, va.val, xs.val, sw.toNat, m.val, ca.toNat, 0, z.toNat])
  | .vxorX vd va xs sw m ca z => some (.vx, 0x68, [vd.val, va.val, xs.val, sw.toNat, m.val, ca.toNat, 0, z.toNat])
  | .vsllX vd va xs sw m ca z => some (.vx, 0x69, [vd.val, va.val, xs.val, sw.toNat, m.val, ca.toNat, 0, z.toNat])
  | .vsrlX vd va xs sw m ca z => some (.vx, 0x6a, [vd.val, va.val, xs.val, sw.toNat, m.val, ca.toNat, 0, z.toNat])
  | .vsraX vd va xs sw m ca z => some (.vx, 0x6b, [vd.val, va.val, xs.val, sw.toNat, m.val, ca.toNat, 0, z.toNat])
  | .vcmpX md cond va xs sw m ca z => some (.vcx, 0x6c, [md.val, cond.toNat, va.val, xs.val, sw.toNat, m.val, ca.toNat, 0, z.toNat])
  | .vbcast vd xs sw m z => some (.vx, 0x6d, [vd.val, 0, xs.val, sw.toNat, m.val, 0, 0, z.toNat])
  | .vmvx xs va xi sw ca => some (.vmvx, 0x6e, [xi.val, 0, va.val, xs.val, sw.toNat, 0, ca.toNat, 0, 0])
  | .vxmv vd xs xi sw => some (.vxmv, 0x6f, [vd.val, xi.val, 0, xs.val, sw.toNat, 0, 0, 0, 0])
  | .vaddi vd va imm m ca z => some (.vi, 0x70, [vd.val, va.val, imm.toNat, m.val, ca.toNat, 0, z.toNat])
  | .vandi vd va imm m ca z => some (.vi, 0x71, [vd.val, va.val, imm.toNat, m.val, ca.toNat, 0, z.toNat])
  | .vslli vd va imm m ca z => some (.vi, 0x72, [vd.val, va.val, imm.toNat, m.val, ca.toNat, 0, z.toNat])
  | .vsrli vd va imm m ca z => some (.vi, 0x73, [vd.val, va.val, imm.toNat, m.val, ca.toNat, 0, z.toNat])
  | .vsrai vd va imm m ca z => some (.vi, 0x74, [vd.val, va.val, imm.toNat, m.val, ca.toNat, 0, z.toNat])
  | .vslideup vd va imm m ca z => some (.vi, 0x75, [vd.val, va.val, imm.toNat, m.val, ca.toNat, 0, z.toNat])
  | .vslidedn vd va imm m ca z => some (.vi, 0x76, [vd.val, va.val, imm.toNat, m.val, ca.toNat, 0, z.toNat])
  | .vring vd va imm m ca z => some (.vi, 0x77, [vd.val, va.val, imm.toNat, m.val, ca.toNat, 0, z.toNat])
  | .vrsum vd va m ca => some (.v3, 0x78, [vd.val, va.val, 0, m.val, ca.toNat, 0, 0])
  | .vrmax vd va m ca => some (.v3, 0x78, [vd.val, va.val, 1, m.val, ca.toNat, 0, 0])
  | .vrmin vd va m ca => some (.v3, 0x78, [vd.val, va.val, 2, m.val, ca.toNat, 0, 0])
  | .vrssq vd va m ca => some (.v3, 0x78, [vd.val, va.val, 3, m.val, ca.toNat, 0, 0])
  | .vsoftmax vd va m ca z => some (.v3, 0x78, [vd.val, va.val, 4, m.val, ca.toNat, 0, z.toNat])
  | .vrnormRms vd va m ca z => some (.v3, 0x78, [vd.val, va.val, 5, m.val, ca.toNat, 0, z.toNat])
  | .vrnormLayer vd va m ca z => some (.v3, 0x78, [vd.val, va.val, 5, m.val, ca.toNat, 1, z.toNat])
  | .vtmovRow vd va xi ca => some (.vtm, 0x79, [vd.val, va.val, 0, xi.val, 0, ca.toNat, 0, 0])
  | .vtmovCol vd va xi ca => some (.vtm, 0x79, [vd.val, va.val, 1, xi.val, 0, ca.toNat, 0, 0])
  | .vsetvl rd rs1 ew => some (.vc, 0x7a, [rd.val, rs1.val, ew.toNat, 0, 0, 0])
  | .vsettag v rs1 => some (.vc, 0x7a, [0, rs1.val, 0, 1, v.val, 0])
  | .vgettag rd v => some (.vc, 0x7a, [rd.val, 0, 0, 2, v.val, 0])
  | .modeV => some (.vc, 0x7a, [0, 0, 0, 3, 0, 0])
  | .modeM => some (.vc, 0x7a, [0, 0, 1, 3, 0, 0])
  | .mand md ma mb => some (.mm, 0x7b, [md.val, ma.val, mb.val, 0, 0, 0])
  | .mor md ma mb => some (.mm, 0x7b, [md.val, ma.val, mb.val, 1, 0, 0])
  | .mxor md ma mb => some (.mm, 0x7b, [md.val, ma.val, mb.val, 2, 0, 0])
  | .mandn md ma mb => some (.mm, 0x7b, [md.val, ma.val, mb.val, 3, 0, 0])
  | .mpopc x ma => some (.mm, 0x7b, [0, ma.val, 0, 4, x.val, 0])
  | .mfirst x ma => some (.mm, 0x7b, [0, ma.val, 0, 5, x.val, 0])
  | .mset md => some (.mm, 0x7b, [md.val, 0, 0, 6, 0, 0])
  | .vld v xb ty z m => some (.vm, 0x7c, [v.val, xb.val, ty.toNat, z.toNat, 0, m.val, 0, 0])
  | .vldff v xb ty z m => some (.vm, 0x7c, [v.val, xb.val, ty.toNat, z.toNat, 0, m.val, 0, 1])
  | .vldm v xb ty z m => some (.vm, 0x7c, [v.val, xb.val, ty.toNat, z.toNat, 0, m.val, 0, 2])
  | .vst v xb m ca => some (.vm, 0x7d, [v.val, xb.val, 0, 0, 0, m.val, ca.toNat, 0])
  | .vstff v xb m ca => some (.vm, 0x7d, [v.val, xb.val, 0, 0, 0, m.val, ca.toNat, 1])
  | .mma vc va vb ta tb tacc tres fin half ca cb rnd sat => some (.lm, 0x1, [vc.val, va.val, vb.val, ta.toNat, tb.toNat, tacc.toNat, tres.toNat, 0, fin.toNat, half.toNat, ca.toNat, cb.toNat, 0, 0, rnd.toNat, sat.toNat, 0])
  | .mmaRs va vb ta tb tacc tres ca cb rnd sat => some (.lm, 0x1, [0, va.val, vb.val, ta.toNat, tb.toNat, tacc.toNat, tres.toNat, 1, 0, 0, ca.toNat, cb.toNat, 0, 0, rnd.toNat, sat.toNat, 0])
  | .mmax vc va vb vsa vsb ta tb tacc tres fin half ca cb rnd sat => some (.lm, 0x2, [vc.val, va.val, vb.val, ta.toNat, tb.toNat, tacc.toNat, tres.toNat, 0, fin.toNat, half.toNat, ca.toNat, cb.toNat, vsa.val, vsb.val, rnd.toNat, sat.toNat, 0])
  | .mmaxRs va vb vsa vsb ta tb tacc tres ca cb rnd sat => some (.lm, 0x2, [0, va.val, vb.val, ta.toNat, tb.toNat, tacc.toNat, tres.toNat, 1, 0, 0, ca.toNat, cb.toNat, vsa.val, vsb.val, rnd.toNat, sat.toNat, 0])
  | .mdrain v xs tres rnd => some (.lmc, 0x3, [v.val, xs.val, 0, 0, tres.toNat, rnd.toNat, 0])
  | .mattach seg => some (.lmc, 0x3, [0, 0, 1, seg.toNat, 0, 0, 0])
  | .mdetach => some (.lmc, 0x3, [0, 0, 2, 0, 0, 0, 0])
  | .mpreload v xs => some (.lmc, 0x3, [v.val, xs.val, 3, 0, 0, 0, 0])
  | .mzero tres => some (.lmc, 0x3, [0, 0, 4, 0, tres.toNat, 0, 0])
  | .mdrainst xb xstride vi ix m tres rnd sat qos => some (.lmd, 0x4, [0, xb.val, xstride.val, vi.val, ix.toNat, m.val, tres.toNat, rnd.toNat, sat.toNat, qos.toNat, 0])
  | .vlds v xb xs ty m ff z qos => some (.lv, 0x10, [v.val, xb.val, ty.toNat, xs.val, m.val, 0, ff.toNat, z.toNat, qos.toNat, 0, 0, 0, 0])
  | .vldx v xb vi ty m ca ff z qos => some (.lv, 0x11, [v.val, xb.val, ty.toNat, vi.val, m.val, ca.toNat, ff.toNat, z.toNat, qos.toNat, 0, 0, 0, 0])
  | .vsts v xb xs m ca ff qos => some (.lv, 0x12, [v.val, xb.val, 0, xs.val, m.val, ca.toNat, ff.toNat, 0, qos.toNat, 0, 0, 0, 0])
  | .vstx v xb vi m ca ff qos => some (.lv, 0x13, [v.val, xb.val, 0, vi.val, m.val, ca.toNat, ff.toNat, 0, qos.toNat, 0, 0, 0, 0])
  | .vamoAdd v xb vi ty m ca z qos ord scope => some (.lv, 0x14, [v.val, xb.val, ty.toNat, vi.val, m.val, ca.toNat, 0, z.toNat, qos.toNat, 0, ord.toNat, scope.toNat, 0])
  | .vamoMin v xb vi ty m ca z qos ord scope => some (.lv, 0x14, [v.val, xb.val, ty.toNat, vi.val, m.val, ca.toNat, 0, z.toNat, qos.toNat, 1, ord.toNat, scope.toNat, 0])
  | .vamoMax v xb vi ty m ca z qos ord scope => some (.lv, 0x14, [v.val, xb.val, ty.toNat, vi.val, m.val, ca.toNat, 0, z.toNat, qos.toNat, 2, ord.toNat, scope.toNat, 0])
  | .vamoSwap v xb vi ty m ca z qos ord scope => some (.lv, 0x14, [v.val, xb.val, ty.toNat, vi.val, m.val, ca.toNat, 0, z.toNat, qos.toNat, 3, ord.toNat, scope.toNat, 0])
  | .vappend va xq m rnd sat qos => some (.lr, 0x15, [0, va.val, 0, xq.val, m.val, rnd.toNat, sat.toNat, qos.toNat, 0])
  | .vappendIdx xq m rnd sat qos => some (.lr, 0x15, [0, 0, 1, xq.val, m.val, rnd.toNat, sat.toNat, qos.toNat, 0])
  | .vscatr va vb ty m rnd sat qos => some (.lr, 0x16, [0, va.val, vb.val, ty.toNat, m.val, rnd.toNat, sat.toNat, qos.toNat, 0])
  | .vroute vd va vb m qos => some (.lr, 0x17, [vd.val, va.val, vb.val, 0, m.val, 0, 0, qos.toNat, 0])
  | .vmxq vd vs va ty m rnd sat qos => some (.lr, 0x18, [vd.val, va.val, vs.val, ty.toNat, m.val, rnd.toNat, sat.toNat, qos.toNat, 0])
  | .strm h xa xb xc ty mk qos ix vi ev => some (.le, 0x20, [xa.val, xb.val, xc.val, ty.toNat, h.toNat, mk.val, qos.toNat, ix.toNat, vi.val, ev.toNat, 0, 0])
  | .strmw h xa xb xc ty mk qos ix vi ev => some (.le, 0x21, [xa.val, xb.val, xc.val, ty.toNat, h.toNat, mk.val, qos.toNat, ix.toNat, vi.val, ev.toNat, 0, 0])
  | .hwait xa h target => some (.le, 0x22, [xa.val, 0, 0, target.toNat, h.toNat, 0, 0, 0, 0, 0, 0, 0])
  | .hstate xa h => some (.le, 0x22, [xa.val, 0, 0, 0, h.toNat, 0, 0, 0, 0, 0, 1, 0])
  | .hfree h => some (.le, 0x22, [0, 0, 0, 0, h.toNat, 0, 0, 0, 0, 0, 2, 0])
  | .xcopy q xa xb xc ty qos ev => some (.le, 0x23, [xa.val, xb.val, xc.val, ty.toNat, q.toNat, 0, qos.toNat, 0, 0, ev.toNat, 0, 0])
  | .gstream v xb mask code ty => some (.lg, 0x24, [v.val, xb.val, mask.toNat, code.toNat, ty.toNat, 0, 0])
  | .gbcast v member mask code ty => some (.lg, 0x25, [v.val, 0, mask.toNat, code.toNat, ty.toNat, member.toNat, 0])
  | .scntadd xd xh xv sys => some (.ls, 0x30, [xd.val, xh.val, xv.val, 0, 0, sys.toNat, 0])
  | .scntrd xd xh sys => some (.ls, 0x30, [xd.val, xh.val, 0, 1, 0, sys.toNat, 0])
  | .scntwait xd xh xv sys => some (.ls, 0x30, [xd.val, xh.val, xv.val, 2, 0, sys.toNat, 0])
  | .sbararr xd xh sys => some (.ls, 0x30, [xd.val, xh.val, 0, 3, 0, sys.toNat, 0])
  | .sbarwait xd xh xv sys => some (.ls, 0x30, [xd.val, xh.val, xv.val, 4, 0, sys.toNat, 0])
  | .ssemacq xd xh xv sys => some (.ls, 0x30, [xd.val, xh.val, xv.val, 5, 0, sys.toNat, 0])
  | .ssemrel xd xh xv sys => some (.ls, 0x30, [xd.val, xh.val, xv.val, 6, 0, sys.toNat, 0])
  | .sredadd xd xh xv ty sys => some (.ls, 0x30, [xd.val, xh.val, xv.val, 7, ty.toNat, sys.toNat, 0])
  | .sredget xd xh xv ty sys => some (.ls, 0x30, [xd.val, xh.val, xv.val, 8, ty.toNat, sys.toNat, 0])
  | .scalarIssue _ => none
  | .vectorDecode _ _ _ _ _ _ _ => none
  | .microOpIssue _ _ => none
  | .microOpPromotion _ _ => none
  | .groupAvailable _ _ _ => none
  | .modeSwitch _ => none
  | .grantChange _ => none
  | .haltComplete _ => none
  | .fenceComplete _ => none
  | .vlsyncComplete _ => none
  | .accessPerformed _ => none
  | .loadValueBound _ => none
  | .storeAcknowledge _ => none
  | .tagConfirm _ => none
  | .scntwaitSatisfied _ => none
  | .sbarwaitRelease _ => none
  | .ssemacqGrant _ => none
  | .sredgetSatisfied _ => none
  | .hwaitWake _ => none
  | .evwaitWake _ => none
  | .eventStallRelease _ => none
  | .chunkDone _ _ _ => none
  | .strmComplete _ _ => none
  | .strmwComplete _ _ => none
  | .streamEngineRequest _ => none
  | .xcopyPost _ => none
  | .copyExecute _ _ => none
  | .copyComplete _ _ => none
  | .vappendClaim _ => none
  | .vappendCommit _ => none
  | .trainArrival _ => none
  | .trainAcknowledge _ => none
  | .trainRedirect _ => none
  | .gangStripLand _ _ => none
  | .genbumpAck _ _ => none
  | .hostPush _ _ _ => none
  | .heldPushAccept => none
  | .hostPushTimeout => none
  | .select => none
  | .selectionTimeout => none
  | .bindGang _ => none
  | .gangComplete _ => none
  | .preemptreq _ => none
  | .laneReclaimDeadline _ => none
  | .preempt _ => none
  | .settleWindow _ => none
  | .recordFrozen _ => none
  | .uncorrectableError _ _ _ => none
  | .killedWrite _ => none
  | .noticeDelivery => none
  | .trvresetBarrier _ => none
  | .trvresetSemaphore _ _ => none
  | .trvsetCounter _ => none
  | .trvsetBarrier _ _ => none
  | .trvsetSemaphore _ => none
  | .trvsetCell _ _ _ => none
  | .registerWrite _ _ => none
  | .hostCxlMemAccess _ _ _ _ => none
  | .flitArrival _ _ _ _ _ _ => none
  | .outputPortGrant _ _ _ _ => none
  | .flitPromotion _ _ _ _ => none
  | .nocarb _ _ => none
  | .nocarbApply _ => none
  | .migrationGo _ => none
  | .migrationClear _ => none
  | .migrationLineCopy _ _ => none
  | .ladleIntervalEnd => none
  | .inflightMessage _ => none
  | .replicate _ _ => none
  | .replicationVerify _ => none
  | .switchApply _ => none
  | .switchAck _ => none
  | .switchAckTimeout _ => none
  | .retire _ _ => none
  | .drainEnd => none
  | .wipe => none
  | .merge => none
  | .hold _ => none
  | .unhold _ => none
  | .reclaim _ _ => none
  | .rejoin _ => none
  | .forcedrain _ _ => none
  | .publish => none
  | .coldReset => none
  | .warmReset => none
  | .bootStage _ => none
  | .zeroFillComplete => none
  | .lcreqProvisioned => none
  | .lcreqDeployed => none
  | .lcreqRma => none
  | .lcreqDecommissioned => none
  | .getVersion => none
  | .getCapabilities => none
  | .negotiateAlgorithms => none
  | .getDigests => none
  | .getCertificate _ _ => none
  | .challenge _ => none
  | .getMeasurements _ => none
  | .routeWrite _ _ => none
  | .fabricTimeout _ _ => none
  | .nsfailChange _ _ => none
  | .memoryRequest _ _ _ _ _ _ _ _ => none
  | .batchFormation _ => none
  | .bankCommandSlot _ _ _ => none
  | .minorOverflowEnd _ => none
  | .nimbusPatrolLine _ => none
  | .rotate => none
  | .unitMapOut _ _ _ => none
  | .dierst _ => none
  | .dieDrainEnd _ => none
  | .dieResetComplete _ => none
  | .powerEvaluation _ => none
  | .zeroFillLine => none
  | .linkTrained _ _ => none
  | .fabricAccess _ _ _ _ => none

/-- Whether a format is one of the 64-bit formats (R119). -/
def Fmt.long : Fmt → Bool
  | .s3 => false
  | .bt => false
  | .fp => false
  | .s4 => false
  | .si => false
  | .sh => false
  | .acq => false
  | .amo => false
  | .cc => false
  | .sb => false
  | .sj => false
  | .sys => false
  | .csr => false
  | .v3 => false
  | .vcp => false
  | .vzp => false
  | .vtm => false
  | .vx => false
  | .vcx => false
  | .vmvx => false
  | .vxmv => false
  | .vi => false
  | .vcv => false
  | .vm => false
  | .vc => false
  | .mm => false
  | .lm => true
  | .lmc => true
  | .lmd => true
  | .lv => true
  | .lr => true
  | .le => true
  | .lg => true
  | .ls => true

/-- The word of an instruction with its length in bits; none for a device step. -/
def encode (i : Instr) : Option (Nat × Nat) :=
  (encodeFields i).map fun e =>
    (if e.1.long then 64 else 32, (if e.1.long then 1 else 0) + 2 * (e.2.1 + 128 * pack e.1.widths e.2.2))

end Sys2Proof
end

