-- ==== Sys2Proof/Machine/State.lean ====
section
/-! DEFINITION. The state of the package as plain data: the harts, the memory, the engines and the blocks of the hub.
The names are those of the manual; each field cites the rule that gives the machine that state. -/

namespace Sys2Proof.Machine

/-- A sparse table by number: keys strictly rising, no entry equal to what an unlisted key reads as. -/
abbrev Sparse (α : Type) := List (Nat × α)

/-- The bits of a vector register at a full grant: byte b at bits [8b+7:8b] (R17). -/
abbrev VBits := BitVec 32768

/-- The bits of a mask register at a full grant (Table 1.3). -/
abbrev MBits := BitVec 8192

/-- The RS accumulator at a full grant: word (r, j) at word 64·j + r (R35, Table 14.5). -/
abbrev AccBits := BitVec 131072

/-- The privilege levels of a hart (R145). -/
inductive Level where
  | app
  | sup
  deriving DecidableEq, Repr

/-- Whether the hart's next instruction may issue. -/
inductive Run where
  /-- The instruction at the pc issues when the hart's turn comes. -/
  | running
  /-- The instruction at the pc waits: it is tried again when the hart's turn comes. -/
  | waiting
  /-- The instruction at the pc is under way in another agent, whose device step completes it. -/
  | blocked
  deriving DecidableEq, Repr

/-- The state of a buffer handle (Table 8.5). -/
inductive HandleState where
  | free
  | filling
  | full
  | draining
  deriving DecidableEq, Repr

/-- A buffer handle (R274): a base offset in the VSP, a size in bytes and a state. -/
structure Handle where
  base : Nat
  size : Nat
  state : HandleState
  deriving DecidableEq, Repr

/-- An event record without its sequence number (R168). -/
structure Event where
  kind : BitVec 8
  detail : BitVec 8
  payload : Word
  deriving DecidableEq, Repr

/-- An event record in a hart's queue (Table 5.5). -/
structure EventRec where
  seq : BitVec 32
  ev : Event
  deriving DecidableEq, Repr

/-- What posts an event record, and stands still while the record has no room (R171): the stream engine of a core, a copy queue of a die, a hart's VAPPEND, the
inboxes of a die, the completion of launches, the Ladle, or containment. -/
inductive Producer where
  | engine (core : Nat)
  | copies (die q : Nat)
  | append (hart : Nat)
  | inbox (die : Nat)
  | launch
  | ladle
  | containment
  deriving DecidableEq, Repr

/-- A record whose producer is stalled (R171). -/
structure Stalled where
  ev : Event
  producer : Producer
  deriving DecidableEq, Repr

/-- The event that a command's completion posts: still to be posted, stalled, or posted (or none is asked for). -/
inductive Post where
  | due
  | stalled
  | done
  deriving DecidableEq, Repr

/-- A hart's event queue (R168 to R171). -/
structure EventQueue where
  /-- Records, oldest first; at most 64. -/
  recs : List EventRec
  /-- Records posted to this hart since binding, modulo 2^32. -/
  seq : BitVec 32
  /-- The kind 5 record held beside a full queue (R171). -/
  held : Option Event
  /-- Producers stalled on the full queue, oldest first (R171). -/
  stalled : List Stalled
  deriving DecidableEq, Repr

/-- The application control registers that hold a value of their own (Table 4.8). -/
structure AppCsr where
  vl : Word
  vstart : Word
  rowlen : BitVec 32
  mklen : BitVec 32
  mrows : BitVec 32
  frm : BitVec 3
  fflags : BitVec 9
  srmode : BitVec 2
  srlog : Word
  rngkey : Word
  rngstream : Word
  rngctr : Word
  nocclass : BitVec 2
  routever : BitVec 32
  gangid : Word
  gangsize : Word
  gangrank : Word
  launcharg : Word
  cycle : Word
  /-- SFMODE bit 0: EXACT (R243). -/
  exact : Bool
  racc : Word
  deriving DecidableEq, Repr

/-- The supervisor control registers (Table 4.8). -/
structure SupCsr where
  trapvec : Word
  trapcause : Word
  trappc : Word
  trapval : Word
  trapelem : Word
  trapstat : Word
  ifrbase : Word
  ctxid : BitVec 32
  asid : BitVec 16
  ptroot : Word
  /-- LANEPOL.DEADLINE in µs (R353). -/
  deadline : BitVec 16
  /-- LANEPOL.GROW (R353). -/
  grow : Bool
  syncbase : Word
  pinquota : Word
  /-- SRCTL.FORCECTR (R66). -/
  forcectr : Bool
  deriving DecidableEq, Repr

/-- The B tile that a hart's array holds (R314): the first register of its B group, the registers of the group, and G. -/
structure Tile where
  vb : VReg
  regs : Nat
  g : Nat
  deriving DecidableEq, Repr

/-- The vector side of a hart (Table 1.3). -/
structure Vec where
  v : Vector VBits 64
  tag : Vector (BitVec 8) 64
  /-- m1 to m7; the entry of m0 is never read, m0 reads all ones (R15). -/
  m : Vector MBits 8
  acc : AccBits
  /-- ACCT is I32; otherwise F32 (R221). -/
  accI32 : Bool
  /-- The granted lanes are in matrix mode (R22). -/
  matrix : Bool
  /-- The granted physical octets of the core (R16). -/
  octets : BitVec 8
  /-- The ew of the last VSETVL (R181). -/
  ew : BitVec 3
  /-- The B tile in place (R314). -/
  tile : Option Tile
  deriving DecidableEq, Repr

/-- What the launch and LANECAP say of the grant (R179, R188). -/
structure Grant where
  octMin : Nat
  octMax : Nat
  cap : Nat
  /-- The lane-reclaim deadline is running (R378). -/
  deadlineOn : Bool
  /-- The octets that a VSETVL has decided on and that it takes once earlier vector work is complete (R187, R188). -/
  decided : Option (BitVec 8)
  deriving DecidableEq, Repr

/-- The issuer number and the tag counter of a hart (R370). -/
structure Tags where
  issuer : BitVec 32
  epoch : BitVec 8
  seq : BitVec 16
  deriving DecidableEq, Repr

/-- The launch and gang a bound hart belongs to (R21, R346). -/
structure Job where
  launch : Nat
  gang : Nat
  /-- Gang instructions this member has executed (R282). -/
  ginst : Nat
  deriving DecidableEq, Repr

/-- What an instruction with outstanding work has read, as its entry of an in-flight record keeps it (R368): its place, operand words A to D,
its seed and rounding mode, the images of its vector sources with their tags, and its governing mask. -/
structure Kept where
  order : Nat
  pc : Word
  insn : Word
  a : Word
  b : Word
  c : Word
  d : Word
  key : Word
  stream : Word
  mode : BitVec 3
  va : VBits
  vaTag : BitVec 8
  vb : VBits
  vbTag : BitVec 8
  vi : VBits
  viTag : BitVec 8
  mask : MBits
  deriving DecidableEq, Repr

/-- The seed of an instruction that has trapped part-way (R65): its pc, the element at which it starts again, and the seed. -/
structure HeldSeed where
  pc : Word
  elem : Nat
  key : Word
  stream : Word
  base : Word
  deriving DecidableEq, Repr

/-- A strip of a gang instance that has not landed in this member's register (R283). -/
structure Strip where
  inst : Nat
  v : VReg
  ty : Nat
  vl : Nat
  kept : Kept
  deriving DecidableEq, Repr

/-- How far a freeze has come (R363). -/
inductive Freeze where
  | none
  /-- Step 1 and 2: issue has stopped. -/
  | begun
  /-- Step 3: the settle window runs. -/
  | settling
  /-- Step 4: the record is frozen. -/
  | frozen
  deriving DecidableEq, Repr

/-- An entry of the in-flight record (R367) with its descriptor words (R368) and its bitmap. -/
structure IfrEntry where
  dw0 : Word
  dw1 : Word
  dw2 : Word
  dw3 : Word
  /-- The eight doublewords of the descriptor. -/
  desc : List Word
  /-- Doublewords of the bitmap slot, when the map word names one. -/
  bitmap : List Word
  deriving DecidableEq, Repr

/-- The in-flight record (R366 to R368). -/
structure Ifr where
  pc : Word
  vstart : Word
  context : BitVec 32
  issuer : BitVec 32
  epoch : BitVec 8
  reason : BitVec 8
  octets : Nat
  bitmaps : Nat
  entries : List IfrEntry
  shadows : List VBits
  shadowTags : List (BitVec 8)
  shadowMasks : List MBits
  /-- Entries reissued so far by an IFRREPLAY that waits or has trapped (R392), and those of them answered from duplicate tables. -/
  replayed : Nat
  answered : Nat
  deriving DecidableEq, Repr

/-- One hart with everything it owns (Table 1.3). -/
structure Hart where
  /-- HARTID bits [10:0]: hart, core and die (R13). -/
  id : Nat
  bound : Bool
  run : Run
  /-- The instruction at the pc, while it waits or is under way. -/
  wait : Option Instr
  level : Level
  pc : Word
  x : Vector Word 32
  /-- The supervisor bank (R145). -/
  sx : Vector Word 32
  csr : AppCsr
  sup : SupCsr
  vec : Vec
  handles : Vector Handle 32
  events : EventQueue
  tags : Tags
  grant : Grant
  job : Job
  strips : List Strip
  /-- The cores that lend a segment, in segment order; MGRANT is their number (R38). -/
  lenders : List Nat
  /-- The pending PREEMPT with its reason (R359, R360). -/
  preempt : Option (BitVec 8)
  freeze : Freeze
  /-- The frozen or loaded record that has not been replayed (R176). -/
  ifr : Option Ifr
  /-- The seed of an instruction that trapped part-way and has not retired (R65). -/
  seed : Option HeldSeed
  deriving DecidableEq, Repr

/-- What an outstanding access does at its slice. -/
inductive AccessOp where
  /-- Write bytes. -/
  | store (bytes : List Byte)
  /-- Write one nibble of a byte (R260). -/
  | nibble (high : Bool) (val : BitVec 4)
  /-- Read bytes into a scalar register (R363). -/
  | load (rd : XReg) (bytes : Nat) (signed : Bool)
  /-- Read, combine and write a word: the op code of an AMO, its operand and its comparand (R159). -/
  | amo (rd : XReg) (op : Nat) (x cmp : Word)
  /-- A SYNC that has acted at the Trivet and whose response is on its way: its op and type codes and its operand (R286, R363). -/
  | sync (xd : XReg) (op ty : Nat) (sys : Bool) (x : Word)
  /-- Read the n bytes of an element, or a nibble of its byte, into a vector register from a bit position on (R259). -/
  | vload (v : VReg) (pos n : Nat) (nibble : Option Bool)
  /-- Read, combine and write an element of n bytes, the old one going to a vector register: the op and type codes of a VAMO, the rounding mode, the random
  value and the operand (R263). -/
  | vamo (v : VReg) (pos n op ty : Nat) (mode : BitVec 3) (rnd x : Nat)
  /-- A FENCE or VLSYNC that waited when its hart was frozen: its imm14 (Table 14.4, kind 12). -/
  | fence (imm : Nat)
  deriving DecidableEq, Repr

/-- An access that has been issued and not acknowledged (R99 to R103). -/
structure Access where
  hart : Nat
  /-- 0: the scalar side; o + 1: logical octet o (R100). -/
  side : Nat
  loc : Nat
  va : Word
  op : AccessOp
  /-- A release (R103). -/
  release : Bool
  /-- An acquire: later instructions of the hart wait until it has bound (R103). -/
  acquire : Bool
  /-- The scope code of its ordering. -/
  scope : BitVec 3
  /-- The tag of an access of class T (R370). -/
  tag : BitVec 24
  performed : Bool
  /-- The value read, once performed. -/
  value : Word
  epoch : BitVec 8
  issuer : BitVec 32
  ctx : BitVec 32
  replay : Bool
  /-- The bank a load binds into (R145). -/
  sup : Bool
  /-- The vector instruction it belongs to, with its element; none for a scalar access. -/
  elem : Option (Nat × Nat)
  /-- The element group of that element (R18). -/
  group : Nat
  /-- The place of the instruction in program order (R367). -/
  order : Nat
  /-- NOCCLASS at its issue, for a scalar access (R327). -/
  noc : BitVec 2
  /-- Its request flit has entered the mesh (R324). -/
  sent : Bool
  /-- It is part of a write of its whole line, which clears poison (R449). -/
  full : Bool
  deriving DecidableEq, Repr

/-- A vector instruction of which element accesses are outstanding: what its entry of an in-flight record holds (R367, R368). -/
structure VGroup where
  grp : Nat
  hart : Nat
  /-- The kind of Table 14.4: 1 a load, 2 a store, 3 a VAMO. -/
  kind : Nat
  scope : BitVec 3
  /-- The tag of the first element of a VAMO. -/
  tag : BitVec 24
  vl : Nat
  kept : Kept
  deriving DecidableEq, Repr

/-- A frozen application context that has not resumed: the hart where it froze, its launch and gang (R349, R376), and the seed of its instruction that has
trapped part-way (R65) (DEDUCED, log entry 27). -/
structure Parked where
  hart : Nat
  ctx : BitVec 32
  issuer : BitVec 32
  job : Job
  seed : Option HeldSeed
  deriving DecidableEq, Repr

/-- A stream transfer in progress (R275). -/
structure StreamCmd where
  hart : Nat
  core : Nat
  handle : Nat
  /-- STRMW. -/
  out : Bool
  /-- Bytes of an element. -/
  size : Nat
  count : Nat
  /-- The location of each memory element under the translations held from issue (R276). -/
  locs : List Nat
  base : Nat
  mask : MReg
  post : Post
  chunksDone : List Nat
  asid : BitVec 16
  /-- Lines that the stream engine has requested, and those whose data has come back (R334). -/
  asked : List Nat
  answered : List Nat
  kept : Kept
  deriving DecidableEq, Repr

/-- A range of bytes: its offset from the start, its location and its length. -/
structure Segment where
  off : Nat
  loc : Nat
  len : Nat
  deriving DecidableEq, Repr

/-- A posted copy command (R280, R281). -/
structure CopyCmd where
  hart : Nat
  ctx : BitVec 32
  issuer : BitVec 32
  src : List Segment
  dst : List Segment
  len : Nat
  /-- The location of the flag and its value. -/
  flag : Option (Nat × Word)
  flagVa : Word
  post : Post
  executed : Bool
  /-- Its flag has been written. -/
  flagged : Bool
  /-- Its ranges overlap: class T (R281). -/
  overlap : Bool
  tag : BitVec 24
  asid : BitVec 16
  /-- The Ladle's own copy (R407). -/
  ladle : Bool
  /-- Its hart has been frozen since: the completion is discarded there (R363, R365). -/
  orphan : Bool
  replay : Bool
  kept : Kept
  deriving DecidableEq, Repr

/-- An append that has claimed its slots and waits for its commit (R268). -/
structure Append where
  hart : Nat
  ctx : BitVec 32
  issuer : BitVec 32
  /-- The location of the descriptor. -/
  desc : Nat
  descVa : Word
  first : Word
  count : Nat
  tag : BitVec 24
  /-- `stalled` once it has committed and its event record has no room (R171). -/
  post : Post
  kept : Kept
  deriving DecidableEq, Repr

/-- A train of VSCATR (R272). -/
structure Train where
  hart : Nat
  ctx : BitVec 32
  issuer : BitVec 32
  die : Nat
  ty : Nat
  /-- The handle and the converted element, in index order, of those not yet appended. -/
  elems : List (Word × Word)
  /-- Elements that the train was sent with. -/
  count : Nat
  tag : BitVec 24
  replay : Bool
  /-- Its hart has been frozen since: the acknowledgement is discarded there. -/
  orphan : Bool
  arrived : Bool
  kept : Kept
  deriving DecidableEq, Repr

/-- An element on its way to the hub because its replica is DEAD or its die ABSENT (R411). -/
structure Redirect where
  /-- The train it came in: its context, issuer and tag. -/
  ctx : BitVec 32
  issuer : BitVec 32
  tag : BitVec 24
  handle : Word
  value : Word
  ty : Nat
  deriving DecidableEq, Repr

/-- A gang instance (R282 to R285). -/
structure GangInst where
  index : Nat
  stream : Bool
  v : VReg
  mask : Nat
  code : Nat
  ty : Nat
  vl : Nat
  member : Nat
  xb : Word
  /-- The strip, once it has been fetched or copied. -/
  data : Option VBits
  /-- Ranks of the members that have executed the instance, and of those among them that it selected (R282). -/
  executed : List Nat
  selected : List Nat
  /-- Ranks of the selected members whose strip has landed. -/
  received : List Nat
  deriving DecidableEq, Repr

/-- A semaphore of the Trivet with its waiters, first come first (R287). -/
structure Sem where
  value : Word
  waiters : List (Nat × Word)
  deriving DecidableEq, Repr

/-- A barrier of the Trivet (R288). -/
structure Barrier where
  n : Nat
  arrived : Nat
  phase : BitVec 32
  broken : Bool
  /-- Contexts with an arrival since the driver last set or cleared the barrier (R112). -/
  ctxs : List (BitVec 32)
  deriving DecidableEq, Repr

/-- A reduction cell of the Trivet (R289). -/
structure Cell where
  /-- 0 F32, 1 F64, 2 I64. -/
  ty : BitVec 2
  n : Nat
  rounds : BitVec 32
  result : Word
  /-- Contributions of the open round by participant index. -/
  contrib : List (Nat × Word)
  deriving DecidableEq, Repr

/-- An entry of a duplicate table (R371), with the target that keeps it. -/
structure Duplicate where
  target : Nat
  ctx : BitVec 32
  issuer : BitVec 32
  tag : BitVec 24
  result : Word
  deriving DecidableEq, Repr

/-- The Trivet (R286 to R290, R361, R362). -/
structure Trivet where
  counters : Sparse Word
  sems : Sparse Sem
  barriers : Sparse Barrier
  cells : Sparse Cell
  trvdata : Word
  deriving DecidableEq, Repr

/-- The bound hart that pushed a record with LAUNCH, by its context and issuer number, and the record address it gave (R173, R370). -/
structure Pusher where
  ctx : BitVec 32
  issuer : BitVec 32
  addr : Word
  deriving DecidableEq, Repr

/-- A launch record (Table 13.2) with the hart that pushed it (R173). -/
structure LaunchRec where
  entry : Word
  arg : Word
  gx : Nat
  gy : Nat
  gz : Nat
  gangHarts : Nat
  octMin : Nat
  octMax : Nat
  placement : Nat
  dieMask : BitVec 8
  dsmWays : Nat
  flags : BitVec 8
  ctx : BitVec 32
  waitA : BitVec 32
  waitAVal : BitVec 32
  waitB : BitVec 32
  waitBVal : BitVec 32
  done : BitVec 32
  doneVal : BitVec 32
  /-- None for a host push. -/
  pusher : Option Pusher
  deriving DecidableEq, Repr

/-- A record in a queue: how many gangs of it are bound, and the launch they belong to. -/
structure QueuedRec where
  record : LaunchRec
  bound : Nat
  launch : Nat
  deriving DecidableEq, Repr

/-- A launch queue (Table 13.1, R344). -/
structure Queue where
  weight : Nat
  prio : Nat
  opened : Bool
  devpush : Bool
  own : BitVec 32
  lasterr : BitVec 3
  malformed : BitVec 16
  refused : BitVec 16
  credit : Nat
  recs : List QueuedRec
  deriving DecidableEq, Repr

/-- A host write to a window of a full queue that flow control holds (R339). -/
structure HeldPush where
  q : Nat
  off : Nat
  bytes : List Byte
  deriving DecidableEq, Repr

/-- A launch with bound gangs that has not completed (R346, R352). -/
structure Launch where
  id : Nat
  q : Nat
  record : LaunchRec
  /-- Gangs that have not completed. -/
  gangsLeft : Nat
  /-- A gang holds a killed member, or the record was removed: no completion add (R352, R457). -/
  killed : Bool
  /-- SYNCBASE of the context entry when the launch's first gang was bound: later changes of the entry do not move its completion add (R355). -/
  syncbase : Word
  deriving DecidableEq, Repr

/-- A bound gang (R21, R351). -/
structure Gang where
  id : Nat
  launch : Nat
  /-- HARTIDs in rank order; a member moved to another hart keeps its place. -/
  members : List Nat
  /-- The ranks that have halted. -/
  halted : List Nat
  barrier : Nat
  insts : List GangInst
  deriving DecidableEq, Repr

/-- A context entry (Table 13.4). -/
structure CtxEntry where
  ptroot : Word
  trapvec : Word
  ifrbase : Word
  pinquota : Word
  asid : BitVec 16
  syncbase : Word
  valid : Bool
  killed : Bool
  deriving DecidableEq, Repr

/-- A containment notice (R379, Table 14.1). -/
structure Notice where
  ctx : BitVec 32
  source : BitVec 8
  pa : Word
  deriving DecidableEq, Repr

/-- The launch register block (R337 to R356, R361, R380). -/
structure LaunchBlock where
  queues : Vector Queue 64
  held : List HeldPush
  /-- The queue whose head is selected (R344). -/
  selected : Option Nat
  launches : List Launch
  gangs : List Gang
  nextId : Nat
  ctxs : Sparse CtxEntry
  cntEnable : Bool
  cntHart : Nat
  notices : List Notice
  dropped : BitVec 16
  /-- Issuer numbers given so far. -/
  nextIssuer : BitVec 32
  deriving DecidableEq, Repr

/-- The state of a migration slot (Table 15.3). -/
inductive MigState where
  | free
  | copying
  | done
  | error
  deriving DecidableEq, Repr

/-- A migration slot (R395): MIGOLD and MIGNEW as written. -/
structure MigSlot where
  old : Word
  new : Word
  state : MigState
  pointer : Nat
  deriving DecidableEq, Repr

/-- A replica entry (Table 16.2). -/
structure Replica where
  weights : Word
  grads : Word
  inbox : Word
  vstamp : BitVec 32
  state : BitVec 8
  die : BitVec 8
  ifold : BitVec 32
  ifcur : BitVec 32
  ifnext : BitVec 32
  deriving DecidableEq, Repr

/-- An expert of the replica table (Table 16.1). -/
structure Expert where
  weightBytes : Word
  gradBytes : Word
  checksum : BitVec 32
  mode : BitVec 8
  valid : Bool
  hold : Bool
  lastChange : Word
  redirected : BitVec 32
  lost : BitVec 32
  reps : Vector Replica 8
  deriving DecidableEq, Repr

/-- A pool of frames on a die (LDPOOL, Table 16.3). -/
structure Pool where
  base : Word
  count : Nat
  fsize : BitVec 32
  thresh : BitVec 32
  ty : BitVec 5
  logcap : BitVec 5
  enable : Bool
  hart : BitVec 17
  /-- Frames that a replica or a running sequence holds. -/
  used : BitVec 64
  deriving DecidableEq, Repr

/-- The phase of the Ladle's sequence (Table 16.3). -/
inductive Phase where
  | idle
  | copy
  | verify
  | switch
  | drain
  | merge
  | wipe
  deriving DecidableEq, Repr

/-- What the running sequence does. -/
inductive LadleSeq where
  | none
  | replicate
  | retire
  | publish
  /-- A switch that carries DEAD states (R410). -/
  | dead
  deriving DecidableEq, Repr

/-- A charge or discharge on its way to the hub (R403). -/
structure Inflight where
  die : Nat
  expert : Nat
  replica : Nat
  version : BitVec 32
  plus : Bool
  deriving DecidableEq, Repr

/-- The Ladle block (R400 to R413). -/
structure Ladle where
  table : Sparse Expert
  enable : Bool
  ctx : Nat
  unit : Bool
  length : BitVec 32
  hot : BitVec 32
  cold : BitVec 32
  dwell : BitVec 32
  idlepm : BitVec 10
  maxrep : BitVec 3
  version : BitVec 32
  lasterr : BitVec 3
  absent : BitVec 8
  phase : Phase
  seq : LadleSeq
  die : Nat
  replica : Nat
  expert : Nat
  frame : Nat
  /-- What the running switch belongs to, and the phase it returns to. -/
  switchOf : LadleSeq
  back : Phase
  /-- Experts of which a replica has changed since the last completed switch. -/
  changed : List Nat
  /-- Experts of which a replica has died while a switch runs: the next switch carries them (R410). -/
  later : List Nat
  /-- Dies that have not acknowledged the running switch. -/
  acks : List Nat
  /-- Dies that have not applied the running switch. -/
  unapplied : List Nat
  deadPending : Bool
  trigger : BitVec 32
  done : BitVec 32
  noteEnable : Bool
  noteHart : BitVec 17
  util : Vector (BitVec 10) 8
  pools : Vector Pool 8
  /-- Counter snapshots of the last interval end, by die and expert (R405). -/
  snapshot : Vector (Sparse (BitVec 32)) 8
  messages : List Inflight
  /-- MERGE requests waiting (R412). -/
  merges : Nat
  /-- A merge has included the retiring replica (R409). -/
  merged : Bool
  /-- Step 2 of R409 has ended: the counts were 0 and the inbox consumed, or FORCEDRAIN counts them so (R413). -/
  drained : Bool
  /-- DRAIN stands between two steps of R409, where a MERGE may run (R412). -/
  boundary : Bool
  /-- Elements routed since the last interval end, and when that was (Table 16.3, UNIT and LENGTH). -/
  routed : Nat
  since : Nat
  /-- The time of the last reset, in µs since the cold reset (R400). -/
  started : Nat
  /-- DRAIN has posted its notice of an unreadable inbox (R409). -/
  noted : Bool
  /-- CRC-32C of the source bytes as the copy read them (R407). -/
  srcCrc : BitVec 32
  deriving DecidableEq, Repr

/-- Where a packet of the meshes goes, or where a request came from (R321, R323). -/
inductive Site where
  /-- A unit of a stop of a compute die: 0 to 2 its cores, 3 to 5 its DSM slices. -/
  | unit (die stop u : Nat)
  /-- Behind the hub: main memory, the Trivet, the register window and the host. -/
  | hub
  /-- Another package. -/
  | package (p : Nat)
  deriving DecidableEq, Repr

/-- Whose request a packet belongs to. -/
inductive Sender where
  /-- An access of a hart, with the place of its instruction in program order. -/
  | access (hart order : Nat)
  /-- A line read of a stream transfer (R334). -/
  | stream (hart handle : Nat)
  deriving DecidableEq, Repr

/-- A packet: one flit (R324). -/
structure Packet where
  src : Site
  dst : Site
  sender : Sender
  /-- The virtual channel: 0 LAT, 1 SYNC, 2 BULK (R327). -/
  vc : Nat
  write : Bool
  /-- The aligned line that it names, and the bytes that the request moves. -/
  line : Nat
  bytes : Nat
  deriving DecidableEq, Repr

/-- A flit waiting at a router output (R325 to R331). -/
structure Flit where
  input : Nat
  age : Nat
  /-- Its place among the promoted flits, once it is one (R331). -/
  promoted : Option Nat
  /-- The order in which flits entered the die's routers. -/
  seq : Nat
  packet : Packet
  deriving DecidableEq, Repr

/-- A packet on its way to a router's input (R325). -/
structure Crossing where
  stop : Nat
  net : Nat
  input : Nat
  packet : Packet
  deriving DecidableEq, Repr

/-- A router output port on one network (R329). -/
structure Port where
  flits : List Flit
  credit : Vector Nat 3
  /-- The input last granted in each channel (R330). -/
  last : Vector Nat 3
  deriving DecidableEq, Repr

/-- The mesh of a die (R321 to R333). -/
structure Noc where
  agemax : Nat
  wsync : Nat
  wbulk : Nat
  wlat : Nat
  /-- NOCARB as written, before it takes effect (R333). -/
  pending : Option Word
  nocarb : Word
  nocprom : Word
  nextSeq : Nat
  /-- Output ports by (stop, network, port). -/
  ports : Sparse Port
  /-- Promotions so far, not wrapped: the order of the promoted flits (R331). -/
  promSeq : Nat
  /-- Packets that cross a link or come from outside, those of one link in their order. -/
  crossing : List Crossing
  /-- Packets at the units of a stop, with their network, before they enter at its local port. -/
  waiting : List (Nat × Packet)
  /-- The unit whose packet entered last at a local port, by (stop, network) (R321). -/
  lastUnit : Sparse Nat
  deriving DecidableEq, Repr

/-- The power registers of a die (Table 20.4). -/
structure Power where
  cap : BitVec 16
  downs : BitVec 32
  throt : Bool
  step : Nat
  temp : BitVec 8
  power : BitVec 16
  energy : Word
  /-- Consecutive evaluations toward a step up (R459). -/
  cool : Nat
  /-- The die was reset for its temperature and stays OUT (R459). -/
  hot : Bool
  deriving DecidableEq, Repr

/-- One compute die. -/
structure Die where
  /-- CAPDIE.STATE: 0 IN_SERVICE, 1 RESETTING, 2 OUT. -/
  state : BitVec 2
  /-- Pseudo-channels mapped out of stacks 2d and 2d + 1. -/
  pchOutA : Nat
  pchOutB : Nat
  /-- Mapped-out cores, octets (8·core + octet) and DSM slices (R455). -/
  coresOut : List Nat
  octetsOut : List Nat
  slicesOut : List Nat
  nsfail : Bool
  /-- DSM ways held, by context (R84). -/
  dsm : Sparse Nat
  copies : Vector (List CopyCmd) 8
  /-- Vd and the cached copy of the replica table (R402). -/
  version : BitVec 32
  cache : Sparse Expert
  load : Sparse (BitVec 32)
  noc : Noc
  power : Power
  deriving DecidableEq, Repr

/-- How much of a producer a micro-op waits for (R309, R315). -/
inductive Grain where
  /-- The group of its own number: chain bit 1. -/
  | group
  /-- Both groups of its octet. -/
  | octet
  /-- Every group: chain bit 0. -/
  | whole
  /-- The first n groups to start, and every group to complete. -/
  | first (n : Nat)
  /-- The first n groups to start, and the first k to complete. -/
  | rows (n k : Nat)
  /-- The group of its own number, for the groups of a list. -/
  | among (l : List Nat)
  /-- Only that the producer has started. -/
  | started
  deriving DecidableEq, Repr

/-- What vector decode takes from an instruction (R306 to R309, R315). -/
structure Pipe where
  /-- Its class by row of Table 11.1: 0 arithmetic port to 8 sequencer control. -/
  unit : Nat
  /-- One micro-op per element group, else one in all (R307). -/
  each : Bool
  /-- Vector register entries that it takes (R306). -/
  writes : Nat
  dst : List VReg
  dstM : Option MReg
  dstX : Option XReg
  srcs : List (VReg × Grain)
  masks : List MReg
  /-- The governing mask (R310). -/
  gov : MReg
  /-- The register whose layout says which group an element is in. -/
  lay : Option VReg
  /-- A freeze may stop it part-way (R186). -/
  stops : Bool
  /-- It reads or writes the RS accumulator; RACC. -/
  acc : Bool
  racc : Bool
  deriving DecidableEq, Repr

/-- A vector instruction past decode (R306, R307). -/
structure Window where
  hart : Nat
  age : Nat
  /-- The place in program order, the instruction and the pc. -/
  order : Nat
  insn : Instr
  pipe : Pipe
  /-- What the hart held when the instruction issued. -/
  before : Hart
  /-- The seed it has drawn (R65). -/
  seed : Option (Word × Word × Word)
  /-- Flags that it raises when it completes. -/
  flags : BitVec 9
  /-- The tag that says in which group an element lies. -/
  lay : BitVec 8
  /-- Its occupancy of a core-shared unit (Table 11.3). -/
  occ : Nat
  /-- Element groups whose micro-op has not issued, each with how often it was passed over. -/
  unissued : List (Nat × Nat)
  /-- Element groups issued and not yet available. -/
  issued : List Nat
  /-- The decode ages of the producers of its sources, each with the grain (R309). -/
  srcs : List (Nat × Grain)
  /-- Those of its governing mask and of what it overwrites. -/
  keeps : List (Nat × Grain)
  /-- Groups with no active element (R310). -/
  skipped : List Nat
  /-- The next element of a row group that a freeze has stopped (R76, R219). -/
  next : Option Nat
  deriving DecidableEq, Repr

/-- An installed special-function image (R251, R428). -/
structure SfImage where
  kind : Nat
  b : Nat
  rows : Nat
  degree : Nat
  abs : Bool
  kappa : Word
  x0 : BitVec 32
  table : List (BitVec 32)
  steps : List (BitVec 32)
  digest : BitVec 256
  deriving DecidableEq, Repr

/-- One core. -/
structure Core where
  /-- LANEPOL.LEND (R353). -/
  lend : Bool
  /-- The hart that holds the core's array as a segment (R40). -/
  borrower : Option Nat
  slots : Sparse SfImage
  /-- The hart that issued last (R305). -/
  last : Nat
  window : List Window
  nextAge : Nat
  deriving DecidableEq, Repr

/-- A request at an HBM controller (R437 to R439). -/
structure MemReq where
  source : Nat
  kind : Nat
  pch : Nat
  bank : Nat
  row : Nat
  write : Bool
  line : Nat
  marked : Bool
  deriving DecidableEq, Repr

/-- One HBM stack's controller. -/
structure Stack where
  queue : List MemReq
  /-- Requests that wait at the hub for a source slot (R437). -/
  waiting : List MemReq
  /-- The open row of each bank, plus 1, by 16·pch + bank. -/
  rows : Sparse Nat
  /-- Requests of each source marked at the last formation (R438). -/
  ranks : Sparse Nat
  batches : Word
  reenc : Word
  deriving DecidableEq, Repr

/-- A key slot: the encryption key and the integrity key (R446). -/
structure KeyPair where
  enc : BitVec 256
  integ : BitVec 256
  deriving DecidableEq, Repr

/-- A page's counter block (R444): MAJOR and the minor counters that are not 0, by line. -/
structure CtrBlock where
  major : Word
  minors : Sparse Nat
  deriving DecidableEq, Repr

/-- What the cells of a data line hold (R442, R443): the 64 ciphertext bytes and the tag. -/
structure StoredLine where
  cipher : List Byte
  tag : BitVec 56
  deriving DecidableEq, Repr

/-- Main memory's controllers, keys and patrol (R435 to R453). -/
structure Hbm where
  ctls : Vector Stack 16
  keyCur : Option KeyPair
  keyNext : Option KeyPair
  keyOld1 : Option KeyPair
  keyOld2 : Option KeyPair
  keyver : BitVec 32
  /-- The key version that unlisted regions hold. -/
  regionBase : BitVec 32
  /-- The key version of each 2 MiB region; its distance from KEYVER names the slot (R446, R447). -/
  regions : Sparse (BitVec 32)
  blocks : Sparse CtrBlock
  /-- The counters of the counter trees' nodes and roots (R445), by stack, level and child. -/
  tree : Sparse Nat
  /-- The key version of the tag of each node that covers a region wholly (R445, R448); unlisted ones hold that of unlisted regions. -/
  nodes : Sparse (BitVec 32)
  /-- The cells of the lines that a controller has written since the fill, encrypted (R442); an unlisted line holds 64 zero bytes, encrypted under its region's keys and
  its counters of now. -/
  stored : Sparse (Option StoredLine)
  /-- The tags of counter blocks and nodes (R436, R445), by the number of the parent's counter for them; an unlisted one has the tag of its contents of now. -/
  metaTags : Sparse (Option (BitVec 56))
  /-- The line that a controller has read last, decrypted (R442). -/
  fetched : Option (Nat × List Byte)
  /-- Poisoned lines (R449). -/
  poison : Sparse Nat
  /-- Pages whose minor overflow is being re-encrypted (R450). -/
  overflow : List Nat
  memqos : Word
  hours : BitVec 16
  fast : Bool
  enable : Bool
  passes : BitVec 32
  rotref : Bool
  region : Nat
  /-- The next line of the region the patrol takes. -/
  patrolLine : Nat
  corr : BitVec 32
  uncorr : BitVec 32
  errTotal : BitVec 24
  errNext : BitVec 8
  errlog : Sparse (BitVec 256)
  deriving DecidableEq, Repr

/-- The management block's remaining registers (Tables 18.3 and 20.2). -/
structure Mgmt where
  /-- LCSTATE.STATE: 0 MANUFACTURE to 4 DECOMMISSIONED. -/
  lcstate : BitVec 3
  fill : Bool
  /-- FILLPTR in lines of 64 bytes. -/
  fillptr : Nat
  bootFail : BitVec 4
  bootStage : BitVec 4
  lcres : BitVec 2
  hostsize : Word
  fabtmo : BitVec 32
  owner : BitVec 256
  meas : Vector (BitVec 256) 6
  token : BitVec 2048
  health : BitVec 2
  cause : BitVec 8
  uncorrpd : BitVec 16
  corrph : BitVec 32
  pkgcap : BitVec 16
  /-- Times in µs of the corrected errors of the last hour and the uncorrectable errors of the last 24 hours (R456). -/
  corrTimes : List Nat
  uncorrTimes : List Nat
  llcOut : List Nat
  /-- Pseudo-channels, die-to-die lanes and wavelengths mapped out, by class and index. -/
  unitsOut : List (Nat × Nat)
  deriving DecidableEq, Repr

/-- The fabric block (Table 18.4). -/
structure Fabric where
  route : Sparse (BitVec 4)
  /-- Packages whose route has moved to the other die of the pair that PORT names, until the next route change (R458). -/
  moved : List Nat
  pkgpos : BitVec 6
  retries : Vector (BitVec 32) 4
  spared : Vector (BitVec 7) 4
  up : Vector Bool 4
  /-- The CXL host link is trained (R421). -/
  hostUp : Bool
  deriving DecidableEq, Repr

/-- The fuses of the package, set at manufacture: no step writes them (R427, R430, Table 18.3) (DEDUCED, log entry 60). -/
structure Fuses where
  serial : BitVec 128
  /-- SHA-256 of the public key of each image key slot. -/
  keySlots : Vector (BitVec 256) 4
  /-- The revocation fuse of each key slot. -/
  revoked : Vector Bool 4
  /-- The minimum security version of image kinds 1 to 4. -/
  minSvn : Vector (BitVec 16) 4
  /-- The secret from which the identity key is derived. -/
  uniqueSecret : BitVec 256
  deriving DecidableEq, Repr

/-- What the outside world last received: a CXL.mem or fabric read, or an SPDM response. -/
structure Outside where
  data : List Byte
  poisoned : Bool
  /-- The last host push completed with an error status (R339). -/
  pushError : Bool
  deriving DecidableEq, Repr

/-- A pinned line at a level (0 LLC, die + 1 the die's cache ways) with the contexts that pinned it, each with the launch whose hart did (R95 to R97, R352). -/
structure Pin where
  level : Nat
  line : Nat
  holders : List (BitVec 32 × Nat)
  deriving DecidableEq, Repr

/-- A hart that has halted, as HALT leaves it: the program's registers keep their values until a binding sets them (R167, R293, R294, R299, R303, R350).
`dsm` holds what its die's DSM allocation held when the halt ended it (R349, R303). -/
structure Ended where
  hart : Hart
  dsm : List Host.Cell
  deriving DecidableEq, Repr

/-- A cached translation (R389): the entry that a successful walk read for a 4 KiB page. -/
structure Tlb where
  asid : BitVec 16
  gen : BitVec 12
  vpn : Nat
  entry : Nat
  level : Nat
  deriving DecidableEq, Repr

/-- A host access that waits: its line has not been filled, or its page is being re-encrypted (R433, R450). -/
structure HostWait where
  pa : Nat
  len : Nat
  write : Bool
  bytes : List Byte
  /-- It comes from another package: the fill does not hold it (R433). -/
  fabric : Bool
  deriving DecidableEq, Repr

/-- A GENBUMP that waits for acknowledgements (R391). -/
structure Bump where
  hart : Nat
  asid : BitVec 16
  cores : List Nat
  deriving DecidableEq, Repr

/-- A step of an agent other than a hart that is due (DESIGN CHOICE, log entry 6): one that the outside takes, or one that an earlier step has started
and that comes next under the prompt schedule. Each of the second kind is the device step of its name. -/
inductive Due where
  | input (i : Instr)
  | preempt (hart : Nat)
  | settleWindow (hart : Nat)
  | recordFrozen (hart : Nat)
  | eventStallRelease (hart : Nat)
  | noticeDelivery
  | accessPerformed (k : Nat)
  | loadValueBound (k : Nat)
  | storeAcknowledge (k : Nat)
  | tagConfirm (k : Nat)
  | chunkDone (hart h c : Nat)
  | streamComplete (hart h : Nat)
  | copyExecute (die q : Nat)
  | copyComplete (die q : Nat)
  | vappendCommit (k : Nat)
  | trainArrival (k : Nat)
  | trainAcknowledge (k : Nat)
  | trainRedirect (k : Nat)
  | ladleIntervalEnd
  | gangStripLand (hart n : Nat)
  | genbumpAck (asid core : Nat)
  | heldPushAccept
  | select
  | bindGang
  | gangComplete (gang : Nat)
  | haltComplete (hart : Nat)
  | migrationLineCopy (slot : Nat)
  | inflightMessage (k : Nat)
  | replicationVerify
  | switchApply (die : Nat)
  | switchAck (die : Nat)
  | drainEnd
  | wipe
  | merge
  | dieDrainEnd (die : Nat)
  | dieResetComplete (die : Nat)
  | streamRequest (core : Nat)
  | nocarbApply (die : Nat)
  | meshTick
  | microOp (core unit : Nat)
  | groupAvailable (core age group : Nat)
  deriving DecidableEq, Repr

/-- The whole package. -/
structure State where
  /-- The hart whose turn it is to issue. -/
  hart : Hart
  /-- The other bound harts, in the order of their turns. -/
  others : List Hart
  /-- Halted harts whose number has not been bound again. -/
  ended : List Ended
  /-- Every byte by location (`Loc` in Machine/Ops.lean); an unlisted byte reads 0. -/
  mem : List Host.Cell
  /-- Device steps that come before the next instruction issues (DESIGN CHOICE, log entry 6). -/
  agenda : List Due
  /-- Whether accesses wait in the hart's queues for ACCESS_PERFORMED, and vector instructions in their windows for MICRO_OP_ISSUE (DESIGN CHOICE, log entry 7). -/
  relaxed : Bool
  /-- Counter of the free values taken so far (DESIGN CHOICE, log entry 8). -/
  free : Nat
  /-- Microseconds since reset. -/
  now : Nat
  accesses : List Access
  vgroups : List VGroup
  /-- Stores of frozen contexts that are still on their way: their acknowledgements will be discarded (R363, R372). -/
  orphans : List Access
  /-- Numbers given to instructions whose work is outstanding. -/
  nextOrder : Nat
  parked : List Parked
  streams : List StreamCmd
  appends : List Append
  trains : List Train
  redirects : List Redirect
  pins : List Pin
  duplicates : List Duplicate
  /-- Horizons recorded for an issuer of a context (R372). -/
  horizons : List (BitVec 32 × BitVec 32 × BitVec 8)
  /-- Generations by ASID (R389). -/
  gens : Sparse (BitVec 12)
  bumps : List Bump
  /-- Whether successful walks are cached (DESIGN CHOICE, log entry 9). -/
  caching : Bool
  tlb : List Tlb
  trivet : Trivet
  launch : LaunchBlock
  mig : Vector MigSlot 64
  ladle : Ladle
  cores : Sparse Core
  dies : Vector Die 8
  hbm : Hbm
  mgmt : Mgmt
  fabric : Fabric
  fuses : Fuses
  outside : Outside
  /-- Host accesses that wait, oldest first (R433, R450). -/
  hostWaits : List HostWait
  deriving DecidableEq, Repr

/-- Why the machine stops with a fault. No rule of the manual stops the machine: every trap is a next state. -/
inductive Fault where
  /-- Raised by `step` when the agenda, which holds steps of the other agents, names an instruction of a hart.
  No operation of the model puts one there (DEDUCED, log entry 63). Safe: the manual has no such step. -/
  | notADeviceStep
  deriving DecidableEq, Repr

/-- Why an instruction has no meaning. -/
inductive Refusal where
  /-- The instruction has not been given its meaning yet. Safe: nothing can be proved of its effect. -/
  | notModelled (mnemonic : String)
  deriving DecidableEq, Repr

/-- The application control registers at binding (Table 1.3, R68, R181; DESIGN CHOICE, log entries 1 and 3 for those without a stated value). -/
def AppCsr.zero : AppCsr :=
  { vl := 0, vstart := 0, rowlen := 0, mklen := 0, mrows := 0, frm := 0, fflags := 0, srmode := 0, srlog := 0,
    rngkey := 0, rngstream := 0, rngctr := 0, nocclass := 0, routever := 0, gangid := 0, gangsize := 0, gangrank := 0,
    launcharg := 0, cycle := 0, exact := false, racc := 0 }

/-- The supervisor control registers before any binding (DESIGN CHOICE, log entries 1 and 2); LANEPOL as R353 gives it. -/
def SupCsr.zero : SupCsr :=
  { trapvec := 0, trapcause := 0, trappc := 0, trapval := 0, trapelem := 0, trapstat := 0, ifrbase := 0, ctxid := 0,
    asid := 0, ptroot := 0, deadline := 200, grow := true, syncbase := 0, pinquota := 0, forcectr := false }

/-- The vector side at binding (Table 1.3): zero, tagged N8 packed (code 9), e = 32 bits (R181). -/
def Vec.zero : Vec :=
  { v := Vector.replicate 64 0, tag := Vector.replicate 64 0x09, m := Vector.replicate 8 0, acc := 0, accI32 := false,
    matrix := false, octets := 0, ew := 3, tile := none }

/-- Nothing kept. -/
def Kept.zero : Kept :=
  { order := 0, pc := 0, insn := 0, a := 0, b := 0, c := 0, d := 0, key := 0, stream := 0, mode := 0, va := 0, vaTag := 0, vb := 0, vbTag := 0,
    vi := 0, viTag := 0, mask := 0 }

/-- A hart that no launch has bound. -/
def Hart.blank (id : Nat) : Hart :=
  { id := id, bound := false, run := .running, wait := none, level := .app, pc := 0, x := Vector.replicate 32 0, sx := Vector.replicate 32 0,
    csr := AppCsr.zero, sup := SupCsr.zero, vec := Vec.zero,
    handles := Vector.replicate 32 ⟨0, 0, .free⟩, events := ⟨[], 0, none, []⟩, tags := ⟨0, 0, 0⟩,
    grant := ⟨1, 8, 8, false, none⟩, job := ⟨0, 0, 0⟩, strips := [], lenders := [], preempt := none, freeze := .none, ifr := none, seed := none }

/-- An empty replica slot (R433). -/
def Replica.zero : Replica :=
  { weights := 0, grads := 0, inbox := 0, vstamp := 0, state := 0, die := 0, ifold := 0, ifcur := 0, ifnext := 0 }

/-- An unlisted expert of the replica table (R433). -/
def Expert.zero : Expert :=
  { weightBytes := 0, gradBytes := 0, checksum := 0, mode := 0, valid := false, hold := false, lastChange := 0,
    redirected := 0, lost := 0, reps := Vector.replicate 8 Replica.zero }

/-- The Ladle after reset (R433). -/
def Ladle.zero : Ladle :=
  { table := [], enable := false, ctx := 0, unit := false, length := 0, hot := 0, cold := 0, dwell := 0, idlepm := 0, maxrep := 0,
    version := 0, lasterr := 0, absent := 0, phase := .idle, seq := .none, die := 0, replica := 0, expert := 0, frame := 0,
    switchOf := .none, back := .idle, changed := [], later := [], acks := [], unapplied := [], deadPending := false, trigger := 0, done := 0, noteEnable := false, noteHart := 0,
    util := Vector.replicate 8 0, pools := Vector.replicate 8 ⟨0, 0, 0, 0, 0, 0, false, 0, 0⟩,
    snapshot := Vector.replicate 8 [], messages := [], merges := 0, merged := false, drained := false, boundary := false, routed := 0, since := 0, started := 0, noted := false, srcCrc := 0 }

/-- A launch queue after reset (R337). -/
def Queue.zero : Queue :=
  { weight := 0, prio := 0, opened := false, devpush := false, own := 0, lasterr := 0, malformed := 0, refused := 0, credit := 0, recs := [] }

/-- The launch register block after reset (R337, R361). -/
def LaunchBlock.zero : LaunchBlock :=
  { queues := Vector.replicate 64 Queue.zero, held := [], selected := none, launches := [], gangs := [], nextId := 0, ctxs := [],
    cntEnable := false, cntHart := 0, notices := [], dropped := 0, nextIssuer := 0 }

/-- An empty router output port (DESIGN CHOICE, log entry 29). -/
def Port.zero : Port :=
  { flits := [], credit := Vector.replicate 3 0, last := Vector.replicate 3 4 }

/-- NOCARB after reset (R333). -/
def nocarbReset : Word := 0x00400214

/-- The mesh of a die after reset (R333). -/
def Noc.zero : Noc :=
  { agemax := 64, wsync := 2, wbulk := 1, wlat := 4, pending := none, nocarb := nocarbReset, nocprom := 0, nextSeq := 0, ports := [],
    promSeq := 0, crossing := [], waiting := [], lastUnit := [] }

/-- A compute die after reset (Tables 20.2 and 20.4). -/
def Die.zero : Die :=
  { state := 0, pchOutA := 0, pchOutB := 0, coresOut := [], octetsOut := [], slicesOut := [], nsfail := false, dsm := [],
    copies := Vector.replicate 8 [], version := 0, cache := [], load := [], noc := Noc.zero,
    power := { cap := 280, downs := 0, throt := false, step := 0, temp := 0, power := 0, energy := 0, cool := 0, hot := false } }

/-- Main memory's controllers after a cold reset (Table 19.4, R446, R453) (DESIGN CHOICE, log entry 29). -/
def Hbm.zero : Hbm :=
  { ctls := Vector.replicate 16 ⟨[], [], [], [], 0, 0⟩, keyCur := none, keyNext := none, keyOld1 := none, keyOld2 := none, keyver := 0,
    regionBase := 0, regions := [], blocks := [], tree := [], nodes := [], stored := [], metaTags := [], fetched := none, poison := [], overflow := [], memqos := 5, hours := 24, fast := false, enable := true, passes := 0,
    rotref := false, region := 0, patrolLine := 0, corr := 0, uncorr := 0, errTotal := 0, errNext := 0, errlog := [] }

/-- The management block after a cold reset: FILL runs from line 0 (R433), FABTMO 10,000, thresholds and caps of Table 20.2 (DESIGN CHOICE, log entry 28). -/
def Mgmt.zero : Mgmt :=
  { lcstate := 0, fill := true, fillptr := 0, bootFail := 0, bootStage := 0, lcres := 0, hostsize := 0, fabtmo := 10000, owner := 0,
    meas := Vector.replicate 6 0, token := 0, health := 0, cause := 0, uncorrpd := 16, corrph := 10000, pkgcap := 2240, corrTimes := [], uncorrTimes := [], llcOut := [],
    unitsOut := [] }

/-- The fabric block after reset (Table 18.4) (DESIGN CHOICE, log entry 28). -/
def Fabric.zero : Fabric :=
  { route := [], moved := [], pkgpos := 0, retries := Vector.replicate 4 0, spared := Vector.replicate 4 0, up := Vector.replicate 4 false, hostUp := false }

/-- The fuses as they were made: values that no proof can see (DESIGN CHOICE, log entry 8). -/
def Fuses.asMade : Fuses :=
  { serial := Config.serial, keySlots := Vector.ofFn fun k => Config.keySlot k.val, revoked := Vector.ofFn fun k => Config.revoked k.val,
    minSvn := Vector.ofFn fun k => Config.minSvn (k.val + 1), uniqueSecret := Config.uniqueSecret }

/-- The package right after a cold reset: no hart is bound, no memory byte is listed, every queue is closed. -/
def State.reset : State :=
  { hart := Hart.blank 0, others := [], ended := [], mem := [], agenda := [], relaxed := false, free := 0, now := 0, accesses := [], vgroups := [], orphans := [], nextOrder := 0, parked := [], streams := [],
    appends := [], trains := [], redirects := [], pins := [], duplicates := [], horizons := [], gens := [], bumps := [], caching := false,
    tlb := [], trivet := { counters := [], sems := [], barriers := [], cells := [], trvdata := 0 }, launch := LaunchBlock.zero,
    mig := Vector.replicate 64 ⟨0, 0, .free, 0⟩, ladle := Ladle.zero, cores := [], dies := Vector.replicate 8 Die.zero, hbm := Hbm.zero,
    mgmt := Mgmt.zero, fabric := Fabric.zero, fuses := Fuses.asMade, outside := ⟨[], false, false⟩, hostWaits := [] }

end Sys2Proof.Machine
end

