-- ==== Sys2Proof/Machine/Ops.lean ====
section
/-! DEFINITION. The named operations over tables, memory, registers and harts; the checks of an access (R85 to R92) and its translation
(R383 to R397); loads and stores under the ordering policy (R99 to R103); taking a trap and returning from one (R174 to R176, R357, R358);
events (R168 to R171). -/

namespace Sys2Proof.Machine

/-! ### Sparse tables -/

/-- What a key holds; `d` is what an unlisted key reads as. -/
def Sparse.get {α : Type} (d : α) : Sparse α → Nat → α
  | [], _ => d
  | (k, v) :: t, n => if k = n then v else if n < k then d else Sparse.get d t n

/-- Write a key, keeping the canonical form: keys rising, no entry equal to `d`. -/
def Sparse.set {α : Type} [DecidableEq α] (d : α) : Sparse α → Nat → α → Sparse α
  | [], n, x => if x = d then [] else [(n, x)]
  | (k, v) :: t, n, x =>
    if n < k then (if x = d then (k, v) :: t else (n, x) :: (k, v) :: t)
    else if n = k then (if x = d then t else (n, x) :: t)
    else (k, v) :: Sparse.set d t n x

/-- The keys rise strictly from `lo` on and no entry holds `d`. -/
def Sparse.wfFrom {α : Type} [DecidableEq α] (d : α) : Nat → Sparse α → Bool
  | _, [] => true
  | lo, (k, v) :: t => decide (lo ≤ k) && decide (v ≠ d) && Sparse.wfFrom d (k + 1) t

/-- The canonical form of a table. -/
def Sparse.wf {α : Type} [DecidableEq α] (d : α) (t : Sparse α) : Bool := Sparse.wfFrom d 0 t

/-- Change what a key holds. -/
def Sparse.upd {α : Type} [DecidableEq α] (d : α) (t : Sparse α) (n : Nat) (f : α → α) : Sparse α :=
  Sparse.set d t n (f (Sparse.get d t n))

/-- The canonical form of memory: addresses strictly rising, no byte equal to the 0 that an unlisted address reads (R433). -/
def Memory.wf (m : List Host.Cell) : Bool := Sparse.wf (0 : Byte) m

/-- One byte of memory (DESIGN CHOICE, log entry 5). -/
def Memory.byte (m : List Host.Cell) (loc : Nat) : Byte := Sparse.get (0 : Byte) m loc

/-- The bytes from a location on. -/
def Memory.bytes (m : List Host.Cell) (loc : Nat) : Nat → List Byte
  | 0 => []
  | n + 1 => Memory.byte m loc :: Memory.bytes m (loc + 1) n

/-- Write bytes from a location on. -/
def Memory.put (m : List Host.Cell) (loc : Nat) : List Byte → List Host.Cell
  | [] => m
  | b :: t => Memory.put (Sparse.set (0 : Byte) m loc b) (loc + 1) t

/-- The number a little-endian byte list holds (R113). -/
def leNat : List Byte → Nat
  | [] => 0
  | b :: t => b.toNat + 256 * leNat t

/-- The n low bytes of a number, little-endian. -/
def leBytes : Nat → Nat → List Byte
  | 0, _ => []
  | n + 1, x => BitVec.ofNat 8 x :: leBytes n (x / 256)

/-- The little-endian number of n bytes of memory. -/
def Memory.num (m : List Host.Cell) (loc n : Nat) : Nat := leNat (Memory.bytes m loc n)

/-- Bits hi down to lo of a number. -/
def bitsOf (x hi lo : Nat) : Nat := x / 2 ^ lo % 2 ^ (hi + 1 - lo)

/-- One bit of a number. -/
def bitOf (x i : Nat) : Bool := x / 2 ^ i % 2 == 1

/-- Replace the elements of a list that satisfy a test. -/
def updWhere {α : Type} (p : α → Bool) (f : α → α) (l : List α) : List α := l.map fun a => if p a then f a else a

/-! ### Locations -/

/-- Where a byte of a die-home frame lies (R83, R388): apart from the same frame number without the attribute. -/
def locHome (die pa : Nat) : Nat := 2 ^ 60 + die * 2 ^ 52 + pa

/-- Where a byte of a vector scratchpad lies. -/
def locVsp (die core off : Nat) : Nat := 2 ^ 61 + (die * 48 + core) * 2 ^ 20 + off

/-- Where a byte of a context's DSM allocation lies (R84). -/
def locDsm (die ctx off : Nat) : Nat := 2 ^ 62 + (die * 2 ^ 32 + ctx) * 2 ^ 28 + off

/-- The memory slice of a location (R82): a VSP bank, a DSM slice or a global line of 64 bytes. -/
def sliceOf (loc : Nat) : Nat :=
  if 2 ^ 62 ≤ loc then 2 ^ 62 + (loc - 2 ^ 62) / 2 ^ 28 * 64 + (loc - 2 ^ 62) % 2 ^ 28 / 64 % 48
  else if 2 ^ 61 ≤ loc then 2 ^ 61 + (loc - 2 ^ 61) / 2 ^ 20 * 64 + (loc - 2 ^ 61) % 2 ^ 20 / 64 % 64
  else loc / 64

/-! ### Harts -/

/-- HARTID's hart field (R13). -/
def hartOf (id : Nat) : Nat := id % 4

/-- HARTID's core field. -/
def coreOf (id : Nat) : Nat := id / 4 % 64

/-- HARTID's die field. -/
def dieOf (id : Nat) : Nat := id / 256 % 8

/-- The hart of an index, a core and a die, without the package position. -/
def mkHartId (die core hart : Nat) : Nat := die * 256 + core * 4 + hart

/-- The number of a core in the package, 64 per die. -/
def coreKey (die core : Nat) : Nat := die * 64 + core

/-- A core that nothing has touched. -/
def Core.zero : Core := { lend := false, borrower := none, slots := [], last := 0, window := [], nextAge := 0 }

/-- All bound harts, the current one first. -/
def State.harts (s : State) : List Hart := s.hart :: s.others

/-- The hart of an id, if it is in the machine. -/
def State.hartById (s : State) (id : Nat) : Option Hart := s.harts.find? fun h => h.id == id

/-- Change the current hart. -/
def State.onHart (s : State) (f : Hart → Hart) : State := { s with hart := f s.hart }

/-- Change the hart of an id. -/
def State.updHart (s : State) (id : Nat) (f : Hart → Hart) : State :=
  if s.hart.id = id then { s with hart := f s.hart } else { s with others := updWhere (fun h => h.id == id) f s.others }

/-- The hart of a HARTID form, in this package. -/
def State.ownHart (s : State) (v : Nat) : Option Nat := if bitsOf v 16 11 = s.fabric.pkgpos.toNat then some (v % 2048) else none

/-- Make the hart of an id the current one, leaving the former one in its place. -/
def State.swapTo (s : State) (id : Nat) : State :=
  if s.hart.id = id then s
  else match s.others.find? (fun h => h.id == id) with
    | some h => { s with hart := h, others := updWhere (fun k => k.id == id) (fun _ => s.hart) s.others }
    | none => s

/-- Run an operation as the hart of an id, then give the turn back; nothing happens when the hart is not in the machine. -/
def State.asHart (s : State) (id : Nat) (f : State → State) : State :=
  match s.hartById id with
  | some _ => (f (s.swapTo id)).swapTo s.hart.id
  | none => s

/-- The next hart's turn (R305): the current hart goes to the end of the row, an unbound one leaves it. -/
def State.rotate (s : State) : State :=
  match s.others with
  | [] => s
  | h :: t => { s with hart := h, others := if s.hart.bound then t ++ [s.hart] else t }

/-- The core of an entry of the core table. -/
def State.core (s : State) (die core : Nat) : Core := Sparse.get Core.zero s.cores (coreKey die core)

/-- Change a core. -/
def State.updCore (s : State) (die core : Nat) (f : Core → Core) : State :=
  { s with cores := Sparse.upd Core.zero s.cores (coreKey die core) f }

/-- The core of the current hart. -/
def State.myCore (s : State) : Core := s.core (dieOf s.hart.id) (coreOf s.hart.id)

/-- The vector instructions of a hart that have passed decode, oldest first. -/
def State.windows (s : State) (id : Nat) : List Window := (s.core (dieOf id) (coreOf id)).window.filter fun w => w.hart == id

/-- The vector instructions of a hart leave the windows of its core. -/
def State.dropWindows (s : State) (id : Nat) : State :=
  if (s.windows id).isEmpty then s else s.updCore (dieOf id) (coreOf id) fun c => { c with window := c.window.filter fun w => w.hart != id }

/-- Every micro-op of an instruction has issued and its groups are available. -/
def Window.complete (w : Window) : Bool := w.unissued.isEmpty && w.issued.isEmpty

/-- Vector instructions of the current hart in the windows have not completed. -/
def State.pipeBusy (s : State) : Bool := (s.windows s.hart.id).any fun w => !w.complete

/-- A compute die. -/
def State.die (s : State) (d : Nat) : Die := s.dies.get (Fin.ofNat 8 d)

/-- Change a compute die. -/
def State.updDie (s : State) (d : Nat) (f : Die → Die) : State :=
  { s with dies := s.dies.set (Fin.ofNat 8 d).val (f (s.die d)) (Fin.ofNat 8 d).isLt }

/-- Device steps that are now due (DESIGN CHOICE, log entry 6). -/
def State.due (s : State) (l : List Due) : State := { s with agenda := s.agenda ++ l }

/-- The next free value and the state that has taken it. -/
def State.takeFree (s : State) : Word × State := (Config.freeWord s.free, { s with free := s.free + 1 })

/-! ### Scalar registers -/

/-- A scalar register of the bank of the hart's level; x0 reads zero (Table 1.3, R145). -/
def Hart.rx (h : Hart) (r : XReg) : Word :=
  if r = 0 then 0 else match h.level with
    | .app => h.x.get r
    | .sup => h.sx.get r

/-- Write a scalar register of the bank of the hart's level; a write to x0 is discarded. -/
def Hart.wx (h : Hart) (r : XReg) (v : Word) : Hart :=
  if r = 0 then h else match h.level with
    | .app => { h with x := h.x.set r.val v r.isLt }
    | .sup => { h with sx := h.sx.set r.val v r.isLt }

/-- Read a scalar register of the current hart. -/
def State.rx (s : State) (r : XReg) : Word := s.hart.rx r

/-- Write a scalar register of the current hart. -/
def State.wx (s : State) (r : XReg) (v : Word) : State := { s with hart := s.hart.wx r v }

/-- Go to another instruction; the hart is running again. -/
def State.setPc (s : State) (pc : Word) : State := { s with hart := { s.hart with pc := pc, run := .running, wait := none } }

/-- Move past an instruction of n bytes; the hart is running again. -/
def State.adv (s : State) (n : Nat) : State :=
  { s with hart := { s.hart with pc := s.hart.pc + BitVec.ofNat 64 n, run := .running, wait := none } }

/-- Write a register and move past a 32-bit instruction. -/
def State.ret (s : State) (rd : XReg) (v : Word) : State := (s.wx rd v).adv 4

/-- The instruction waits and is tried again at the hart's next turn (DEDUCED, log entry 59). -/
def State.waits (s : State) (i : Instr) : State := { s with hart := { s.hart with run := .waiting, wait := some i } }

/-- The instruction is under way in another agent. -/
def State.blocks (s : State) (i : Instr) : State := { s with hart := { s.hart with run := .blocked, wait := some i } }

/-- The current hart is at supervisor level. -/
def State.isSup (s : State) : Bool := s.hart.level == .sup

/-! ### Vector and mask registers -/

/-- A vector register. -/
def Hart.rv (h : Hart) (r : VReg) : VBits := h.vec.v.get r

/-- A register belongs to the B group of a tile. -/
def Tile.holds (t : Tile) (r : VReg) : Bool := decide (t.vb.val ≤ r.val) && decide (r.val < t.vb.val + t.regs)

/-- Write a vector register; a tile that it belongs to is no longer in place (R314). -/
def Hart.wv (h : Hart) (r : VReg) (x : VBits) : Hart := { h with vec := { h.vec with v := h.vec.v.set r.val x r.isLt, tile := h.vec.tile.filter fun t => !t.holds r } }

/-- A register's tag. -/
def Hart.tagOf (h : Hart) (r : VReg) : BitVec 8 := h.vec.tag.get r

/-- Write a register's tag. -/
def Hart.setTag (h : Hart) (r : VReg) (t : BitVec 8) : Hart :=
  { h with vec := { h.vec with tag := h.vec.tag.set r.val t r.isLt, tile := h.vec.tile.filter fun t => !t.holds r } }

/-- A mask register; m0 reads all ones (Table 1.3). -/
def Hart.rm (h : Hart) (r : MReg) : MBits := if r = 0 then BitVec.allOnes 8192 else h.vec.m.get r

/-- Write a mask register; a write to m0 never happens (R15), and would be discarded. -/
def Hart.wm (h : Hart) (r : MReg) (x : MBits) : Hart :=
  if r = 0 then h else { h with vec := { h.vec with m := h.vec.m.set r.val x r.isLt } }

/-- The number of octets in a set. -/
def octetCount (o : BitVec 8) : Nat := ((List.range 8).filter fun i => o.getLsbD i).length

/-- The granted lanes, L (R16). -/
def Hart.lanes (h : Hart) : Nat := 8 * octetCount h.vec.octets

/-- Keep the low n bits. -/
def lowBits {w : Nat} (x : BitVec w) (n : Nat) : BitVec w := BitVec.ofNat w (x.toNat % 2 ^ n)

/-! ### Physical addresses and windows -/

/-- The kind of an access (R357). -/
inductive AKind where
  | read
  | write
  | fetch
  deriving DecidableEq, Repr

/-- TRAPCAUSE[9:8] of an access kind. -/
def AKind.code : AKind → Nat
  | .read => 0
  | .write => 1
  | .fetch => 2

/-- The causes of Table 14.1. -/
inductive Cause where
  | illegalInstruction
  | illegalOperand
  | misaligned (k : AKind)
  | pageFault (k : AKind)
  | permission (k : AKind)
  | windowRange (k : AKind)
  | syncHandle
  | breakpoint
  | ecall
  | preempt
  | containment
  deriving DecidableEq, Repr

/-- The TRAPCAUSE value of a cause (R357). -/
def Cause.code : Cause → Nat
  | .illegalInstruction => 1
  | .illegalOperand => 2
  | .misaligned k => 3 + 256 * k.code
  | .pageFault k => 4 + 256 * k.code
  | .permission k => 5 + 256 * k.code
  | .windowRange k => 6 + 256 * k.code
  | .syncHandle => 7
  | .breakpoint => 8
  | .ecall => 9
  | .preempt => 10
  | .containment => 11

/-- A trap: the cause with TRAPVAL and TRAPELEM. -/
structure Trap where
  cause : Cause
  val : Word
  elem : Word
  deriving DecidableEq, Repr

/-- What a physical address reaches (Table 18.2). -/
inductive Target where
  | hbm (a : Nat)
  | register (off : Nat)
  | remote (p a : Nat)
  | host (h : Nat)
  | absent
  deriving DecidableEq, Repr

/-- Decode a physical address (R424); a remote address of the own position reaches the local location. -/
def State.target (s : State) (pa : Nat) : Target :=
  if pa < 2 ^ 40 then .hbm pa
  else if pa < 2 ^ 40 + 2 ^ 26 then .register (pa - 2 ^ 40)
  else if 2 ^ 46 ≤ pa ∧ pa < 2 ^ 47 then
    if bitsOf pa 45 40 = s.fabric.pkgpos.toNat then .hbm (pa % 2 ^ 40) else .remote (bitsOf pa 45 40) (pa % 2 ^ 40)
  else if 2 ^ 47 ≤ pa ∧ pa - 2 ^ 47 < s.mgmt.hostsize.toNat then .host (pa - 2 ^ 47)
  else .absent

/-- Installed memory for R386: any target but an absent one. -/
def State.installed (s : State) (pa : Nat) : Bool := s.target pa != .absent

/-- Installed memory for R177: the register window does not count. -/
def State.installedMemory (s : State) (pa : Nat) : Bool :=
  match s.target pa with
  | .absent | .register _ => false
  | _ => true

/-- The location of a physical address (R83, R424): a die-home frame of local HBM lies apart. -/
def State.physLoc (s : State) (home : Option Nat) (pa : Nat) : Nat :=
  match s.target pa, home with
  | .hbm a, some d => locHome d a
  | .hbm a, none => a
  | _, _ => pa

/-- The place an access reaches. -/
structure Place where
  loc : Nat
  /-- BAR0 offset, in the register window. -/
  reg : Option Nat
  /-- The window accesses and NOCACHE pages that PIN refuses (R96). -/
  uncacheable : Bool
  /-- A remote package, with its position. -/
  pkg : Option Nat
  /-- Die home, for the interleaving of R83. -/
  home : Option Nat
  deriving DecidableEq, Repr

/-- A location in the register window (Table 18.2): no access of an engine reads or writes a register there (R423). -/
def windowLoc (loc : Nat) : Bool := decide (2 ^ 40 ≤ loc) && decide (loc < 2 ^ 40 + 2 ^ 26)

/-- The place of a physical address under a page's attributes. -/
def State.physPlace (s : State) (home : Option Nat) (nocache : Bool) (pa : Nat) : Place :=
  { loc := s.physLoc home pa
    reg := match s.target pa with | .register off => some off | _ => none
    uncacheable := nocache
    pkg := match s.target pa with | .remote p _ => some p | _ => none
    home := home }

/-- A core of a die that is in service and not mapped out (R87, R455, R458). -/
def State.coreUsable (s : State) (die core : Nat) : Bool :=
  decide (die < 8) && decide (core < 48) && (s.die die).state == 0 && !(s.die die).coresOut.contains core

/-- The extent in bytes of a context's DSM allocation on a die (R84); zero on a die that is mapped out. -/
def State.dsmExtent (s : State) (die ctx : Nat) : Nat :=
  if die < 8 ∧ (s.die die).state = 0 then Sparse.get 0 (s.die die).dsm ctx * (6 * 2 ^ 20) else 0

/-- The place of a window address with VA[56] = 1 (R86, R87), none when it is out of range. -/
def State.windowPlace (s : State) (va size : Nat) : Option Place :=
  let mydie := dieOf s.hart.id
  let ctx := s.hart.sup.ctxid.toNat
  let at' (loc : Nat) : Place := { loc := loc, reg := none, uncacheable := true, pkg := none, home := none }
  let w := bitsOf va 55 48
  let off := va % 2 ^ 20
  let doff := va % 2 ^ 28
  if w = 0x80 then
    if bitsOf va 47 20 = 0 ∧ off + size ≤ 2 ^ 20 then some (at' (locVsp mydie (coreOf s.hart.id) off)) else none
  else if w = 0x81 then
    if bitsOf va 47 28 = 0 ∧ doff + size ≤ s.dsmExtent mydie ctx then some (at' (locDsm mydie ctx doff)) else none
  else if w = 0x82 then
    if bitsOf va 37 20 = 0 ∧ s.coreUsable (bitsOf va 47 44) (bitsOf va 43 38) ∧ off + size ≤ 2 ^ 20 then
      some (at' (locVsp (bitsOf va 47 44) (bitsOf va 43 38) off)) else none
  else if w = 0x83 then
    if bitsOf va 43 28 = 0 ∧ doff + size ≤ s.dsmExtent (bitsOf va 47 44) ctx then
      some (at' (locDsm (bitsOf va 47 44) ctx doff)) else none
  else none

/-! ### Translation -/

/-- The page size in bits of a leaf at a level (R383). -/
def pageBits (level : Nat) : Nat := 12 + 9 * level

/-- FRAME as a byte address. -/
def pteFrame (e : Nat) : Nat := bitsOf e 51 12 * 4096

/-- An entry with V = 1 is malformed at a level (R386). -/
def State.pteBad (s : State) (level e : Nat) : Bool :=
  let leaf := bitOf e 1
  let mig := bitOf e 63
  let contig := bitOf e 5
  bitOf e 62 || bitsOf e 55 52 != 0 || bitOf e 11 ||
  (leaf && level == 4) || (!leaf && level == 0) ||
  (!leaf && (bitsOf e 10 2 != 0 || bitsOf e 63 56 != 0)) ||
  (leaf && ((!mig && bitsOf e 61 56 != 0) || (!bitOf e 7 && bitsOf e 10 8 != 0) || (level == 3 && contig) ||
    pteFrame e % 2 ^ pageBits level != 0)) ||
  (mig && (!leaf || level != 0 || contig)) ||
  !s.installed (pteFrame e) || (leaf && !s.installed (pteFrame e + 2 ^ pageBits level - 1))

/-- A valid leaf with CONTIG = 1; a malformed one counts (R387) (DEDUCED, log entry 55). -/
def pteContig (e : Nat) : Bool := bitOf e 0 && bitOf e 1 && bitOf e 5

/-- The sixteen entries of a group form a valid run (R387). -/
def State.runOk (s : State) (level : Nat) (g : List Nat) : Bool :=
  match g with
  | [] => false
  | e0 :: _ =>
    g.all (fun e => pteContig e && !s.pteBad level e && bitsOf e 10 2 == bitsOf e0 10 2) &&
    pteFrame e0 % (16 * 2 ^ pageBits level) == 0 &&
    (List.range g.length).all fun i => pteFrame (g.getD i 0) == pteFrame e0 + i * 2 ^ pageBits level

/-- A page-table entry read from coherent memory by physical address (R388). -/
def State.readPte (s : State) (table idx : Nat) : Nat := Memory.num s.mem (s.physLoc none (table + 8 * idx)) 8

/-- Walk from a table of a level: the leaf entry and its level, or none for a PAGE_FAULT (R383 to R387). -/
def State.walk (s : State) (va : Nat) : Nat → Nat → Option (Nat × Nat)
  | level, table =>
    let idx := bitsOf va (12 + 9 * level + 8) (12 + 9 * level)
    let e := s.readPte table idx
    let group := (List.range 16).map fun i => s.readPte table (idx / 16 * 16 + i)
    if level ≤ 2 && group.any pteContig && !s.runOk level group then none
    else if !bitOf e 0 || s.pteBad level e then none
    else if bitOf e 1 then some (e, level)
    else match level with
      | 0 => none
      | l + 1 => State.walk s va l (pteFrame e)

/-- A cached translation of the page at the ASID's generation (R389). -/
def State.tlbHit (s : State) (va : Nat) : Option (Nat × Nat) :=
  (s.tlb.find? fun t => t.asid == s.hart.sup.asid && t.gen == Sparse.get 0 s.gens s.hart.sup.asid.toNat && t.vpn == va / 4096).map
    fun t => (t.entry, t.level)

/-- The leaf of a translated address: a cached one when caching is on, else the walk's. -/
def State.leaf (s : State) (va : Nat) : Option (Nat × Nat) :=
  match if s.caching then s.tlbHit va else none with
  | some l => some l
  | none => s.walk va 4 (bitsOf s.hart.sup.ptroot.toNat 51 12 * 4096)

/-- The permission bit of a leaf for an access kind (R386). -/
def pteAllows (e : Nat) : AKind → Bool
  | .read => bitOf e 2
  | .write => bitOf e 3
  | .fetch => bitOf e 4

/-- DIEHOME and HOMEDIE of an entry. -/
def pteHome (e : Nat) : Option Nat := if bitOf e 7 then some (bitsOf e 10 8) else none

/-- The frame and home that an access of a line through a level-0 leaf reaches (R397). -/
def State.migrated (s : State) (e line : Nat) : Nat × Option Nat :=
  let m := s.mig.get (Fin.ofNat 64 (bitsOf e 61 56))
  if bitOf e 63 && decide (line < m.pointer) then
    (bitsOf m.new.toNat 51 12 * 4096, if bitOf m.new.toNat 0 then some (bitsOf m.new.toNat 3 1) else none)
  else (pteFrame e, pteHome e)

/-- The place of a translated address under its leaf (R388, R397). -/
def State.leafPlace (s : State) (va e level : Nat) : Place :=
  let off := va % 2 ^ pageBits level
  let (frame, home) := s.migrated e (off / 64 % 64)
  s.physPlace home (bitOf e 6) (frame + off)

/-- The checks of R88 on one element, in their order. -/
def State.probe (s : State) (va : Word) (size align : Nat) (k : AKind) : Except Cause Place :=
  let a := va.toNat
  if bitsOf a 63 57 ≠ (if bitOf a 56 then 127 else 0) then .error (.pageFault k)
  else if a % align ≠ 0 then .error (.misaligned k)
  else if bitOf a 56 then
    match s.windowPlace a size with
    | some p => .ok p
    | none => .error (.windowRange k)
  else match s.leaf a with
    | none => .error (.pageFault k)
    | some (e, level) => if pteAllows e k then .ok (s.leafPlace a e level) else .error (.permission k)

/-- Remember the translation of a page that a successful walk read (R389), when caching is on. -/
def State.cachePage (s : State) (va : Word) : State :=
  if s.caching && !bitOf va.toNat 56 then
    match s.tlbHit va.toNat, s.leaf va.toNat with
    | none, some (e, level) =>
      { s with tlb := { asid := s.hart.sup.asid, gen := Sparse.get 0 s.gens s.hart.sup.asid.toNat, vpn := va.toNat / 4096,
                        entry := e, level := level } :: s.tlb }
    | _, _ => s
  else s

/-! ### Loads and stores -/

/-- Apply what an access does at its slice to memory. -/
def AccessOp.apply (m : List Host.Cell) (loc : Nat) : AccessOp → List Host.Cell
  | .store bytes => Memory.put m loc bytes
  | .nibble high v =>
    let old := (Memory.byte m loc).toNat
    Sparse.set (0 : Byte) m loc (BitVec.ofNat 8 (if high then old % 16 + 16 * v.toNat else old / 16 * 16 + v.toNat))
  | _ => m

/-- The bytes an operation covers. -/
def AccessOp.size : AccessOp → Nat
  | .store bytes => bytes.length
  | .nibble _ _ => 1
  | .load _ n _ => n
  | .amo _ _ _ _ => 8
  | .sync _ _ _ _ _ => 0
  | .vload _ _ n _ => n
  | .vamo _ _ n _ _ _ _ _ => n
  | .fence _ => 0

/-- Read n bytes at a location. -/
def State.loadNum (s : State) (loc n : Nat) : Nat := Memory.num s.mem loc n

/-- An outstanding access of the current hart, with no ordering of its own. -/
def State.newAccess (s : State) (side loc : Nat) (va : Word) (op : AccessOp) : Access :=
  { hart := s.hart.id, side := side, loc := loc, va := va, op := op, release := false, acquire := false, scope := 0, tag := 0, performed := false, value := 0,
    epoch := s.hart.tags.epoch, issuer := s.hart.tags.issuer, ctx := s.hart.sup.ctxid, replay := false, sup := s.hart.level == .sup,
    elem := none, group := 2 * (side - 1), order := s.nextOrder, noc := s.hart.csr.nocclass, sent := false, full := false }

/-- Put an access of a scalar instruction into the hart's queue. -/
def State.enqueue (s : State) (a : Access) : State := { s with accesses := s.accesses ++ [a], nextOrder := s.nextOrder + 1 }

/-- Issue a store, plain or a release at a scope: performed at once, or queued under the relaxed policy (DESIGN CHOICE, log entry 7). -/
def State.storeOp (s : State) (side loc : Nat) (va : Word) (op : AccessOp) (release : Option (BitVec 3)) : State :=
  if s.relaxed then s.enqueue { s.newAccess side loc va op with release := release.isSome, scope := release.getD 0 }
  else { s with mem := op.apply s.mem loc }

/-- Issue a store of the n low bytes of a number. -/
def State.storeNum (s : State) (side loc : Nat) (va : Word) (n x : Nat) (release : Option (BitVec 3)) : State :=
  s.storeOp side loc va (.store (leBytes n x)) release

/-- Accesses of a hart that have not been acknowledged. -/
def State.outstanding (s : State) (id : Nat) : List Access := s.accesses.filter fun a => a.hart == id

/-! ### Traps -/

/-- The function field of an instruction word (R358): fn9, fn, fn2, sub-op or op of its format, else 0 (DEDUCED, log entry 21). -/
def funcField (w : Nat) : Nat :=
  let maj := bitsOf w 7 1
  if w % 2 = 0 then
    if [0x01, 0x02, 0x03, 0x25, 0x34, 0x35].contains maj then bitsOf w 31 23
    else if maj = 0x26 then bitsOf w 12 8
    else if maj = 0x30 then bitsOf w 21 18
    else if [0x56, 0x57, 0x58, 0x5F, 0x78, 0x79].contains maj then bitsOf w 25 20
    else if maj = 0x7A then bitsOf w 24 21
    else if maj = 0x7B then bitsOf w 20 17
    else if maj = 0x7C ∨ maj = 0x7D then bitsOf w 31 30
    else 0
  else if maj = 0x03 then bitsOf w 22 19
  else if maj = 0x14 then bitsOf w 41 38
  else if maj = 0x22 then bitsOf w 48 46
  else if maj = 0x30 then bitsOf w 26 23
  else 0

/-- The word of an instruction, as its encoding gives it. -/
def insnWord (i : Instr) : Nat := match encode i with
  | some (_, w) => w
  | none => 0

/-- The first byte, function field and TRIM of TRAPSTAT (R358); causes 10 and 11 write zero. -/
def trapStat (h : Hart) (c : Cause) (insn : Nat) : Nat :=
  match c with
  | .preempt | .containment => 0
  | _ => insn % 256 + 256 * funcField insn + (if h.csr.vstart.getLsbD 63 then 2 ^ 17 else 0)

/-- Copy registers x8 to x15 of one bank to another. -/
def copyArgs (src dst : Vector Word 32) : Vector Word 32 := Vector.ofFn fun i => if 8 ≤ i.val ∧ i.val < 16 then src.get i else dst.get i

/-- Take a trap (R174): the record, PP, the argument registers, the level and the vector. -/
def Hart.trap (h : Hart) (insn : Nat) (t : Trap) : Hart :=
  { h with
    level := .sup
    pc := h.sup.trapvec
    run := .running
    wait := none
    grant := { h.grant with decided := none }
    sx := if h.level = .app then copyArgs h.x h.sx else h.sx
    sup := { h.sup with
      trapcause := BitVec.ofNat 64 t.cause.code
      trappc := h.pc
      trapval := t.val
      trapelem := t.elem
      trapstat := BitVec.ofNat 64 (trapStat h t.cause insn + (if h.level = .sup then 2 ^ 63 else 0)) } }

/-- The current hart takes a trap at the instruction of its pc. -/
def State.trap (s : State) (insn : Nat) (t : Trap) : State := { s with hart := s.hart.trap insn t }

/-- The trap of an illegal instruction or operand: TRAPVAL is the instruction (Table 14.1). -/
def illegal (c : Cause) (insn : Nat) : Trap := { cause := c, val := BitVec.ofNat 64 insn, elem := 0 }

/-- An instruction raises ILLEGAL_INSTRUCTION. -/
def State.illegalInstruction (s : State) (i : Instr) : State := s.trap (insnWord i) (illegal .illegalInstruction (insnWord i))

/-- An instruction raises ILLEGAL_OPERAND. -/
def State.illegalOperand (s : State) (i : Instr) : State := s.trap (insnWord i) (illegal .illegalOperand (insnWord i))

/-- A scalar access fails: TRAPELEM = 0 (R89, R357). -/
def State.accessTrap (s : State) (i : Instr) (c : Cause) (va : Word) : State := s.trap (insnWord i) { cause := c, val := va, elem := 0 }

/-- An instruction with one legality condition: its effect, or ILLEGAL_OPERAND. -/
def State.guardOperand (s : State) (i : Instr) (ok : Bool) (f : State → State) : State := if ok then f s else s.illegalOperand i

/-- Return from a trap (R176 steps 2 and 3). A pending PREEMPT or notice is taken before the first application instruction (R175, R380). The seed of a trapped
instruction stays only when that instruction runs again (R65). -/
def Hart.trapReturn (h : Hart) : Hart :=
  let toApp := !h.sup.trapstat.getLsbD 63
  let x := if toApp && bitsOf h.sup.trapcause.toNat 7 0 == 9 then (h.x.set 8 (h.sx.get 8)).set 9 (h.sx.get 9) else h.x
  { h with level := if toApp then .app else .sup, pc := h.sup.trappc, x := x, run := .running, wait := none
           seed := if toApp then h.seed.filter fun d => d.pc == h.sup.trappc else h.seed }

/-- The current hart returns from a trap; device steps it held back become due. -/
def State.trapReturn (s : State) : State :=
  let h := s.hart.trapReturn
  ({ s with hart := h }).due
    (if h.level = Level.app then (if h.preempt.isSome then [Due.preempt h.id] else []) ++
      (if s.launch.notices.isEmpty then [] else [Due.noticeDelivery]) else [])

/-! ### Events -/

/-- Append an event record to a queue with room (R168). -/
def EventQueue.push (q : EventQueue) (e : Event) : EventQueue := { q with recs := q.recs ++ [⟨q.seq, e⟩], seq := q.seq + 1 }

/-- A record can be posted at once. -/
def EventQueue.hasRoom (q : EventQueue) : Bool := decide (q.recs.length < 64) && q.stalled.isEmpty && q.held.isNone

/-- Post an event, or stall its producer on a full queue (R171). -/
def EventQueue.post (q : EventQueue) (e : Event) (p : Producer) : EventQueue :=
  if q.hasRoom then q.push e else { q with stalled := q.stalled ++ [⟨e, p⟩] }

/-- A record moves into a free slot: the held kind 5 record first, then that of the producer that stalled first (R171). -/
def EventQueue.refill (q : EventQueue) : EventQueue :=
  if q.recs.length < 64 then
    match q.held, q.stalled with
    | some e, _ => { q.push e with held := none }
    | none, e :: t => { q.push e.ev with stalled := t }
    | none, [] => q
  else q

/-- A grant-change record is held beside a full queue, and a later one updates it (R171). -/
def EventQueue.grantChange (q : EventQueue) (new old : Nat) : EventQueue :=
  let e : Event := { kind := 5, detail := BitVec.ofNat 8 new, payload := BitVec.ofNat 64 old }
  match q.held with
  | some f => { q with held := some { f with detail := e.detail } }
  | none => if q.recs.length < 64 then q.push e else { q with held := some e }

/-- A hart takes events: it is bound, and not frozen, or its record is being replayed (R365). -/
def Hart.takesEvents (h : Hart) : Bool := h.bound && (h.freeze != .frozen || h.ifr.any fun r => decide (0 < r.replayed))

/-- Post an event to a hart (R168), or stall its producer; one for an unbound or frozen hart is dropped (R365). -/
def State.postEvent (s : State) (id : Nat) (e : Event) (p : Producer) : State :=
  s.updHart id fun h => if h.takesEvents then { h with events := h.events.post e p } else h

/-- A producer is stalled on a full queue (R171). -/
def State.isStalled (s : State) (p : Producer) : Bool := s.harts.any fun h => h.events.stalled.any fun x => x.producer == p

/-- The two doublewords of an event record (Table 5.5). -/
def EventRec.dws (e : EventRec) : Nat × Nat :=
  (e.ev.kind.toNat + 256 * e.ev.detail.toNat + 2 ^ 32 * e.seq.toNat, e.ev.payload.toNat)

/-! ### Tags -/

/-- Take the next value of the tag counter (R370): a wrap of the sequence advances the epoch. -/
def Tags.next (t : Tags) : Tags := if t.seq = 0xFFFF then { t with epoch := t.epoch + 1, seq := 0 } else { t with seq := t.seq + 1 }

/-- A tag: the epoch followed by the sequence. -/
def Tags.value (t : Tags) : BitVec 24 := BitVec.ofNat 24 (t.epoch.toNat * 65536 + t.seq.toNat)

/-- The current hart takes n tags. -/
def State.takeTags (s : State) (n : Nat) : State :=
  s.onHart fun h => { h with tags := (List.range n).foldl (fun t _ => t.next) h.tags }

end Sys2Proof.Machine
end

