-- ==== Sys2Proof/Machine/Crypto.lean ====
section
/-! DEFINITION. The algorithms the manual names for images, tokens and copies: SHA-256, ECDSA over P-256 (R427 to R432) and CRC-32C (R407). -/

namespace Sys2Proof.Machine

/-! ### CRC-32C -/

/-- One bit of the reflected CRC-32C. -/
def crcBit (c : BitVec 32) : BitVec 32 := if c.getLsbD 0 then (c >>> 1) ^^^ 0x82F63B78 else c >>> 1

/-- One byte of CRC-32C. -/
def crcByte (c : BitVec 32) (b : Byte) : BitVec 32 :=
  crcBit (crcBit (crcBit (crcBit (crcBit (crcBit (crcBit (crcBit (c ^^^ b.setWidth 32))))))))

/-- CRC-32C of a byte list (R407). -/
def crc32c (l : List Byte) : BitVec 32 := ~~~ (l.foldl crcByte (BitVec.allOnes 32))

/-! ### SHA-256 -/

/-- The round constants of SHA-256. -/
def shaK : List (BitVec 32) :=
  ([0x428a2f98, 0x71374491, 0xb5c0fbcf, 0xe9b5dba5, 0x3956c25b, 0x59f111f1, 0x923f82a4, 0xab1c5ed5] ++
   [0xd807aa98, 0x12835b01, 0x243185be, 0x550c7dc3, 0x72be5d74, 0x80deb1fe, 0x9bdc06a7, 0xc19bf174] ++
   [0xe49b69c1, 0xefbe4786, 0x0fc19dc6, 0x240ca1cc, 0x2de92c6f, 0x4a7484aa, 0x5cb0a9dc, 0x76f988da] ++
   [0x983e5152, 0xa831c66d, 0xb00327c8, 0xbf597fc7, 0xc6e00bf3, 0xd5a79147, 0x06ca6351, 0x14292967] ++
   [0x27b70a85, 0x2e1b2138, 0x4d2c6dfc, 0x53380d13, 0x650a7354, 0x766a0abb, 0x81c2c92e, 0x92722c85] ++
   [0xa2bfe8a1, 0xa81a664b, 0xc24b8b70, 0xc76c51a3, 0xd192e819, 0xd6990624, 0xf40e3585, 0x106aa070] ++
   [0x19a4c116, 0x1e376c08, 0x2748774c, 0x34b0bcb5, 0x391c0cb3, 0x4ed8aa4a, 0x5b9cca4f, 0x682e6ff3] ++
   [0x748f82ee, 0x78a5636f, 0x84c87814, 0x8cc70208, 0x90befffa, 0xa4506ceb, 0xbef9a3f7, 0xc67178f2])

/-- The initial hash value of SHA-256. -/
def shaH : List (BitVec 32) := [0x6a09e667, 0xbb67ae85, 0x3c6ef372, 0xa54ff53a, 0x510e527f, 0x9b05688c, 0x1f83d9ab, 0x5be0cd19]

/-- The schedule word t from the 16 words before it, newest first. -/
def shaNext (w : List (BitVec 32)) : BitVec 32 :=
  let s0 (x : BitVec 32) := x.rotateRight 7 ^^^ x.rotateRight 18 ^^^ (x >>> 3)
  let s1 (x : BitVec 32) := x.rotateRight 17 ^^^ x.rotateRight 19 ^^^ (x >>> 10)
  s1 (w.getD 1 0) + w.getD 6 0 + s0 (w.getD 14 0) + w.getD 15 0

/-- The 64 schedule words of a block, newest first. -/
def shaSchedule (block : List (BitVec 32)) : List (BitVec 32) := (List.range 48).foldl (fun w _ => shaNext w :: w) block.reverse

/-- One round on the eight working words. -/
def shaRound (v : List (BitVec 32)) (kw : BitVec 32 × BitVec 32) : List (BitVec 32) :=
  match v with
  | [a, b, c, d, e, f, g, h] =>
    let t1 := h + (e.rotateRight 6 ^^^ e.rotateRight 11 ^^^ e.rotateRight 25) + ((e &&& f) ^^^ (~~~ e &&& g)) + kw.1 + kw.2
    let t2 := (a.rotateRight 2 ^^^ a.rotateRight 13 ^^^ a.rotateRight 22) + ((a &&& b) ^^^ (a &&& c) ^^^ (b &&& c))
    [t1 + t2, a, b, c, d + t1, e, f, g]
  | v => v

/-- The compression of one block. -/
def shaBlock (h : List (BitVec 32)) (block : List (BitVec 32)) : List (BitVec 32) :=
  let v := (shaK.zip (shaSchedule block).reverse).foldl shaRound h
  (h.zip v).map fun p => p.1 + p.2

/-- Big-endian words of a byte list. -/
def beWords : List Byte → List (BitVec 32)
  | a :: b :: c :: d :: t => (a ++ b ++ c ++ d) :: beWords t
  | _ => []

/-- Cut a list into blocks of 16, given how many. -/
def blocks16 : Nat → List (BitVec 32) → List (List (BitVec 32))
  | 0, _ => []
  | n + 1, l => l.take 16 :: blocks16 n (l.drop 16)

/-- SHA-256 of a byte list, as a big-endian number. -/
def sha256 (m : List Byte) : BitVec 256 :=
  let n := m.length
  let zeros := (119 - n % 64) % 64
  let padded := m ++ [0x80] ++ List.replicate zeros 0 ++ (leBytes 8 (8 * n)).reverse
  BitVec.ofNat 256 (((blocks16 (padded.length / 64) (beWords padded)).foldl shaBlock shaH).foldl (fun a w => a * 2 ^ 32 + w.toNat) 0)

/-! ### P-256 -/

/-- The field prime of P-256. -/
def p256P : Nat := 0xffffffff00000001000000000000000000000000ffffffffffffffffffffffff
/-- The order of its base point. -/
def p256N : Nat := 0xffffffff00000000ffffffffffffffffbce6faada7179e84f3b9cac2fc632551
/-- The coefficient b. -/
def p256B : Nat := 0x5ac635d8aa3a93e7b3ebbd55769886bc651d06b0cc53b0f63bce3c3e27d2604b
/-- The base point. -/
def p256G : Nat × Nat := (0x6b17d1f2e12c4247f8bce6e563a440f277037d812deb33a0f4a13945d898c296, 0x4fe342e2fe1a7f9b8ee7eb4a7c0f9e162bce33576b315ececbb6406837bf51f5)

/-- a^e mod m over the n low bits of e. -/
def powMod (m a e : Nat) : Nat → Nat
  | 0 => 1 % m
  | n + 1 =>
    let r := powMod m (a * a % m) (e / 2) n
    if e % 2 = 1 then r * a % m else r

/-- The inverse modulo a prime. -/
def invMod (m a : Nat) : Nat := powMod m (a % m) (m - 2) 256

/-- A point on the curve. -/
def onCurve (x y : Nat) : Bool := decide (x < p256P) && decide (y < p256P) && y * y % p256P == (x * x % p256P * x + (p256P - 3) * x + p256B) % p256P

/-- Double a point in Jacobian coordinates. -/
def jacDouble (q : Nat × Nat × Nat) : Nat × Nat × Nat :=
  let (x, y, z) := q
  let p := p256P
  let yy := y * y % p
  let s := 4 * x * yy % p
  let zz := z * z % p
  let m := 3 * (x + p - zz) * (x + zz) % p
  let x' := (m * m + 2 * (p - s)) % p
  (x', (m * (s + p - x') + (p - 8 * (yy * yy % p) % p)) % p, 2 * y * z % p)

/-- Add an affine point to a Jacobian one; z = 0 is the point at infinity. -/
def jacAdd (q : Nat × Nat × Nat) (a : Nat × Nat) : Nat × Nat × Nat :=
  let (x, y, z) := q
  let p := p256P
  if z = 0 then (a.1, a.2, 1)
  else
    let zz := z * z % p
    let h := (a.1 * zz + p - x) % p
    let r := (a.2 * (zz * z % p) + p - y) % p
    if h = 0 then (if r = 0 then jacDouble q else (1, 1, 0))
    else
      let hh := h * h % p
      let hhh := h * hh % p
      let v := x * hh % p
      let x' := (r * r + (p - hhh) + 2 * (p - v)) % p
      (x', (r * (v + p - x') + (p - y * hhh % p)) % p, z * h % p)

/-- u1·G + u2·Q over n bits, most significant first. -/
def jacMul2 (u1 u2 : Nat) (q : Nat × Nat) : Nat → Nat × Nat × Nat
  | 0 => (1, 1, 0)
  | n + 1 =>
    let d := 255 - n
    let r := jacDouble (jacMul2 u1 u2 q n)
    let r := if u1.testBit d then jacAdd r p256G else r
    if u2.testBit d then jacAdd r q else r

/-- ECDSA verification of a digest under a public key. -/
def ecdsaVerify (digest : BitVec 256) (qx qy r s : Nat) : Bool :=
  if !onCurve qx qy || r = 0 || s = 0 || p256N ≤ r || p256N ≤ s then false
  else
    let w := invMod p256N s
    let (x, _, z) := jacMul2 (digest.toNat * w % p256N) (r * w % p256N) (qx, qy) 256
    z != 0 && (x * invMod p256P (z * z % p256P) % p256P) % p256N == r

/-- The y of a compressed point with the parity of its prefix, when the prefix is 2 or 3 and the point is on the curve. -/
def decompress (pre x : Nat) : Option (Nat × Nat) :=
  let y := powMod p256P ((x * x % p256P * x + (p256P - 3) * x + p256B) % p256P) ((p256P + 1) / 4) 256
  let y' := if y % 2 = pre % 2 then y else (p256P - y) % p256P
  if (pre = 2 ∨ pre = 3) ∧ onCurve x y' then some (x, y') else none

/-- The big-endian number of a byte list. -/
def beNat (l : List Byte) : Nat := l.foldl (fun a b => a * 256 + b.toNat) 0

/-- The n bytes of a number, big-endian. -/
def beBytes (n x : Nat) : List Byte := (leBytes n x).reverse

end Sys2Proof.Machine
end

