-- ==== Sys2Proof/Machine/Fp.lean ====
section
/-! DEFINITION. Numbers and rounding (R44 to R60, R67): values are exact until one rounding narrows them to a type code of Table 4.4. -/

namespace Sys2Proof.Machine

/-! ### Flags (Table 2.8) -/

/-- A set of FFLAGS bits. -/
abbrev Flags := BitVec 9

/-- Invalid. -/
def fNV : Flags := 1
/-- Division by zero. -/
def fDZ : Flags := 2
/-- Overflow. -/
def fOF : Flags := 4
/-- Underflow. -/
def fUF : Flags := 8
/-- Inexact. -/
def fNX : Flags := 16
/-- Clamped or saturated. -/
def fSAT : Flags := 32
/-- A NaN block scale. -/
def fSN : Flags := 64
/-- A soft maximum of an empty row. -/
def fEMPTY : Flags := 128
/-- A soft-maximum input at or beyond its range. -/
def fOVR : Flags := 256

/-- A flag set when a condition holds. -/
def flagIf (c : Bool) (f : Flags) : Flags := if c then f else 0

/-! ### Type codes (Table 4.4) -/

/-- The bits of a whole element of a type code; a six-bit type counts both planes. -/
def tyBits (t : Nat) : Nat :=
  match t with
  | 0 | 11 | 19 => 32
  | 1 | 2 | 10 | 18 => 16
  | 5 | 6 => 6
  | 7 | 12 => 4
  | 14 | 16 | 17 => 64
  | _ => 8

/-- A floating-point type of Table 2.1. -/
def isFloat (t : Nat) : Bool := t ≤ 7 || t == 14

/-- A signed integer type. -/
def isSigned (t : Nat) : Bool := [8, 10, 11, 12, 15, 16].contains t

/-- An integer type of Table 2.4. -/
def isInt (t : Nat) : Bool := [8, 9, 10, 11, 12, 16, 17, 18, 19].contains t

/-- A six-bit type. -/
def isSix (t : Nat) : Bool := t == 5 || t == 6

/-- The special codes of a format (R44). -/
inductive Specials where
  | ieee
  | nanOnly
  | none
  deriving DecidableEq, Repr

/-- A floating-point format (Table 2.1): exponent bits, fraction bits, bias. -/
structure FpFormat where
  e : Nat
  m : Nat
  bias : Nat
  special : Specials
  deriving DecidableEq, Repr

/-- The format of a floating-point type code. -/
def fpFormat (t : Nat) : FpFormat :=
  match t with
  | 0 => ⟨8, 23, 127, .ieee⟩
  | 1 => ⟨8, 7, 127, .ieee⟩
  | 2 => ⟨5, 10, 15, .ieee⟩
  | 3 => ⟨4, 3, 7, .nanOnly⟩
  | 4 => ⟨5, 2, 15, .ieee⟩
  | 5 => ⟨3, 2, 3, .none⟩
  | 6 => ⟨2, 3, 1, .none⟩
  | 7 => ⟨2, 1, 1, .none⟩
  | _ => ⟨11, 52, 1023, .ieee⟩

/-! ### Exact values -/

/-- A value: a NaN, an infinity, or ±(mant + ε)·2^exp, where ε is 0, or lies strictly between 0 and 1 when `sticky` is set. -/
inductive Num where
  | nan
  | inf (neg : Bool)
  | fin (neg : Bool) (mant : Nat) (exp : Int) (sticky : Bool)
  deriving DecidableEq, Repr

/-- Plus zero. -/
def Num.zero : Num := .fin false 0 0 false

/-- An integer. -/
def Num.ofInt (x : Int) : Num := .fin (decide (x < 0)) x.natAbs 0 false

/-- The sign bit of a value; a NaN has none. -/
def Num.neg? : Num → Bool
  | .nan => false
  | .inf n => n
  | .fin n _ _ _ => n

/-- The value is a NaN. -/
def Num.isNan : Num → Bool
  | .nan => true
  | _ => false

/-- The value is an infinity. -/
def Num.isInf : Num → Bool
  | .inf _ => true
  | _ => false

/-- The value is a zero. -/
def Num.isZero : Num → Bool
  | .fin _ 0 _ false => true
  | _ => false

/-- Change the sign; a NaN stays. -/
def Num.negate : Num → Num
  | .nan => .nan
  | .inf n => .inf (!n)
  | .fin n m e st => .fin (!n) m e st

/-- The magnitude. -/
def Num.abs : Num → Num
  | .nan => .nan
  | .inf _ => .inf false
  | .fin _ m e st => .fin false m e st

/-- Multiply by a power of two. -/
def Num.scale (k : Int) : Num → Num
  | .fin n m e st => .fin n m (e + k) st
  | x => x

/-- Decode a floating-point code (R44, R45). -/
def FpFormat.decode (f : FpFormat) (code : Nat) : Num :=
  let neg := code / 2 ^ (f.e + f.m) % 2 == 1
  let e := code / 2 ^ f.m % 2 ^ f.e
  let m := code % 2 ^ f.m
  let lsb : Int := 1 - (f.bias : Int) - (f.m : Int)
  if f.special = .ieee ∧ e = 2 ^ f.e - 1 then (if m = 0 then .inf neg else .nan)
  else if f.special = .nanOnly ∧ e = 2 ^ f.e - 1 ∧ m = 2 ^ f.m - 1 then .nan
  else if e = 0 then .fin neg m lsb false
  else .fin neg (2 ^ f.m + m) (lsb + ((e : Int) - 1)) false

/-- The two's-complement or unsigned value of an integer code. -/
def intOf (t code : Nat) : Int :=
  let w := tyBits t
  if isSigned t && code % 2 ^ w ≥ 2 ^ (w - 1) then (code % 2 ^ w : Nat) - (2 ^ w : Nat) else (code % 2 ^ w : Nat)

/-- The value of a code of any type (R44, R50, R53, R54). -/
def toNum (t code : Nat) : Num :=
  if isFloat t then (fpFormat t).decode code
  else if t = 13 then (if code % 256 = 255 then .nan else .fin false 1 ((code % 256 : Nat) - 127) false)
  else if t = 15 then (Num.ofInt (intOf 15 code)).scale (-6)
  else Num.ofInt (intOf t code)

/-! ### Rounding (R55 to R60) -/

/-- The rounding modes of Table 2.5 but DYN. -/
inductive RMode where
  | rne
  | rtz
  | rdn
  | rup
  | rna
  | sr
  deriving DecidableEq, Repr

/-- A mode by its code; 6 is DYN and is resolved before. -/
def RMode.ofCode (c : Nat) : RMode :=
  match c with
  | 1 => .rtz
  | 2 => .rdn
  | 3 => .rup
  | 4 => .rna
  | 5 => .sr
  | _ => .rne

/-- The code of a mode. -/
def RMode.code : RMode → Nat
  | .rne => 0
  | .rtz => 1
  | .rdn => 2
  | .rup => 3
  | .rna => 4
  | .sr => 5

/-- A result: its code and the flags its rounding sets. -/
structure Res where
  code : Nat
  flags : Flags
  deriving DecidableEq, Repr

/-- Round a magnitude to a multiple of 2^lsb: the multiple, and whether it is inexact (R56, R60). -/
def roundAt (mode : RMode) (rnd16 : Nat) (neg : Bool) (mant : Nat) (exp : Int) (sticky : Bool) (lsb : Int) : Nat × Bool :=
  let d := lsb - exp
  if d ≤ 0 then
    let kept := mant * 2 ^ (-d).toNat
    let up := match mode with
      | .rdn => neg && sticky
      | .rup => !neg && sticky
      | _ => false
    (if up then kept + 1 else kept, sticky)
  else
    let n := d.toNat
    let kept := mant / 2 ^ n
    let disc := mant % 2 ^ n
    let half := 2 ^ (n - 1)
    let inexact := disc ≠ 0 || sticky
    let up := match mode with
      | .rne => decide (disc > half) || (disc == half && (sticky || kept % 2 == 1))
      | .rtz => false
      | .rdn => neg && inexact
      | .rup => !neg && inexact
      | .rna => decide (disc ≥ half)
      | .sr => decide ((if 16 ≤ n then disc / 2 ^ (n - 16) else disc * 2 ^ (16 - n)) + rnd16 ≥ 65536)
    (if up then kept + 1 else kept, inexact)

/-- The code of a sign in a format. -/
def FpFormat.signBit (f : FpFormat) (neg : Bool) : Nat := if neg then 2 ^ (f.e + f.m) else 0

/-- The code of the largest finite magnitude. -/
def FpFormat.maxCode (f : FpFormat) : Nat :=
  match f.special with
  | .ieee => (2 ^ f.e - 1) * 2 ^ f.m - 1
  | .nanOnly => 2 ^ (f.e + f.m) - 2
  | .none => 2 ^ (f.e + f.m) - 1

/-- The canonical NaN (Table 2.3). -/
def FpFormat.nanCode (f : FpFormat) : Nat :=
  match f.special with
  | .ieee => (2 ^ f.e - 1) * 2 ^ f.m + 2 ^ (f.m - 1)
  | .nanOnly => 2 ^ (f.e + f.m) - 1
  | .none => 0

/-- The code of infinity in an IEEE-like format. -/
def FpFormat.infCode (f : FpFormat) : Nat := (2 ^ f.e - 1) * 2 ^ f.m

/-- An overflowed result (Table 2.6): by the mode, saturating, or infinite under every mode for the matrix steps of R79. -/
def FpFormat.overflow (f : FpFormat) (mode : RMode) (sat ovInf neg : Bool) : Res :=
  let sb := f.signBit neg
  match f.special with
  | .none => ⟨sb + f.maxCode, fSAT ||| fNX⟩
  | .nanOnly => if sat then ⟨sb + f.maxCode, fSAT ||| fNX⟩ else ⟨f.nanCode, fOF ||| fNX⟩
  | .ieee =>
    if sat then ⟨sb + f.maxCode, fSAT ||| fNX⟩
    else
      let toMax := !ovInf && (match mode with
        | .rtz => true
        | .rdn => !neg
        | .rup => neg
        | _ => false)
      ⟨sb + (if toMax then f.maxCode else f.infCode), fOF ||| fNX⟩

/-- Round a value to a floating-point format (R55, R58). -/
def FpFormat.round (f : FpFormat) (mode : RMode) (sat ovInf : Bool) (rnd16 : Nat) (x : Num) : Res :=
  match x with
  | .nan => if f.special = .none then ⟨0, fNV⟩ else ⟨f.nanCode, 0⟩
  | .inf neg =>
    let sb := f.signBit neg
    match f.special with
    | .none => ⟨sb + f.maxCode, fSAT⟩
    | .nanOnly => if sat then ⟨sb + f.maxCode, fSAT⟩ else ⟨f.nanCode, fNV⟩
    | .ieee => if sat then ⟨sb + f.maxCode, fSAT⟩ else ⟨sb + f.infCode, 0⟩
  | .fin neg mant exp sticky =>
    if mant = 0 ∧ sticky = false then ⟨f.signBit neg, 0⟩
    else
      let msb : Int := (Nat.log2 mant : Int) + exp
      let low : Int := 1 - (f.bias : Int) - (f.m : Int)
      let free : Int := msb - (f.m : Int)
      let lsb : Int := if free < low then low else free
      let (kept, inexact) := roundAt mode rnd16 neg mant exp sticky lsb
      let code := kept + (lsb - low).toNat * 2 ^ f.m
      if code > f.maxCode then f.overflow mode sat ovInf neg
      else
        let (wide, _) := roundAt mode rnd16 neg mant exp sticky free
        let tiny := inexact && decide ((Nat.log2 wide : Int) + free < low + (f.m : Int))
        ⟨f.signBit neg + code, flagIf inexact fNX ||| flagIf tiny fUF⟩

/-- The least value of an integer type (Table 2.4). -/
def intMin (t : Nat) : Int := if isSigned t then -(2 ^ (tyBits t - 1) : Nat) else 0

/-- The greatest value of an integer type. -/
def intMax (t : Nat) : Int := if isSigned t then (2 ^ (tyBits t - 1) : Nat) - 1 else (2 ^ tyBits t : Nat) - 1

/-- The code of an integer of a type. -/
def intCode (t : Nat) (x : Int) : Nat := (x % (2 ^ tyBits t : Nat)).toNat

/-- Clamp an integer to a type's range; the flag says that it was clamped. -/
def clampInt (t : Nat) (x : Int) : Int × Bool :=
  if x < intMin t then (intMin t, true) else if intMax t < x then (intMax t, true) else (x, false)

/-- Round a value to an integer type (R59); `fp` says that the source is floating point. -/
def toIntRes (t : Nat) (mode : RMode) (rnd16 : Nat) (fp : Bool) (x : Num) : Res :=
  match x with
  | .nan => ⟨0, fNV⟩
  | .inf neg => ⟨intCode t (if neg then intMin t else intMax t), fSAT⟩
  | .fin neg mant exp sticky =>
    let (k, inexact) := roundAt mode rnd16 neg mant exp sticky 0
    let (v, clamped) := clampInt t (if neg then -(k : Int) else k)
    ⟨intCode t v, flagIf clamped fSAT ||| flagIf (fp && (inexact || clamped)) fNX⟩

/-- Convert to E8M0 (R51). -/
def toE8m0 (x : Num) : Res :=
  match x with
  | .nan | .inf _ => ⟨255, fNV⟩
  | .fin _ mant exp _ =>
    if mant = 0 then ⟨0, fSAT⟩
    else
      let e : Int := (Nat.log2 mant : Int) + exp + 127
      if e < 0 then ⟨0, fSAT⟩ else if 254 < e then ⟨254, fSAT⟩ else ⟨e.toNat, 0⟩

/-- Deliver a value to any type (Table 2.6); `fp` says that the source is floating point. -/
def deliver (t : Nat) (mode : RMode) (sat fp : Bool) (rnd16 : Nat) (x : Num) : Res :=
  if isFloat t then (fpFormat t).round mode sat false rnd16 x
  else if t = 13 then toE8m0 x
  else if t = 15 then toIntRes 15 mode rnd16 fp (x.scale 6)
  else toIntRes t mode rnd16 fp x

/-! ### Exact arithmetic -/

/-- The signed mantissas of two finite values at one exponent. -/
def alignNums (na : Bool) (ma : Nat) (ea : Int) (nb : Bool) (mb : Nat) (eb : Int) : Int × Int × Int :=
  let e := if ea < eb then ea else eb
  let a : Int := ma * (2 ^ (ea - e).toNat : Nat)
  let b : Int := mb * (2 ^ (eb - e).toNat : Nat)
  (if na then -a else a, if nb then -b else b, e)

/-- The exact sum and whether it is invalid; an exact zero of opposite signs is +0, or -0 under RDN (R47, R49). -/
def addNum (rdn : Bool) (a b : Num) : Num × Bool :=
  match a, b with
  | .nan, _ | _, .nan => (.nan, false)
  | .inf x, .inf y => if x = y then (.inf x, false) else (.nan, true)
  | .inf x, _ | _, .inf x => (.inf x, false)
  | .fin na ma ea sa, .fin nb mb eb sb =>
    if ma = 0 ∧ mb = 0 then (.fin (if na = nb then na else rdn) 0 0 false, false)
    else if mb = 0 then (.fin na ma ea sa, false)
    else if ma = 0 then (.fin nb mb eb sb, false)
    else
      let (x, y, e) := alignNums na ma ea nb mb eb
      let s := x + y
      if s = 0 then (.fin rdn 0 0 false, false) else (.fin (decide (s < 0)) s.natAbs e (sa || sb), false)

/-- The exact product and whether it is invalid. -/
def mulNum (a b : Num) : Num × Bool :=
  match a, b with
  | .nan, _ | _, .nan => (.nan, false)
  | .inf x, y => if y.isZero then (.nan, true) else (.inf (x != y.neg?), false)
  | x, .inf y => if x.isZero then (.nan, true) else (.inf (x.neg? != y), false)
  | .fin na ma ea _, .fin nb mb eb _ => (.fin (na != nb) (ma * mb) (ea + eb) false, false)

/-- The exact a·b + c and whether it is invalid: 0·∞ is, even when c is NaN (R155). -/
def fmaNum (rdn : Bool) (a b c : Num) : Num × Bool :=
  let (p, bad) := mulNum a b
  if bad then (.nan, true) else addNum rdn p c

/-- The quotient to 140 bits and a sticky remainder, with its flags (R49, R151). -/
def divNum (a b : Num) : Num × Flags :=
  let n := a.neg? != b.neg?
  match a, b with
  | .nan, _ | _, .nan => (.nan, 0)
  | .inf _, .inf _ => (.nan, fNV)
  | .inf _, _ => (.inf n, 0)
  | _, .inf _ => (.fin n 0 0 false, 0)
  | .fin _ ma ea _, .fin _ mb eb _ =>
    if mb = 0 then (if ma = 0 then (.nan, fNV) else (.inf n, fDZ))
    else if ma = 0 then (.fin n 0 0 false, 0)
    else
      let k := 140 + Nat.log2 mb
      let q := ma * 2 ^ k / mb
      (.fin n q (ea - eb - k) (ma * 2 ^ k % mb != 0), 0)

/-- The integer square root, bit by bit from bit n - 1 down. -/
def isqrt : Nat → Nat → Nat → Nat
  | 0, _, r => r
  | n + 1, x, r => isqrt n x (if (r + 2 ^ n) * (r + 2 ^ n) ≤ x then r + 2 ^ n else r)

/-- The square root to 100 bits or more and a sticky remainder, with its flags (R49, R151). -/
def sqrtNum (a : Num) : Num × Flags :=
  match a with
  | .nan => (.nan, 0)
  | .inf neg => if neg then (.nan, fNV) else (.inf false, 0)
  | .fin neg m e _ =>
    if m = 0 then (.fin neg 0 0 false, 0)
    else if neg then (.nan, fNV)
    else
      let k := 200 + (e % 2).natAbs
      let x := m * 2 ^ k
      let r := isqrt (Nat.log2 x / 2 + 1) x 0
      (.fin false r ((e - k) / 2) (r * r != x), 0)

/-- Compare two values that are not NaN, with -0 equal to +0: less, equal or greater. -/
def cmpNum (a b : Num) : Ordering :=
  match a, b with
  | .inf x, .inf y => if x = y then .eq else if x then .lt else .gt
  | .inf x, _ => if x then .lt else .gt
  | _, .inf y => if y then .gt else .lt
  | .fin na ma ea _, .fin nb mb eb _ =>
    let (x, y, _) := alignNums na ma ea nb mb eb
    if x < y then .lt else if x = y then .eq else .gt
  | _, _ => .eq

/-- a < b with -0 < +0, for values that are not NaN (Table 5.2). -/
def numLess (a b : Num) : Bool :=
  match cmpNum a b with
  | .lt => true
  | .eq => a.isZero && a.neg? && !b.neg?
  | .gt => false

/-- The smaller or larger operand code; one NaN gives the other operand, two the canonical NaN (Table 5.2). -/
def minMaxCode (t : Nat) (max : Bool) (ca cb : Nat) : Nat :=
  let a := toNum t ca
  let b := toNum t cb
  if a.isNan && b.isNan then (fpFormat t).nanCode
  else if a.isNan then cb
  else if b.isNan then ca
  else if numLess a b != max then ca
  else if numLess b a != max then cb
  else ca

/-- The condition of Table 4.5 between two values (R152). -/
def condNum (cond : Nat) (a b : Num) : Bool :=
  let un := a.isNan || b.isNan
  let o := cmpNum a b
  match cond with
  | 0 => !un && o == .eq
  | 1 => un || o != .eq
  | 2 => !un && o == .lt
  | 3 => !un && o != .gt
  | 4 => !un && o == .gt
  | 5 => !un && o != .lt
  | 6 => !un
  | _ => un

/-- The operations of Table 5.2 that round once: op 0 add, 1 subtract, 2 multiply, 3 divide. -/
def arithRes (t op : Nat) (mode : RMode) (rnd16 : Nat) (ca cb : Nat) : Res :=
  let a := toNum t ca
  let b := toNum t cb
  let (x, fl) : Num × Flags :=
    match op with
    | 0 => let (v, bad) := addNum (mode = .rdn) a b; (v, flagIf bad fNV)
    | 1 => let (v, bad) := addNum (mode = .rdn) a b.negate; (v, flagIf bad fNV)
    | 2 => let (v, bad) := mulNum a b; (v, flagIf bad fNV)
    | _ => divNum a b
  let r := (fpFormat t).round mode false false rnd16 x
  ⟨r.code, r.flags ||| fl⟩

/-- The rounded square root. -/
def sqrtRes (t : Nat) (mode : RMode) (rnd16 : Nat) (ca : Nat) : Res :=
  let (x, fl) := sqrtNum (toNum t ca)
  let r := (fpFormat t).round mode false false rnd16 x
  ⟨r.code, r.flags ||| fl⟩

/-- a·b + c rounded once (R74); the sign changes of VFMS and VFNMA are the caller's. -/
def fmaRes (t : Nat) (mode : RMode) (rnd16 : Nat) (a b c : Num) : Res :=
  let (x, bad) := fmaNum (mode = .rdn) a b c
  let r := (fpFormat t).round mode false false rnd16 x
  ⟨r.code, r.flags ||| flagIf bad fNV⟩

/-- A conversion between two types (R205, R59); `sat` as the instruction's field. -/
def convertRes (src dst : Nat) (mode : RMode) (sat : Bool) (rnd16 : Nat) (code : Nat) : Res :=
  deliver dst mode sat (isFloat src || src == 13 || src == 15) rnd16 (toNum src code)

/-- Every value of the source type is a value of the target type (R59): such a conversion draws no seed. -/
def convExact (src dst : Nat) : Bool :=
  if isFloat src && isFloat dst then
    let a := fpFormat src
    let b := fpFormat dst
    src == dst || (a.m ≤ b.m && (b.special == .ieee || a.special != .ieee) && (b.special != .none || a.special == .none) &&
      decide ((a.bias : Int) + a.m ≤ (b.bias : Int) + b.m) &&
      decide (((2 ^ a.e - 1 : Nat) : Int) - a.bias - (if a.special = .ieee then 1 else 0) ≤ ((2 ^ b.e - 1 : Nat) : Int) - b.bias - (if b.special = .ieee then 1 else 0)))
  else if isInt src && isFloat dst then decide (tyBits src - (if isSigned src then 1 else 0) ≤ (fpFormat dst).m + 1 ∧
    tyBits src ≤ (2 ^ (fpFormat dst).e - 1) - (fpFormat dst).bias)
  else if src == 13 && isFloat dst then decide (127 ≤ (fpFormat dst).bias)
  else false

/-- The class mask of FCLASS (R154). -/
def classMask (t code : Nat) : Nat :=
  let f := fpFormat t
  let low : Int := 1 - (f.bias : Int) - f.m
  match toNum t code with
  | .nan => 256
  | .inf n => if n then 1 else 128
  | .fin n m e _ =>
    if m = 0 then (if n then 8 else 16)
    else if e = low ∧ m < 2 ^ f.m then (if n then 4 else 32)
    else if n then 2 else 64

/-! ### mix64 (R67) -/

/-- The rotation counts of mix64. -/
def mixK : List Nat := [17, 31, 45, 11, 53, 23]

/-- The counter-based generator. -/
def mix64 (key stream ctr : Word) : Word :=
  let (a, b) := mixK.foldl (fun (p : Word × Word) k =>
    let a := p.1 + p.2
    let b := p.2.rotateLeft k ^^^ a
    (a * 0xD6E8FEB86659FD93, b)) (ctr ^^^ key, stream ^^^ 0x6A09E667F3BCC909)
  a ^^^ (b >>> 29)

end Sys2Proof.Machine
end

