-- ==== Sys2Proof/Machine/Aes.lean ====
section
/-! DEFINITION. Encryption and integrity of main memory (R442, R443): AES-256 in counter mode, and the tag of AES-256-GMAC. Blocks, keys and IVs are numbers whose
highest byte comes first (DEDUCED, log entry 69). -/

namespace Sys2Proof.Machine

/-! ### AES-256 -/

/-- The S-box of AES, entry x in byte x. -/
def aesBox : Nat :=
  0x75b227ebe28012079a059618c323c7041531d871f1e5a534ccf73f362693fdb7c072a49cafa2d4adf04759fa7dc982ca76abd7fe2b670130c56f6bf27b777c63 +
  0xd2f3ff1021dab6bcf5389d928f40a351a89f3c507f02f94585334d43fbaaefd0cf584c4a39becb6a5bb1fc20ed00d153842fe329b3d63b52a05a6e1b1a2c8309 * 2 ^ 512 +
  0x8ae7a65eaf4566ca94ed58d6d37c8e779e4959162acd3c25c2406490a3a32e0db0b5ede14b8ee4688902a22dc4f816073195d643d7ea7c41744975fec130ccd * 2 ^ 1024 +
  0x16bb54b00f2d99416842e6bf0d89a18cdf2855cee9871e9b948ed9691198f8e19e1dc186b95735610ef6034866b53e708a8bbd4b1f74dde8c6b4a61c2e2578ba * 2 ^ 1536

/-- One byte through the S-box. -/
def aesSub (x : Nat) : Nat := aesBox / 2 ^ (8 * x) % 256

/-- Multiply by x in AES's field. -/
def aesTwice (x : Nat) : Nat := if x < 128 then 2 * x else (2 * x - 256) ^^^ 0x1B

/-- One column through MixColumns. -/
def aesColumn (a b c d : Nat) : List Nat :=
  let t := a ^^^ b ^^^ c ^^^ d
  [a ^^^ t ^^^ aesTwice (a ^^^ b), b ^^^ t ^^^ aesTwice (b ^^^ c), c ^^^ t ^^^ aesTwice (c ^^^ d), d ^^^ t ^^^ aesTwice (d ^^^ a)]

/-- MixColumns on the 16 bytes of the state, column after column. -/
def aesMix : List Nat → List Nat
  | a :: b :: c :: d :: t => aesColumn a b c d ++ aesMix t
  | _ => []

/-- ShiftRows. -/
def aesShift (l : List Nat) : List Nat := (List.range 16).map fun i => l.getD ((i + 4 * (i % 4)) % 16) 0

/-- The four bytes of a word, the highest first. -/
def wordBytes (w : Nat) : List Nat := [w / 2 ^ 24 % 256, w / 2 ^ 16 % 256, w / 2 ^ 8 % 256, w % 256]

/-- SubWord of the key schedule. -/
def aesSubWord (w : Nat) : Nat := aesSub (w / 2 ^ 24 % 256) * 2 ^ 24 + aesSub (w / 2 ^ 16 % 256) * 2 ^ 16 + aesSub (w / 2 ^ 8 % 256) * 2 ^ 8 + aesSub (w % 256)

/-- Word i of the key schedule from the eight before it, newest first; rc is the round constant. -/
def aesNextWord (i rc : Nat) (w : List Nat) : Nat :=
  let t := w.getD 0 0
  w.getD 7 0 ^^^ if i % 8 = 0 then aesSubWord (t % 2 ^ 24 * 256 + t / 2 ^ 24) ^^^ (rc * 2 ^ 24) else if i % 8 = 4 then aesSubWord t else t

/-- n more words of the key schedule from word i on, newest first. -/
def aesWords : Nat → Nat → Nat → List Nat → List Nat
  | 0, _, _, w => w
  | n + 1, i, rc, w => aesWords n (i + 1) (if i % 8 = 0 then aesTwice rc else rc) (aesNextWord i rc w :: w)

/-- The 60 words of a key's schedule. -/
def aesSchedule (key : BitVec 256) : List Nat := (aesWords 52 8 1 ((List.range 8).map fun i => key.toNat / 2 ^ (32 * i) % 2 ^ 32)).reverse

/-- Add the round key of round r. -/
def aesAddKey (ks : List Nat) (r : Nat) (l : List Nat) : List Nat := List.zipWith (· ^^^ ·) l (((ks.drop (4 * r)).take 4).flatMap wordBytes)

/-- The rounds from round r on, n of them with MixColumns and the last without. -/
def aesRounds (ks : List Nat) : Nat → Nat → List Nat → List Nat
  | 0, r, l => aesAddKey ks r (aesShift (l.map aesSub))
  | n + 1, r, l => aesRounds ks n (r + 1) (aesAddKey ks r (aesMix (aesShift (l.map aesSub))))

/-- AES-256 on one block, under a key schedule. -/
def aesBlock (ks : List Nat) (x : BitVec 128) : BitVec 128 :=
  BitVec.ofNat 128 ((aesRounds ks 13 1 (aesAddKey ks 0 ((List.range 16).map fun i => x.toNat / 2 ^ (120 - 8 * i) % 256))).foldl (fun a b => a * 256 + b) 0)

/-! ### Counter mode (R442) -/

/-- The IV of Table 19.2. -/
def lineIv (line : Nat) (major : Word) (minor block : Nat) : BitVec 128 :=
  BitVec.ofNat 128 (line % 2 ^ 46 * 2 ^ 82 + major.toNat * 2 ^ 18 + minor % 128 * 2 ^ 11 + block % 4 * 2 ^ 9)

/-- The 64 bytes that a line's data is XORed with: block i is the encrypted IV, its first byte at offset 16·i. -/
def lineKeystream (enc : BitVec 256) (line : Nat) (major : Word) (minor : Nat) : List Byte :=
  let ks := aesSchedule enc
  (List.range 4).flatMap fun i => (leBytes 16 (aesBlock ks (lineIv line major minor i)).toNat).reverse

/-- Encrypt or decrypt a line. -/
def lineCrypt (enc : BitVec 256) (line : Nat) (major : Word) (minor : Nat) (data : List Byte) : List Byte :=
  List.zipWith (· ^^^ ·) data (lineKeystream enc line major minor)

/-! ### GMAC (R443) -/

/-- Multiply in GHASH's field: n steps of the product of x, its highest bit first, and v. -/
def ghashMul (x : BitVec 128) : Nat → BitVec 128 → BitVec 128 → BitVec 128
  | 0, _, z => z
  | n + 1, v, z => ghashMul x n (if v.getLsbD 0 then (v >>> 1) ^^^ (0xE1 <<< 120) else v >>> 1) (if x.getLsbD n then z ^^^ v else z)

/-- GHASH of a list of blocks. -/
def ghash (h : BitVec 128) (l : List (BitVec 128)) : BitVec 128 := l.foldl (fun y b => ghashMul (y ^^^ b) 128 h 0) 0

/-- A block of 16 bytes, the first the highest. -/
def blockOf (l : List Byte) : BitVec 128 := BitVec.ofNat 128 (l.foldl (fun a b => a * 256 + b.toNat) 0)

/-- The upper 56 bits of AES-256-GMAC over additional data of a number of bits and a text of 64 bytes. A nonce of 128 bits enters GHASH as its own block and the block of
its length. -/
def gmac (integ : BitVec 256) (nonce : BitVec 128) (aad : List (BitVec 128)) (bits : Nat) (text : List Byte) : BitVec 56 :=
  let ks := aesSchedule integ
  let h := aesBlock ks 0
  let blocks := (List.range 4).map fun i => blockOf ((text.drop (16 * i)).take 16)
  ((ghash h (aad ++ blocks ++ [BitVec.ofNat 128 (bits * 2 ^ 64 + 512)])) ^^^ aesBlock ks (ghash h [nonce, 128])).extractLsb' 72 56

/-- A line's tag: its nonce the IV with BLOCK = 0, its additional data the 117 bits of LINE, MAJOR and MINOR (DEDUCED, log entry 69), its text the ciphertext. -/
def lineTag (integ : BitVec 256) (line : Nat) (major : Word) (minor : Nat) (cipher : List Byte) : BitVec 56 :=
  gmac integ (lineIv line major minor 0) [lineIv line major minor 0] 117 cipher

end Sys2Proof.Machine
end

