-- ==== Sys2Proof/Machine/Hbm.lean ====
section
/-! DEFINITION. Main memory (R435 to R453): the controllers' batches, the counter blocks and trees, key slots and regions, the patrol and
the error history. -/

namespace Sys2Proof.Machine

/-- Change main memory's state. -/
def State.setHbm (s : State) (f : Hbm → Hbm) : State := { s with hbm := f s.hbm }

/-- A stack's controller. -/
def State.stack (s : State) (k : Nat) : Stack := s.hbm.ctls.get (Fin.ofNat 16 k)

/-- Change a stack's controller. -/
def State.updStack (s : State) (k : Nat) (f : Stack → Stack) : State :=
  s.setHbm fun h => { h with ctls := h.ctls.set (Fin.ofNat 16 k).val (f (h.ctls.get (Fin.ofNat 16 k))) (Fin.ofNat 16 k).isLt }

/-! ### Where a line lies (R83, R435) -/

/-- The physical line of a line number: a location by 64, in which a die-home frame has its home above bit 45 (R83). -/
def linePa (l : Nat) : Nat := l % 2 ^ 46

/-- The home die of a line of a die-home frame. -/
def lineHome (l : Nat) : Option Nat := if 2 ^ 54 ≤ l then some ((l - 2 ^ 54) / 2 ^ 46 % 8) else none

/-- The line number of a physical line, of a die-home frame or not. -/
def lineAt (home : Option Nat) (pa : Nat) : Nat := match home with
  | some d => 2 ^ 54 + d * 2 ^ 46 + pa
  | none => pa

/-- The stack of a line (R83): PA[15:12], or for a die-home frame one of the two of its home, by PA[12]. -/
def lineStack (l : Nat) : Nat := match lineHome l with
  | some d => 2 * d + linePa l / 64 % 2
  | none => linePa l / 64 % 16

/-- The pseudo-channel of a line in its stack (R435). -/
def lineChannel (l : Nat) : Nat := Config.lineChannel l % 384

/-- The bank of a line in its pseudo-channel (R435): four to each of the 4 bank groups. -/
def lineBank (l : Nat) : Nat := Config.lineBank l % 16

/-- The lines that ranges (start, length) of one write cover wholly (R449). -/
def fullLines (l : List (Nat × Nat)) : List Nat :=
  if l.foldl (fun n p => n + p.2) 0 < 64 then []
  else ((l.map fun p => p.1 / 64).eraseDups).filter fun line =>
    (List.range 64).all fun k => l.any fun p => decide (p.1 ≤ 64 * line + k) && decide (64 * line + k < p.1 + p.2)

/-! ### Error history (R453, R456) -/

/-- HEALTH.STATE becomes REPLACE_REQUESTED with a cause bit. -/
def State.requestReplace (s : State) (bit : Nat) : State :=
  { s with mgmt := { s.mgmt with health := 2, cause := s.mgmt.cause ||| ((1 : BitVec 8) <<< bit) } }

/-- Write an entry of the error history at NEXT, on a line (Table 19.5). -/
def State.logError (s : State) (kind detect line ctx version : Nat) : State :=
  let e : BitVec 256 := BitVec.ofNat 256 (kind + 2 ^ 8 * lineStack line + 2 ^ 16 * lineChannel line + 2 ^ 25 * detect + 2 ^ 64 * (linePa line * 64) + 2 ^ 128 * (s.now % 2 ^ 64) +
    2 ^ 192 * ctx + 2 ^ 224 * version)
  s.setHbm fun h => { h with errlog := Sparse.set 0 h.errlog h.errNext.toNat e, errNext := h.errNext + 1, errTotal := h.errTotal + 1 }

/-- A corrected error: CORR advances, and the rolling hour is tested (R456). -/
def State.countCorrected (s : State) : State :=
  let times := (s.mgmt.corrTimes ++ [s.now]).filter fun t => decide (s.now - t < 3600000000)
  let s1 := { s with mgmt := { s.mgmt with corrTimes := times }, hbm := { s.hbm with corr := s.hbm.corr + 1 } }
  if s.mgmt.corrph ≠ 0 ∧ s.mgmt.corrph.toNat < times.length then s1.requestReplace 7 else s1

/-- An uncorrectable error: UNCORR advances, and the last 24 hours are tested (R456). -/
def State.countUncorrectable (s : State) : State :=
  let times := (s.mgmt.uncorrTimes ++ [s.now]).filter fun t => decide (s.now - t < 86400000000)
  let s1 := { s with mgmt := { s.mgmt with uncorrTimes := times }, hbm := { s.hbm with uncorr := s.hbm.uncorr + 1 } }
  if s.mgmt.uncorrpd.toNat < times.length then s1.requestReplace 7 else s1

/-! ### Key slots and regions (R446, R447, R451) -/

/-- Lines of a 2 MiB region. -/
def regionLines : Nat := 32768

/-- The number of regions. -/
def regionCount : Nat := 524288

/-- The key version that a region holds. -/
def Hbm.regionVersion (h : Hbm) (r : Nat) : BitVec 32 := Sparse.get h.regionBase h.regions r

/-- A region holds NEXT. -/
def Hbm.holdsNext (h : Hbm) (r : Nat) : Bool := h.regionVersion r == h.keyver + 1

/-- Some region holds a version. -/
def Hbm.versionUsed (h : Hbm) (v : BitVec 32) : Bool := (h.regionBase == v && decide (h.regions.length < regionCount)) || h.regions.any fun p => p.2 == v

/-- The key version that a line's region holds. -/
def Hbm.lineVersion (h : Hbm) (l : Nat) : Nat := (h.regionVersion (linePa l / regionLines)).toNat

/-- The counter blocks of pages but those that a test drops. -/
def Hbm.dropBlocks (h : Hbm) (drop : Nat → Bool) : Hbm := { h with blocks := h.blocks.filter fun p => !drop p.1 }

/-- A counter block after a reset of its region. -/
def CtrBlock.zero : CtrBlock := ⟨0, []⟩

/-- Poison a line (R449). -/
def Hbm.poisonLine (h : Hbm) (line : Nat) : Hbm := { h with poison := Sparse.set 0 h.poison line 1 }

/-- The keys of a version: that of CUR, NEXT, OLD1 or OLD2 (R446). -/
def Hbm.keysOf (h : Hbm) (v : BitVec 32) : Option KeyPair :=
  if v = h.keyver then h.keyCur else if v = h.keyver + 1 then h.keyNext else if v = h.keyver - 1 then h.keyOld1 else if v = h.keyver - 2 then h.keyOld2 else none

/-- The keys under which a line is stored: those of the version that its region holds (R442, R447). -/
def Hbm.lineKeys (h : Hbm) (l : Nat) : Option KeyPair := h.keysOf (h.regionVersion (linePa l / regionLines))

/-- A line's counters: its page's MAJOR and its own MINOR (R444). -/
def Hbm.lineCounters (h : Hbm) (l : Nat) : Word × Nat :=
  let b := Sparse.get CtrBlock.zero h.blocks (l / 64)
  (b.major, Sparse.get 0 b.minors (l % 64))

/-- Encrypt and tag the bytes of a line (R442, R443); without keys nothing is stored. -/
def Hbm.sealLine (h : Hbm) (l : Nat) (plain : List Byte) : Option StoredLine :=
  (h.lineKeys l).map fun k =>
    let c := h.lineCounters l
    let x := lineCrypt k.enc (linePa l) c.1 c.2 plain
    ⟨x, lineTag k.integ (linePa l) c.1 c.2 x⟩

/-- The cells of a line: those that a controller has written, or its zeros of the fill, encrypted and tagged (R433, R442). -/
def Hbm.cells (h : Hbm) (l : Nat) : Option StoredLine := match Sparse.get none h.stored l with
  | some x => some x
  | none => h.sealLine l (List.replicate 64 0)

/-- Decrypt a stored line. -/
def Hbm.openLine (h : Hbm) (l : Nat) (x : StoredLine) : Option (List Byte) :=
  (h.lineKeys l).map fun k => lineCrypt k.enc (linePa l) (h.lineCounters l).1 (h.lineCounters l).2 x.cipher

/-- The tag of a line matches its cells (R443). -/
def Hbm.tagGood (h : Hbm) (l : Nat) : Bool := match Sparse.get none h.stored l with
  | some x => (h.lineKeys l).any fun k => lineTag k.integ (linePa l) (h.lineCounters l).1 (h.lineCounters l).2 x.cipher == x.tag
  | none => true

/-- Lines are encrypted and tagged anew as keys and counters change (R444, R448): the listed ones here, while the cells of an unlisted line follow its keys and counters. -/
def Hbm.reseal (old new : Hbm) (lines : Nat → Bool) : Hbm :=
  { new with stored := new.stored.filterMap fun p =>
      if lines p.1 then ((p.2.bind (old.openLine p.1)).bind (new.sealLine p.1)).map fun x => (p.1, some x) else some p }

/-- The regions that a node of a level covers in which a region lies, first and number; pages of a stack lie a stride apart (Table 19.3). -/
def nodeSpan (stride level r : Nat) : Nat × Nat :=
  let n := max 1 (8 ^ level * stride / 512)
  (r / n * n, n)

/-- The key of a node's version. -/
def nodeKey (stride level first : Nat) : Nat := (stride * 8 + level) * 2 ^ 20 + first

/-! ### Counter blocks and trees (R444, R445, R450) -/

/-- Pages of a stack lie this far apart: 16, or 2 for the frames of a home die (R83). -/
def pageStride (page : Nat) : Nat := if (lineHome (page * 64)).isSome then 2 else 16

/-- The stack of a page and its index there (R83). -/
def pageStack (page : Nat) : Nat × Nat := (lineStack (page * 64), linePa (page * 64) / 64 / pageStride page)

/-- The tree of a page: that of its stack, or the one that the die-home frames of the stack have (DESIGN CHOICE, log entry 14). -/
def pageTree (page : Nat) : Nat := 2 * (pageStack page).1 + (if (lineHome (page * 64)).isSome then 1 else 0)

/-- The key of a tree counter: the parent's counter for the child of a level on the path of a page, 0 the counter block, 7 a child of the root. -/
def treeKey (page level : Nat) : Nat := (pageTree page * 8 + level) * 2 ^ 28 + (pageStack page).2 / 8 ^ level

/-- The tree counters on the path of a page. -/
def treePath (page : Nat) : List Nat := (List.range 8).map (treeKey page)

/-- The pages that the counter block (level 0) or the node of a level on the path of a page covers (Table 19.3). -/
def nodePages (page level : Nat) : List Nat :=
  let stride := pageStride page
  let pa := linePa (page * 64) / 64
  (List.range (8 ^ level)).map fun i => lineAt (lineHome (page * 64)) ((((pageStack page).2 / 8 ^ level * 8 ^ level + i) * stride + pa % stride) * 64) / 64

/-- The key version of a counter block's tag, that of its region (R447), or of the tag of the node of a level on its path (R445). -/
def Hbm.nodeVersion (h : Hbm) (page level : Nat) : BitVec 32 :=
  let r := linePa (page * 64) / regionLines
  if level = 0 then h.regionVersion r else Sparse.get h.regionBase h.nodes (nodeKey (pageStride page) level (nodeSpan (pageStride page) level r).1)

/-- The regions that the counter block (level 0) or the node of a level on the path of a page covers, those of the whole stack for the root (level 8). -/
def treeRegions (page level : Nat) : List Nat :=
  let first := (pageStack page).2 / 8 ^ level * 8 ^ level * pageStride page / 512
  (List.range (max 1 (8 ^ level * pageStride page / 512))).map (first + ·)

/-- The 64 bytes of a counter block (R444): MAJOR, then the minor counter of line l from bit 64 + 7·l on. -/
def CtrBlock.bits (b : CtrBlock) : BitVec 512 :=
  BitVec.ofNat 512 ((List.range 64).foldl (fun n l => n + Sparse.get 0 b.minors l % 128 * 2 ^ (64 + 7 * l)) b.major.toNat)

/-- The 64 bytes of the node of a level above 0 on the path of a page (R445): the counters of its 8 children, 56 bits each, and the key version of its tag. -/
def Hbm.nodeBits (h : Hbm) (page level : Nat) : BitVec 512 :=
  BitVec.ofNat 512 ((List.range 8).foldl (fun n j => n + Sparse.get 0 h.tree (treeKey page (level - 1) / 8 * 8 + j) % 2 ^ 56 * 2 ^ (56 * j))
    ((h.nodeVersion page level).toNat * 2 ^ 448))

/-- The tag that fits the counter block (level 0) or the node of a level on the path of a page: under the integrity key of its version, its nonce from its place and its
parent's counter (R445) (DESIGN CHOICE, log entry 14). -/
def Hbm.metaTag (h : Hbm) (page level : Nat) : Option (BitVec 56) :=
  (h.keysOf (h.nodeVersion page level)).map fun k =>
    gmac k.integ (Config.metaNonce (treeKey page level) (Sparse.get 0 h.tree (treeKey page level))) [] 0
      (leBytes 64 (if level = 0 then (Sparse.get CtrBlock.zero h.blocks page).bits else h.nodeBits page level).toNat)

/-- The counter block or the node of a level on the path of a page has the tag that fits it. -/
def Hbm.metaGood (h : Hbm) (page level : Nat) : Bool := match Sparse.get none h.metaTags (treeKey page level), h.metaTag page level with
  | some t, some x => t == x
  | _, _ => true

/-- The counter block and the nodes on the path of a page are tagged. -/
def Hbm.tagPath (h : Hbm) (page : Nat) : Hbm :=
  { h with metaTags := (List.range 8).foldl (fun t n => Sparse.set none t (treeKey page n) (h.metaTag page n)) h.metaTags }

/-- What the check of a line finds up to the root (R443, R445): 0 nothing, 3 its own tag is wrong, 4 + n that of its counter block (0) or its node of level n. -/
def Hbm.lineFault (h : Hbm) (l : Nat) : Nat := match (List.range 8).find? fun n => !h.metaGood (l / 64) n with
  | some n => 4 + n
  | none => if h.tagGood l then 0 else 3

/-- The level and stride of the counter block or node of a tree key, and the regions that it covers, first and number. -/
def metaSpan (key : Nat) : Nat × Nat × Nat × Nat :=
  let level := key / 2 ^ 28 % 8
  let stride := if key / 2 ^ 31 % 2 = 1 then 2 else 16
  (level, stride, nodeSpan stride level (key % 2 ^ 28 * 8 ^ level * stride / 512))

/-- The blocks of a region, and the nodes over it that hold NEXT, are tagged anew (R448 steps 3 and 4): their tags are those of their contents. -/
def Hbm.retag (h : Hbm) (r : Nat) : Hbm :=
  { h with metaTags := h.metaTags.filter fun p =>
      let x := metaSpan p.1
      !(decide (x.2.2.1 ≤ r) && decide (r < x.2.2.1 + x.2.2.2) && (x.1 == 0 || Sparse.get h.regionBase h.nodes (nodeKey x.2.1 x.1 x.2.2.1) == h.keyver + 1)) }

/-! ### Moves to NEXT (R448, R450) -/

/-- Every node that covers only regions now at NEXT is tagged anew under NEXT (R448 step 4): the nodes on the paths of a region. All regions of a span hold NEXT when as
many of them are listed so, since an unlisted region holds an older version. -/
def Hbm.retagNodes (h : Hbm) (r : Nat) : Hbm :=
  { h with nodes := ([16, 2].flatMap fun stride => (List.range 7).map fun i => (stride, i + 1)).foldl (fun t p =>
      let x := nodeSpan p.1 p.2 r
      if (h.regions.filter fun q => decide (x.1 ≤ q.1) && decide (q.1 < x.1 + x.2) && q.2 == h.keyver + 1).length = x.2 then
        Sparse.set h.regionBase t (nodeKey p.1 p.2 x.1) (h.keyver + 1) else t) h.nodes }

/-- A region moves to NEXT with its counter blocks reset (R448 steps 2 and 3): until then a write of one of its lines uses the old slot (R447), so its lines are
encrypted under NEXT together (DEDUCED, log entry 69). -/
def Hbm.moveRegion (h : Hbm) (r : Nat) : Hbm :=
  let inRegion := fun l => linePa l / regionLines == r
  ((h.reseal (({ h with regions := Sparse.set h.regionBase h.regions r (h.keyver + 1) }).dropBlocks fun page => inRegion (page * 64)) inRegion).retagNodes r).retag r

/-- The two keys of a slot drawn from the hub's noise source (R446). -/
def freshKeys (n : Nat) : KeyPair := ⟨Config.keyNoise n, Config.keyNoise (n + 1)⟩

/-- The slots rotate (R448, R451): OLD2 is destroyed, a fresh key fills NEXT, KEYVER advances and REGION returns to 0. -/
def State.rotateKeys (s : State) : State :=
  { s.setHbm fun h => { h with keyOld2 := h.keyOld1, keyOld1 := h.keyCur, keyCur := h.keyNext, keyNext := some (freshKeys s.free),
                               keyver := h.keyver + 1, region := 0, patrolLine := 0 }
    with free := s.free + 2 }

/-- R451: ROTATE, refused while a region holds OLD2. -/
def execRotate (s : State) : Host.Outcome State Fault Refusal :=
  .next (if s.hbm.versionUsed (s.hbm.keyver - 2) then s.setHbm fun h => { h with rotref := true }
    else (s.setHbm fun h => { h with rotref := false }).rotateKeys)

/-! ### Errors that are found (R449, R453) -/

/-- What is done with the check of a line: 0 good, 1 corrected, 2 uncorrectable ECC, 3 tag mismatch, 4 its counter block and 4 + k its node of level k, which
poison every line they cover; DETECT says whether an access (0), the patrol (1) or a minor overflow (2) has found it (R449, Table 19.5). -/
def State.lineResult (s : State) (line result detect ctx : Nat) : State :=
  let log (t : State) (kind l : Nat) (v : BitVec 32) : State := t.logError kind detect l ctx v.toNat
  let v := s.hbm.nodeVersion (line / 64) 0
  let pages := nodePages (line / 64) (result - 4)
  match result with
  | 0 => s
  | 1 => (log s 1 line v).countCorrected
  | 2 => (log (s.setHbm fun h => h.poisonLine line) 2 line v).countUncorrectable
  | 3 => (log (s.setHbm fun h => h.poisonLine line) 3 line v).countUncorrectable
  | n + 4 => if n < 8 then (log (s.setHbm fun h => pages.foldl (fun h page => (List.range 64).foldl (fun h i => h.poisonLine (page * 64 + i)) h) h) 4 (pages.headD 0 * 64)
      (s.hbm.nodeVersion (line / 64) n)).countUncorrectable else s

/-- No context is named in an entry of the error history. -/
def noCtx : Nat := 2 ^ 32 - 1

/-- A controller reads a line and checks it: a wrong tag is an uncorrectable error, and one that the base die's ECC corrects is a free value (R443, R453, DESIGN CHOICE,
log entry 8). What it has read goes to the hub, decrypted (R442). -/
def State.checkLine (s : State) (line : Nat) : State :=
  let t : State := { s with free := s.free + 1 }.setHbm fun h => { h with fetched := ((h.cells line).bind (h.openLine line)).map fun b => (line, b) }
  t.lineResult line (if s.hbm.lineFault line = 0 then (if Config.corrected s.free then 1 else 0) else s.hbm.lineFault line) 0 noCtx

/-! ### Writes of lines (R444, R445, R450) -/

/-- A forced move, for MAJOR of a page (0) or a counter that the node of a level on its path holds, 8 the root: its regions move to NEXT, and the counters of the node
and of those below it are reset. It is recorded as kind 5, with the version that the line's region held (R450, R453) (DESIGN CHOICE, log entry 14). -/
def State.forcedMove (s : State) (line level : Nat) : State :=
  let page := line / 64
  let below (p : Nat) : Bool := (List.range level).any fun l => p / 2 ^ 28 == pageTree page * 8 + l && p % 2 ^ 28 / 8 ^ (level - l) == (pageStack page).2 / 8 ^ level
  (s.setHbm fun h =>
    let g := (treeRegions page level).foldl Hbm.moveRegion h
    { g with tree := g.tree.filter fun p => !below p.1, metaTags := g.metaTags.filter fun p => !(below p.1 || (level != 0 && p.1 == treeKey page level)) }).logError 5 0 line noCtx
      (s.hbm.lineVersion line)

/-- Levels of the tree whose counter on the path of a page cannot advance. -/
def Hbm.fullLevels (h : Hbm) (page : Nat) : List Nat :=
  (List.range 8).filter fun l => Sparse.get 0 h.tree (treeKey page l) == 2 ^ 56 - 1

/-- A write of a line needs a forced move: of the page's own region (0) when MAJOR cannot advance, of the subtree of the node of a level, 8 the root, when a counter
that it holds cannot (R450). -/
def Hbm.forced (h : Hbm) (line : Nat) : List Nat :=
  let b := Sparse.get CtrBlock.zero h.blocks (line / 64)
  (if b.major = BitVec.allOnes 64 ∧ Sparse.get 0 b.minors (line % 64) = 127 then [0] else []) ++ (h.fullLevels (line / 64)).map (· + 1)

/-- A write of the line waits for the next rotation (R450). -/
def Hbm.writeWaits (h : Hbm) (line : Nat) : Bool := (h.forced line).any fun l => (treeRegions (line / 64) l).any h.holdsNext

/-- A minor overflow reads every line of its page: a tag that does not match is found there (R444, Table 19.5). -/
def State.checkPage (s : State) (page : Nat) : State :=
  (((List.range 64).map (page * 64 + ·)).filter fun l => !s.hbm.tagGood l).foldl (fun (t : State) l => t.lineResult l 3 2 noCtx) s

/-- A data line is written at its controller (R444, R445): the minor counter, a minor overflow with its page encrypted anew, the line's own cells, and the counters and
tags of its path, each child written back at once (DESIGN CHOICE, log entry 14). -/
def State.writeLine (s : State) (stack line : Nat) : State :=
  let s1 := (s.hbm.forced line).foldl (fun (t : State) l => t.forcedMove line l) s
  let page := line / 64
  let b := Sparse.get CtrBlock.zero s1.hbm.blocks page
  let full := Sparse.get 0 b.minors (line % 64) == 127
  let b1 : CtrBlock := if full then ⟨b.major + 1, []⟩ else b
  let b2 : CtrBlock := { b1 with minors := Sparse.upd 0 b1.minors (line % 64) (· + 1) }
  let s2 := (if full then s1.checkPage page else s1).setHbm fun h =>
    let h1 := if full then h.reseal { h with blocks := Sparse.set CtrBlock.zero h.blocks page b1 } fun l => l / 64 == page else h
    let h2 : Hbm := { h1 with
      blocks := Sparse.set CtrBlock.zero h.blocks page b2
      tree := (treePath page).foldl (fun t k => Sparse.upd 0 t k (· + 1)) h.tree
      overflow := if full then h.overflow ++ [page] else h.overflow }
    { h2.tagPath page with stored := Sparse.set none h2.stored line (h2.sealLine line (Memory.bytes s.mem (64 * line) 64)) }
  if full then s2.updStack stack fun k => { k with reenc := k.reenc + 1 } else s2

/-! ### Controllers (R437 to R440) -/

/-- A cap field of MEMQOS; 0 takes BATCHCAP. -/
def capOf (memqos : Word) (kind : Nat) : Nat :=
  let c := bitsOf memqos.toNat (9 + 5 * kind) (5 + 5 * kind)
  if c = 0 then bitsOf memqos.toNat 4 0 else c

/-- The distinct sources queued. -/
def Stack.sources (k : Stack) : List Nat := (k.queue.map (·.source)).eraseDups

/-- Requests of waiting sources move in while slots are free (R437). -/
def Stack.takeIn (k : Stack) : Nat → Stack
  | 0 => k
  | n + 1 =>
    match k.waiting with
    | [] => k
    | r :: _ =>
      if k.sources.length < 256 then
        Stack.takeIn { k with queue := k.queue ++ k.waiting.filter (fun q => q.source == r.source), waiting := k.waiting.filter fun q => q.source != r.source } n
      else k

/-- The kind of a source, which its number names (R437): 0 OCT, 1 STR, 2 CPY, 3 HUB. -/
def sourceKind (source : Nat) : Nat := source / 2 ^ 16 % 4

/-- R435, R437: a request arrives at the controller of its line's stack, for the pseudo-channel, bank and row in which the line lies. Which access misses the LLC is not
architected, so the source of the access that missed is what the step is given (DEDUCED, log entry 62). -/
def execMemoryRequest (stack kind source pch bank row : Nat) (write : Bool) (line : Nat) (s : State) : Host.Outcome State Fault Refusal :=
  let k := s.stack stack
  let ok := stack == lineStack line && kind == sourceKind source && pch == lineChannel line && bank == lineBank line && row == Config.lineRow line &&
    !(k.queue ++ k.waiting).any fun q => q.line == line
  .next (if ok then s.updStack stack fun k =>
      let r : MemReq := ⟨source, kind, pch, bank, row, write, line, false⟩
      if k.sources.contains source || (k.waiting.isEmpty && decide (k.sources.length < 256)) then { k with queue := k.queue ++ [r] }
      else { k with waiting := k.waiting ++ [r] }
    else s)

/-- Mark the oldest requests of each source to each bank, up to the caps (R438). -/
def markOldest (memqos : Word) : List MemReq → List MemReq → List MemReq
  | _, [] => []
  | done, r :: t =>
    let n := (done.filter fun q => q.source == r.source && q.pch == r.pch && q.bank == r.bank).length
    { r with marked := decide (n < capOf memqos r.kind) } :: markOldest memqos (r :: done) t

/-- Form a batch when no marked request remains (R438). -/
def State.formBatch (s : State) (stack : Nat) : State :=
  let k := s.stack stack
  if k.queue.isEmpty || k.queue.any (·.marked) then s
  else s.updStack stack fun k =>
    let q := markOldest s.hbm.memqos [] k.queue
    { k with queue := q, batches := k.batches + 1
             ranks := k.sources.foldl (fun t src => Sparse.set 0 t src (q.filter fun r => r.source == src && r.marked).length) [] }

/-- R438: BATCH_FORMATION. -/
def execBatchFormation (stack : Nat) (s : State) : Host.Outcome State Fault Refusal := .next (s.formBatch stack)

/-- One request comes before another in a command slot, the second being older on a tie (R439). -/
def Stack.before (k : Stack) (a b : MemReq) : Bool :=
  let hit (r : MemReq) : Bool := Sparse.get 0 k.rows (16 * r.pch + r.bank) == r.row + 1
  let rank (r : MemReq) : Nat := Sparse.get 0 k.ranks r.source
  if a.marked != b.marked then a.marked
  else if hit a != hit b then hit a
  else decide (rank a < rank b)

/-- The request a bank serves next. -/
def Stack.choose (k : Stack) (l : List MemReq) : Option MemReq :=
  l.foldl (fun best r => match best with
    | none => some r
    | some b => if k.before r b then some r else best) none

/-- A request can be served: a minor overflow does not hold its page, nor does a write wait for a rotation (R450). -/
def Hbm.servable (h : Hbm) (r : MemReq) : Bool := !h.overflow.contains (r.line / 64) && !(r.write && h.writeWaits r.line)

/-- R439: a command slot of a bank serves one request; a batch forms first when no marked request remains. -/
def execBankCommandSlot (stack pch bank : Nat) (s : State) : Host.Outcome State Fault Refusal :=
  let s1 := s.formBatch stack
  let k := s1.stack stack
  match k.choose (k.queue.filter fun r => r.pch == pch && r.bank == bank && s1.hbm.servable r) with
  | none => .next s1
  | some r =>
    let s2 := s1.updStack stack fun k =>
      ({ k with queue := k.queue.filter fun q => q.line != r.line, rows := Sparse.set 0 k.rows (16 * pch + bank) (r.row + 1) } : Stack).takeIn k.waiting.length
    .next (if r.write then s2.writeLine stack r.line else s2.checkLine r.line)

/-! ### Patrol (R448, R449) -/

/-- The first region from one on that does not hold NEXT. -/
def Hbm.nextRegion (h : Hbm) : Nat → Nat → Nat
  | 0, r => r
  | n + 1, r => if r < regionCount && h.holdsNext r then Hbm.nextRegion h n (r + 1) else r

/-- The last region is done (R448): the slots rotate and PASSES advances. When every region holds NEXT, one version stands for all. -/
def State.endPass (s : State) : State :=
  (s.setHbm fun h =>
    let done := (h.regions.filter fun p => p.2 == h.keyver + 1).length == regionCount
    { h with passes := h.passes + 1, regionBase := if done then h.keyver + 1 else h.regionBase, regions := if done then [] else h.regions, nodes := if done then [] else h.nodes }).rotateKeys

/-- After a line: the region moves to NEXT after its last, and after the last region the pass ends (R448). -/
def State.patrolAdvance (s : State) : State :=
  let h := s.hbm
  if h.patrolLine + 1 < regionLines then s.setHbm fun h => { h with patrolLine := h.patrolLine + 1 }
  else
    let s1 := s.setHbm fun h => { h.moveRegion h.region with patrolLine := 0, region := h.region + 1 }
    if s1.hbm.nextRegion (s1.hbm.regions.length + 1) s1.hbm.region < regionCount then s1 else s1.endPass

/-- R448: the patrol takes its next line, checks its tag up to the root, and finds a result code (as State.lineResult has them) and the home die of the line's frame where it
lies under the die-home attribute (R83), 8 where it does not. A page that a minor overflow
holds makes it wait (R450). When no region is left that does not hold NEXT, the pass ends. -/
def execNimbusPatrolLine (found : Nat × Nat) (s : State) : Host.Outcome State Fault Refusal :=
  .next (if s.hbm.enable && s.hbm.keyNext.isSome then
    let r := s.hbm.nextRegion (s.hbm.regions.length + 1) s.hbm.region
    if r < regionCount then
      let s1 := if r = s.hbm.region then s else s.setHbm fun h => { h with region := r, patrolLine := 0 }
      let line := lineAt (if found.2 < 8 then some found.2 else none) (r * regionLines + s1.hbm.patrolLine)
      if s.hbm.overflow.contains (line / 64) then s
      else (s1.lineResult line (if s1.hbm.lineFault line = 0 then found.1 else s1.hbm.lineFault line) 1 noCtx).patrolAdvance
    else s.endPass
  else s)

/-! ### Registers (Table 19.4) -/

/-- NIMBUSSTAT. -/
def Hbm.nimbusStat (h : Hbm) : Nat :=
  2 ^ 32 * h.passes.toNat + (if h.rotref then 2 ^ 31 else 0) + (if h.versionUsed (h.keyver - 2) then 2 ^ 30 else 0) +
    (if h.versionUsed (h.keyver - 1) then 2 ^ 29 else 0) + h.region

/-- Read a main-memory register. -/
def State.readHbm (s : State) (off : Nat) : Nat :=
  let h := s.hbm
  if 0x1200 ≤ off ∧ off < 0x1300 then
    let k := s.stack ((off - 0x1200) / 16)
    if off % 16 = 0 then k.batches.toNat else k.reenc.toNat
  else if 0x2000 ≤ off ∧ off < 0x4000 then
    bitsOf (Sparse.get 0 h.errlog ((off - 0x2000) / 32)).toNat (off % 32 * 8 + 63) (off % 32 * 8)
  else match off with
    | 0x1000 => h.memqos.toNat
    | 0x1008 => h.hours.toNat * 2 ^ 32 + (if h.fast then 2 else 0) + (if h.enable then 1 else 0)
    | 0x1010 => h.nimbusStat
    | 0x1018 => h.keyver.toNat
    | 0x1020 => h.uncorr.toNat * 2 ^ 32 + h.corr.toNat
    | 0x1028 => h.errTotal.toNat * 256 + h.errNext.toNat
    | _ => 0

/-- Write a main-memory register. -/
def State.writeHbm (s : State) (off : Nat) (v : Word) : State :=
  let n := v.toNat
  match off with
  | 0x1000 => s.setHbm fun h => { h with memqos := BitVec.ofNat 64 (bitsOf n 24 5 * 32 + (if bitsOf n 4 0 = 0 then 1 else bitsOf n 4 0)) }
  | 0x1008 =>
    let s1 := s.setHbm fun h => { h with hours := if bitsOf n 47 32 = 0 then 24 else BitVec.ofNat 16 (bitsOf n 47 32), fast := bitOf n 1, enable := bitOf n 0 }
    if bitOf n 2 then match execRotate s1 with
      | .next t => t
      | _ => s1
    else s1
  | _ => s

/-! ### Poisoned and held lines -/

/-- The line number of a location, when it lies in local HBM. -/
def hbmLine (loc : Nat) : Option Nat := if loc < 2 ^ 40 ∨ (2 ^ 60 ≤ loc ∧ loc < 2 ^ 61) then some (loc / 64) else none

/-- The pseudo-channels of a stack that are mapped out beyond its budget of 24 (R455). -/
def State.deadChannels (s : State) (stack : Nat) : List Nat :=
  (s.mgmt.unitsOut.filterMap fun u => if u.1 == 4 && u.2 / 1024 == stack / 2 && u.2 % 1024 / 384 == stack % 2 then some (u.2 % 1024 % 384) else none).drop 24

/-- A line lies in a pseudo-channel that has no spare slot. -/
def State.deadLine (s : State) (line : Nat) : Bool := (s.deadChannels (lineStack line)).contains (lineChannel line)

/-- A line is poisoned: it was marked so (1), or its pseudo-channel has no spare slot and no full-line write has cleared it since (2) (R449, R455). -/
def State.linePoisoned (s : State) (line : Nat) : Bool :=
  match Sparse.get 0 s.hbm.poison line with
  | 0 => s.deadLine line
  | n => n == 1

/-- The location's line is poisoned (R449): one outside local HBM is when a migration has failed there (R398). -/
def State.isPoisoned (s : State) (loc : Nat) : Bool := match hbmLine loc with
  | some l => s.linePoisoned l
  | none => Sparse.get 0 s.hbm.poison (loc / 64) == 1

/-- The location's page is held by a minor overflow (R450). -/
def State.isHeld (s : State) (loc : Nat) : Bool := match hbmLine loc with
  | some l => s.hbm.overflow.contains (l / 64)
  | none => false

/-- A full-line write clears the poison, which is recorded as kind 6 (R449). -/
def State.clearPoison (s : State) (line : Nat) : State :=
  if s.linePoisoned line then (s.setHbm fun h => { h with poison := Sparse.set 0 h.poison line (if s.deadLine line then 2 else 0) }).logError 6 0 line noCtx (s.hbm.lineVersion line) else s

/-- Full-line writes clear the poison of their lines; outside local HBM no entry is recorded. -/
def State.clearLines (s : State) (l : List Nat) : State :=
  l.foldl (fun (t : State) line => match hbmLine (64 * line) with
    | some k => t.clearPoison k
    | none => t.setHbm fun h => { h with poison := Sparse.set 0 h.poison line 0 }) s

end Sys2Proof.Machine
end

