-- ==== Sys2Proof/Machine/Flags.lean ====
section
/-! DEFINITION. FFLAGS (R70), the rounding mode in force (R56) and the values of a seed (R60 to R66). -/

namespace Sys2Proof.Machine

/-- The outcome of an instruction. -/
abbrev Out := Host.Outcome State Fault Refusal

/-- OR flags into FFLAGS (R70). -/
def State.orFlags (s : State) (f : Flags) : State :=
  { s with hart := { s.hart with csr := { s.hart.csr with fflags := s.hart.csr.fflags ||| f } } }

/-- The mode of a rounding code; DYN takes FRM (R56). -/
def State.modeOf (s : State) (rnd : BitVec 3) : RMode :=
  if rnd = 6 then RMode.ofCode s.hart.csr.frm.toNat else RMode.ofCode rnd.toNat

/-- The mode of an instruction with no rnd field. -/
def State.frmMode (s : State) : RMode := RMode.ofCode s.hart.csr.frm.toNat

/-- A drawn seed (R61): key, stream and the counter of element 0. -/
structure Seed where
  key : Word
  stream : Word
  base : Word
  deriving DecidableEq, Repr

/-- No seed. -/
def Seed.none : Seed := ⟨0, 0, 0⟩

/-- The random value of element i (R61, R62). -/
def Seed.rnd16 (d : Seed) (i : Nat) : Nat := (mix64 d.key d.stream (d.base + BitVec.ofNat 64 i)).toNat % 65536

/-- SRMODE in force: FORCECTR makes the noise modes COUNTER (R62, R66). -/
def Hart.srmodeNow (h : Hart) : Nat := if h.sup.forcectr && h.csr.srmode.toNat ≤ 1 then 3 else h.csr.srmode.toNat

/-- Advance SRLOG past a record (R63). -/
def Hart.bumpSrlog (h : Hart) : Hart := { h with csr := { h.csr with srlog := h.csr.srlog + 16 } }

/-- Advance RNGCTR (R64). -/
def Hart.bumpRngctr (h : Hart) (n : Nat) : Hart := { h with csr := { h.csr with rngctr := h.csr.rngctr + BitVec.ofNat 64 n } }

/-- A trap of an instruction with an address and an element (Table 14.1). -/
def State.raise (s : State) (i : Instr) (c : Cause) (va : Word) (elem : Nat) : State :=
  match c with
  | .illegalOperand => s.illegalOperand i
  | .illegalInstruction => s.illegalInstruction i
  | c => s.trap (insnWord i) { cause := c, val := va, elem := BitVec.ofNat 64 elem }

end Sys2Proof.Machine
end

