-- ==== Sys2Proof/Machine/Csr.lean ====
section
/-! DEFINITION. The control registers: their read values and write rules (R132, R133, R164, R165, Tables 4.8 and 5.3). -/

namespace Sys2Proof.Machine

/-- VLMAX for the current grant and the last ew: L × 64 bytes over the element width (R17, R187). -/
def Hart.vlmax (h : Hart) : Nat := h.lanes * 128 / 2 ^ h.vec.ew.toNat

/-- The implemented numbers (R132). -/
def csrExists (n : Nat) : Bool := n ≤ 0x1B || (0x100 ≤ n && n ≤ 0x10E)

/-- The supervisor registers. -/
def csrSup (n : Nat) : Bool := 0x100 ≤ n

/-- The read-only registers (Table 4.8). -/
def csrReadOnly (n : Nat) : Bool :=
  [0x001, 0x006, 0x00F, 0x010, 0x011, 0x012, 0x013, 0x014, 0x015, 0x016, 0x017, 0x01A, 0x01B, 0x109].contains n

/-- GANGBAR of every hart (R350). -/
def gangBarHandle : Word := 0x28000000

/-- EVSTAT (R171): the records queued, and STALL. -/
def EventQueue.stat (q : EventQueue) : Word :=
  BitVec.ofNat 64 (q.recs.length + (if q.stalled ≠ [] ∨ q.held ≠ none then 128 else 0))

/-- The value of a control register; CYCLE is the stored count. -/
def State.csrValue (s : State) (n : Nat) : Word :=
  let h := s.hart
  match n with
  | 0x000 => h.csr.vl
  | 0x001 => BitVec.ofNat 64 h.vlmax
  | 0x002 => h.csr.vstart
  | 0x003 => h.csr.rowlen.setWidth 64
  | 0x004 => h.csr.mklen.setWidth 64
  | 0x005 => h.csr.mrows.setWidth 64
  | 0x006 => BitVec.ofNat 64 h.lenders.length
  | 0x007 => h.csr.frm.setWidth 64
  | 0x008 => h.csr.fflags.setWidth 64
  | 0x009 => h.csr.srmode.setWidth 64
  | 0x00A => h.csr.srlog
  | 0x00B => h.csr.rngkey
  | 0x00C => h.csr.rngstream
  | 0x00D => h.csr.rngctr
  | 0x00E => h.csr.nocclass.setWidth 64
  | 0x00F => h.csr.routever.setWidth 64
  | 0x010 => h.events.stat
  | 0x011 => BitVec.ofNat 64 (s.fabric.pkgpos.toNat * 2048 + h.id)
  | 0x012 => BitVec.ofNat 64 (dieOf h.id * 256 + coreOf h.id)
  | 0x013 => h.csr.gangid
  | 0x014 => h.csr.gangsize
  | 0x015 => h.csr.gangrank
  | 0x016 => h.csr.launcharg
  | 0x017 => h.csr.cycle
  | 0x018 => if h.csr.exact then 1 else 0
  | 0x019 => h.csr.racc
  | 0x01A => gangBarHandle
  | 0x01B => BitVec.ofNat 64 (octetCount h.vec.octets)
  | 0x100 => h.sup.trapvec
  | 0x101 => h.sup.trapcause
  | 0x102 => h.sup.trappc
  | 0x103 => h.sup.trapval
  | 0x104 => h.sup.trapelem
  | 0x105 => h.sup.trapstat
  | 0x106 => h.sup.ifrbase
  | 0x107 => h.sup.ctxid.setWidth 64
  | 0x108 => h.sup.asid.setWidth 64
  | 0x109 => (Sparse.get (0 : BitVec 12) s.gens h.sup.asid.toNat).setWidth 64
  | 0x10A => h.sup.ptroot
  | 0x10B => BitVec.ofNat 64 (h.sup.deadline.toNat * 65536 + (if h.sup.grow then 2 else 0) + (if s.myCore.lend then 1 else 0))
  | 0x10C => h.sup.syncbase
  | 0x10D => h.sup.pinquota
  | 0x10E => (if h.sup.forcectr then 1 else 0) + (if (s.die (dieOf h.id)).nsfail then 2 else 0)
  | _ => 0

/-- Clear bits hi down to lo of a word. -/
def clearLow (v : Word) (n : Nat) : Word := (v >>> n) <<< n

/-- Write an application control register under its rule (Table 5.3); a read-only number is not written. -/
def Hart.setAppCsr (h : Hart) (n : Nat) (v : Word) : Hart :=
  let c := h.csr
  match n with
  | 0x000 => { h with csr := { c with vl := if v.toNat ≤ h.vlmax then v else BitVec.ofNat 64 h.vlmax } }
  | 0x002 => { h with csr := { c with vstart := lowBits v 32 } }
  | 0x003 => { h with csr := { c with rowlen := v.setWidth 32 } }
  | 0x004 => { h with csr := { c with mklen := v.setWidth 32 } }
  | 0x005 => { h with csr := { c with mrows := v.setWidth 32 } }
  | 0x007 => { h with csr := { c with frm := if (v.setWidth 3).toNat ≥ 6 then 0 else v.setWidth 3 } }
  | 0x008 => { h with csr := { c with fflags := v.setWidth 9 } }
  | 0x009 => { h with csr := { c with srmode := v.setWidth 2 } }
  | 0x00A => { h with csr := { c with srlog := clearLow v 4 } }
  | 0x00B => { h with csr := { c with rngkey := v } }
  | 0x00C => { h with csr := { c with rngstream := v } }
  | 0x00D => { h with csr := { c with rngctr := v } }
  | 0x00E => { h with csr := { c with nocclass := v.setWidth 2 } }
  | 0x018 => { h with csr := { c with exact := v.getLsbD 0 } }
  | 0x019 => { h with csr := { c with racc := v } }
  | _ => h

/-- Write a supervisor control register under its rule (Table 5.3, R66, R353, R357, R358, R384). -/
def Hart.setSupCsr (h : Hart) (n : Nat) (v : Word) : Hart :=
  let c := h.sup
  match n with
  | 0x100 => { h with sup := { c with trapvec := clearLow v 3 } }
  | 0x101 => { h with sup := { c with trapcause := lowBits v 10 } }
  | 0x102 => { h with sup := { c with trappc := v } }
  | 0x103 => { h with sup := { c with trapval := v } }
  | 0x104 => { h with sup := { c with trapelem := v } }
  | 0x105 => { h with sup := { c with trapstat := v &&& 0x800000000003FFFF } }
  | 0x106 => { h with sup := { c with ifrbase := clearLow v 12 } }
  | 0x107 => { h with sup := { c with ctxid := v.setWidth 32 } }
  | 0x108 => { h with sup := { c with asid := v.setWidth 16 } }
  | 0x10A => { h with sup := { c with ptroot := clearLow (lowBits v 52) 12 } }
  | 0x10B => { h with sup := { c with deadline := if bitsOf v.toNat 31 16 = 0 then 200 else BitVec.ofNat 16 (v.toNat / 65536), grow := v.getLsbD 1 } }
  | 0x10C => { h with sup := { c with syncbase := v } }
  | 0x10D => { h with sup := { c with pinquota := clearLow v 6 } }
  | 0x10E => { h with sup := { c with forcectr := v.getLsbD 0 } }
  | _ => h

/-- Write a control register; LANEPOL.LEND is the core's, shared by its harts (R353). -/
def State.setCsr (s : State) (n : Nat) (v : Word) : State :=
  let s1 := s.onHart fun h => if csrSup n then h.setSupCsr n v else h.setAppCsr n v
  if n = 0x10B then s1.updCore (dieOf s.hart.id) (coreOf s.hart.id) fun c => { c with lend := v.getLsbD 0 } else s1

/-- CYCLE counts on: a read takes a free number of cycles since the last one (DESIGN CHOICE, log entry 8). -/
def State.tickCycle (s : State) : State :=
  let (d, s') := s.takeFree
  s'.onHart fun h => { h with csr := { h.csr with cycle := h.csr.cycle + lowBits d 32 } }

/-- The access is allowed (R133); `writes` says that the instruction writes. -/
def State.csrOk (s : State) (n : Nat) (writes : Bool) : Bool :=
  csrExists n && (!csrSup n || s.isSup) && !(writes && csrReadOnly n)

/-- A control-register instruction: the old value to rd, then the write (R164). -/
def State.csrOp (s : State) (i : Instr) (rd : XReg) (csr : BitVec 12) (writes : Bool) (f : Word → Word) : State :=
  let n := csr.toNat
  if s.csrOk n writes then
    let s1 := if n = 0x017 then s.tickCycle else s
    let old := s1.csrValue n
    (if writes then s1.setCsr n (f old) else s1).ret rd old
  else s.illegalInstruction i

/-- R164: CSRRW. -/
def execCsrrw (rd rs1 : XReg) (csr : BitVec 12) (s : State) : Out :=
  .next (s.csrOp (.csrrw rd rs1 csr) rd csr true fun _ => s.rx rs1)

/-- R164: CSRRS; with rs1 = x0 it only reads (R133). -/
def execCsrrs (rd rs1 : XReg) (csr : BitVec 12) (s : State) : Out :=
  .next (s.csrOp (.csrrs rd rs1 csr) rd csr (rs1 != 0) fun old => old ||| s.rx rs1)

/-- R164: CSRRC; with rs1 = x0 it only reads (R133). -/
def execCsrrc (rd rs1 : XReg) (csr : BitVec 12) (s : State) : Out :=
  .next (s.csrOp (.csrrc rd rs1 csr) rd csr (rs1 != 0) fun old => old &&& ~~~ s.rx rs1)

end Sys2Proof.Machine
end

