-- ==== Sys2Proof/Machine/Mesh.lean ====
section
/-! DEFINITION. The on-die mesh (R321 to R333): packets and their routes, flits at router outputs, credits, arbitration, ageing and promotion. One grant step of
a port is one network tick there. Inputs and outputs are numbered 0 north, 1 east, 2 south, 3 west, 4 the second of a ring port, 5 local; the virtual
channels 0 LAT, 1 SYNC, 2 BULK; the networks 0 request, 1 response. -/

namespace Sys2Proof.Machine

/-! ### Routes -/

/-- The dies that carry the traffic of optical die j (R11). -/
def opticalDies (j : Nat) : Nat × Nat := (2 * j, 2 * j + 1)

/-- The dies of the pair that a package's route names: the one that it goes through, then the other. It goes through the one that PORT names, or through the other once it has
moved off that one (R426, R458). -/
def Fabric.pair (f : Fabric) (p : Nat) : Nat × Nat :=
  let r := Sparse.get (0 : BitVec 4) f.route p
  let d := opticalDies (bitsOf r.toNat 2 1)
  if r.getLsbD 3 != f.moved.contains p then (d.2, d.1) else d

/-- Routes move off dies that are not in service, to the other die of the pair, and stay there until the next route change (R458, Table 20.3). -/
def State.moveRoutes (s : State) : State :=
  let off (d : Nat × Nat) : Bool := (s.die d.1).state != 0 && (s.die d.2).state == 0
  { s with fabric := { s.fabric with moved := (List.range 64).filter fun p => s.fabric.moved.contains p != off (s.fabric.pair p) } }

/-- The die through which accesses to a remote package leave (R11, R426), or the other of its pair while that one is out of service (R458); none when neither is in
service, when the link is not trained, or when the route is not valid (R425). -/
def State.routeVia (s : State) (p : Nat) : Option Nat :=
  let r := Sparse.get (0 : BitVec 4) s.fabric.route p
  let j := bitsOf r.toNat 2 1
  let (a, b) := s.fabric.pair p
  if !r.getLsbD 0 || !s.fabric.up.get (Fin.ofNat 4 j) then none
  else if (s.die a).state = 0 then some a
  else if (s.die b).state = 0 then some b
  else none

/-- A remote package can be reached (R425, R426, R458). -/
def State.routed (s : State) (p : Nat) : Bool := (s.routeVia p).isSome

/-- The neighbour of a stop through a link port (R321). -/
def neighbour (stop dir : Nat) : Option Nat :=
  match dir with
  | 0 => if 4 ≤ stop then some (stop - 4) else none
  | 1 => if stop % 4 < 3 then some (stop + 1) else none
  | 2 => if stop < 12 then some (stop + 4) else none
  | 3 => if 0 < stop % 4 then some (stop - 1) else none
  | _ => none

/-- What an edge port faces (Table 12.1). -/
inductive External where
  | hub
  | ring (die : Nat)
  | controllers
  | optical
  | unused
  deriving DecidableEq, Repr

/-- The external port of a stop of a die (Table 12.1); a ring port has two inputs and two outputs (R322). -/
def external (die stop port : Nat) : External :=
  if stop < 4 ∧ port = 0 then .hub
  else if stop = 4 ∧ (port = 3 ∨ port = 4) then .ring ((die + 7) % 8)
  else if stop = 7 ∧ (port = 1 ∨ port = 4) then .ring ((die + 1) % 8)
  else if (stop = 12 ∨ stop = 15) ∧ port = 2 then .controllers
  else if (stop = 13 ∨ stop = 14) ∧ port = 2 then .optical
  else .unused

/-- The optical port of a die that traffic from a column takes: the nearer one (DESIGN CHOICE, log entry 15). -/
def opticalStop (stop : Nat) : Nat := if stop % 4 < 2 then 13 else 14

/-- The hub port in the stop's own column (R323). -/
def hubStop (stop : Nat) : Nat := stop % 4

/-- The stop and the port at which a packet for a site leaves the mesh of a die, from a stop of it (R323). A response for a ring neighbour's core takes the ring
port as a request for its VSP does (DEDUCED, log entry 76). -/
def State.exitOf (s : State) (die stop : Nat) (dst : Site) : Nat × Nat :=
  match dst with
  | .unit d t _ =>
    if d = die then (t, 5)
    else if d = (die + 7) % 8 then (4, 3)
    else if d = (die + 1) % 8 then (7, 1)
    else (hubStop stop, 0)
  | .hub => (hubStop stop, 0)
  | .package p => if s.routeVia p = some die then (opticalStop stop, 2) else (hubStop stop, 0)

/-- XY routing (R323): along the row to the column of the exit, then along the column, then out. -/
def xyOut (stop : Nat) (exit : Nat × Nat) : Nat :=
  if stop % 4 < exit.1 % 4 then 1
  else if exit.1 % 4 < stop % 4 then 3
  else if stop / 4 < exit.1 / 4 then 2
  else if exit.1 / 4 < stop / 4 then 0
  else exit.2

/-- The unit of a core, or of a DSM slice, of a die (R321). -/
def coreSite (die core : Nat) : Site := .unit die (core / 3) (core % 3)

/-- The unit of a DSM slice. -/
def sliceSite (die slice : Nat) : Site := .unit die (slice / 3) (3 + slice % 3)

/-- Where the bytes of a location are served, for a core (R82, R86, R323): none for its own scratchpad, which needs no mesh. -/
def siteOf (die core loc : Nat) : Option Site :=
  if 2 ^ 62 ≤ loc then some (sliceSite ((loc - 2 ^ 62) / 2 ^ 60 % 8) (loc % 2 ^ 28 / 64 % 48))
  else if 2 ^ 61 ≤ loc then
    let c := (loc - 2 ^ 61) / 2 ^ 20
    if c = die * 48 + core then none else some (coreSite (c / 48 % 8) (c % 48))
  else if 2 ^ 46 ≤ loc ∧ loc < 2 ^ 47 then some (.package (bitsOf loc 45 40))
  else some .hub

/-- Where the request of an access goes: the Trivet's operations to the hub; none for a fence and for the core's own scratchpad. -/
def Access.site (a : Access) : Option Site :=
  match a.op with
  | .fence _ => none
  | .sync _ _ _ _ _ => some .hub
  | _ => siteOf (dieOf a.hart) (coreOf a.hart) a.loc

/-- The request of an access has not entered the mesh (R324). -/
def Access.unsent (a : Access) : Bool := !a.sent && a.site.isSome

/-- The requests of a core, by the rows of Table 12.2. -/
inductive Request where
  /-- A scalar access, an event record's store, the read of LAUNCH or a seed's log record, under a NOCCLASS code. -/
  | scalar (noc : BitVec 2)
  /-- An instruction fetch or a page-table walk. -/
  | fetch
  /-- A VM form, GSTREAM or GBCAST. -/
  | block
  /-- An instruction with a qos field. -/
  | coded (qos : BitVec 2)
  /-- A SYNC, a barrier arrival or an event post. -/
  | sync
  deriving DecidableEq, Repr

/-- The virtual channel of a request (Table 12.2): 0 LAT, 1 SYNC, 2 BULK. -/
def Request.channel : Request → Nat
  | .scalar noc => if noc.toNat < 2 then 0 else if noc = 2 then 2 else 1
  | .fetch => 0
  | .block => 2
  | .coded qos => if qos = 1 then 0 else if qos = 3 then 1 else 2
  | .sync => 1

/-- The response to a request (R328): LAT when the request travelled in LAT or SYNC, else BULK. -/
def Packet.answer (q : Packet) : Packet := { q with src := q.dst, dst := q.src, vc := if q.vc < 2 then 0 else 2 }

/-! ### Routers -/

/-- The virtual channel of a flit. -/
def Flit.vc (f : Flit) : Nat := f.packet.vc

/-- The key of an output port. -/
def portKey (stop net out : Nat) : Nat := (stop * 2 + net) * 6 + out

/-- Change a die's mesh. -/
def State.updNoc (s : State) (die : Nat) (f : Noc → Noc) : State := s.updDie die fun d => { d with noc := f d.noc }

/-- An output port. -/
def Noc.port (n : Noc) (stop net out : Nat) : Port := Sparse.get Port.zero n.ports (portKey stop net out)

/-- Change an output port. -/
def Noc.updPort (n : Noc) (stop net out : Nat) (f : Port → Port) : Noc := { n with ports := Sparse.upd Port.zero n.ports (portKey stop net out) f }

/-- Flits of a router on one network. -/
def Noc.router (n : Noc) (stop net : Nat) : List Flit := (List.range 6).flatMap fun o => (n.port stop net o).flits

/-- The flits and packets that fill a router input's places for a channel: those held there and those on the link to it (R326). -/
def Noc.filled (n : Noc) (stop net input vc : Nat) : Nat :=
  ((n.router stop net).filter fun f => f.input == input && f.vc == vc).length +
  (n.crossing.filter fun c => c.stop == stop && c.net == net && c.input == input && c.packet.vc == vc).length

/-- The next router has a slot for a channel: its input holds 4 flits of each; external and local ports take one flit in every tick (R326). -/
def Noc.hasSlot (n : Noc) (stop net out vc : Nat) : Bool :=
  match neighbour stop out with
  | some t => decide (n.filled t net ((out + 2) % 4) vc < 4)
  | none => true

/-- A router input has a place for one more flit of a channel (R326). -/
def Noc.hasRoom (n : Noc) (stop net input vc : Nat) : Bool :=
  decide (((n.router stop net).filter fun f => f.input == input && f.vc == vc).length < 4)

/-- A packet enters a router and stands at an output: the next tick finds it eligible there (R325). -/
def Noc.enter (n : Noc) (stop net input out : Nat) (p : Packet) : Noc :=
  { n.updPort stop net out (fun q => { q with flits := q.flits ++ [⟨input, 0, none, n.nextSeq, p⟩] }) with nextSeq := n.nextSeq + 1 }

/-- Of the two outputs of a ring port the one with fewer flits (DESIGN CHOICE, log entry 15). -/
def Noc.ringOut (n : Noc) (stop net out : Nat) : Nat :=
  if (stop = 4 ∧ out = 3 ∨ stop = 7 ∧ out = 1) ∧ (n.port stop net 4).flits.length < (n.port stop net out).flits.length then 4 else out

/-- The output that route computation gives a packet at a stop (R323, R325). -/
def State.outputOf (s : State) (die stop net : Nat) (p : Packet) : Nat :=
  (s.die die).noc.ringOut stop net (xyOut stop (s.exitOf die stop p.dst))

/-- The flit is the oldest of its input and channel at the router, and the next router has a slot for it (R326). -/
def Noc.eligible (n : Noc) (stop net out : Nat) (f : Flit) : Bool :=
  ((n.router stop net).all fun g => !(g.input == f.input && g.vc == f.vc && decide (g.seq < f.seq))) && n.hasSlot stop net out f.vc

/-- The weight of a channel (R329, R332). -/
def Noc.weight (n : Noc) (vc : Nat) : Nat := match vc with
  | 0 => n.wlat
  | 1 => n.wsync
  | _ => n.wbulk

/-- The head within a channel (R330): links and external inputs before the local port, taking the input after the one last granted. -/
def pickHead (last : Nat) (l : List Flit) : Option Flit :=
  match ((List.range 5).map fun i => (last + 1 + i) % 5).findSome? fun i => l.find? fun f => f.input == i with
  | some f => some f
  | none => l.head?

/-- The promoted flit that goes first: by the order of promotion (R331). -/
def firstPromoted (l : List Flit) : Option Flit :=
  l.foldl (fun best f => match best, f.promoted with
    | none, some _ => some f
    | some b, some k => if k < b.promoted.getD 0 then some f else best
    | _, none => best) none

/-- The flit a port grants in a tick (R329). -/
def grantChoice (credit : Nat → Nat) (last : Nat → Nat) (elig : List Flit) : Option Flit :=
  match firstPromoted elig with
  | some f => some f
  | none => [0, 1, 2].findSome? fun vc => if 0 < credit vc then pickHead (last vc) (elig.filter fun f => f.vc == vc) else none

/-- Promote the flits of a port whose counter has reached AGEMAX, in input order (R331, R333). R331 orders no two flits of one input that are promoted together, in
different channels: they go in the order in which they came to the port (DESIGN CHOICE, log entry 15). -/
def Noc.promote (n : Noc) (stop net out : Nat) : Noc :=
  let p := n.port stop net out
  let due := (List.range 6).flatMap fun i => p.flits.filter fun f => f.input == i && f.promoted == none && decide (n.agemax ≤ f.age)
  due.foldl (fun n f => { n.updPort stop net out (fun p => { p with flits := updWhere (fun g => g.seq == f.seq) (fun g => { g with promoted := some n.promSeq }) p.flits })
    with nocprom := n.nocprom + 1, promSeq := n.promSeq + 1 }) n

/-- The credits of a port at the start of a tick (R329): they are loaded anew when no channel with an eligible flit holds one. -/
def Noc.credits (n : Noc) (p : Port) (elig : List Flit) : Vector Nat 3 :=
  if elig.any fun f => decide (0 < p.credit.get (Fin.ofNat 3 f.vc)) then p.credit else Vector.ofFn fun (i : Fin 3) => n.weight i.val

/-- One tick of an output port (R329 to R331): credits, the grant, the ageing counters and the promotions; the flit that it grants. -/
def Noc.grant (n : Noc) (stop net out : Nat) : Noc × Option Flit :=
  let p := n.port stop net out
  let elig := p.flits.filter (n.eligible stop net out)
  let credit := n.credits p elig
  match grantChoice (fun vc => credit.get (Fin.ofNat 3 vc)) (fun vc => p.last.get (Fin.ofNat 3 vc)) elig with
  | none => ((n.updPort stop net out fun p => { p with credit := credit }).promote stop net out, none)
  | some g =>
    let c := Fin.ofNat 3 g.vc
    ((n.updPort stop net out fun p => { p with
      credit := credit.set c.val (credit.get c - 1) c.isLt
      last := if g.input < 5 then p.last.set c.val g.input c.isLt else p.last
      flits := (p.flits.filter fun f => f.seq != g.seq).map fun f => if elig.any fun e => e.seq == f.seq then { f with age := f.age + 1 } else f }).promote
        stop net out, some g)

/-- R331: FLIT_PROMOTION. -/
def execFlitPromotion (die stop net out : Nat) (s : State) : Out := .next (s.updNoc die fun n => n.promote stop net out)

/-- A packet is on its way to an input of a die's mesh. -/
def State.crosses (s : State) (die : Nat) (c : Crossing) : State := s.updNoc die fun n => { n with crossing := n.crossing ++ [c] }

/-! ### A mesh that is emptied -/

/-- A command is the transfer of a hart's handle; one that has only its event to post is none. -/
def StreamCmd.isOf (c : StreamCmd) (hart h : Nat) : Bool := c.hart == hart && c.handle == h && c.post != .stalled

/-- Change the transfer of a hart's handle. -/
def State.updStream (s : State) (hart h : Nat) (f : StreamCmd → StreamCmd) : State :=
  { s with streams := updWhere (fun c => c.isOf hart h) f s.streams }

/-- A device step is due, once. -/
def State.dueOnce (s : State) (d : Due) : State := if s.agenda.contains d then s else s.due [d]

/-- A die's mesh is emptied: the flits that were in it are sent again by their senders (R458). -/
def State.emptyMesh (s : State) (die : Nat) : State :=
  let n := (s.die die).noc
  let lost := n.crossing.map (·.packet) ++ n.waiting.map (·.2) ++ n.ports.flatMap fun p => p.2.flits.map (·.packet)
  let t := s.updNoc die fun n => { n with ports := [], crossing := [], waiting := [] }
  lost.foldl (fun t p => match p.sender with
    | .stream hart h => (t.updStream hart h fun c => { c with asked := c.asked.filter (· != p.line) }).dueOnce (.streamRequest (hart / 4))
    | .access hart order => { t with accesses := updWhere (fun a => a.hart == hart && a.order == order && a.loc / 64 == p.line) (fun a => { a with sent := false }) t.accesses }) t

/-! ### The network register block -/

/-- A weight written as 0 stores 1; AGEMAX below 8 stores 8 (R332). -/
def nocarbStored (v : Nat) : Nat :=
  let w (x : Nat) : Nat := if x = 0 then 1 else x
  max 8 (bitsOf v 25 16) * 2 ^ 16 + w (bitsOf v 11 8) * 256 + w (bitsOf v 7 4) * 16 + w (bitsOf v 3 0)

/-- R332: a write of NOCARB, which takes effect at a later tick (R333). -/
def execNocarb (die : Nat) (val : Word) (s : State) : Out :=
  let v := BitVec.ofNat 64 (nocarbStored val.toNat)
  .next ((s.updNoc die fun n => { n with nocarb := v, pending := some v }).due [.nocarbApply die])

/-- R333: the written value takes effect. -/
def execNocarbApply (die : Nat) (s : State) : Out :=
  .next (s.updNoc die fun n => match n.pending with
    | some v => { n with pending := none, agemax := bitsOf v.toNat 25 16, wsync := bitsOf v.toNat 11 8, wbulk := bitsOf v.toNat 7 4, wlat := bitsOf v.toNat 3 0 }
    | none => n)

/-- Read a register of a die's network block (Table 12.3). -/
def State.readNoc (s : State) (die off : Nat) : Nat :=
  match off with
  | 0 => (s.die die).noc.nocarb.toNat
  | 8 => (s.die die).noc.nocprom.toNat
  | _ => 0

end Sys2Proof.Machine
end

