-- ==== Sys2Proof/Machine/Access.lean ====
section
/-! DEFINITION. Accesses on their way (R99 to R103, R107, R363, R370 to R372): what each does at its slice, the order in which they are performed, the values
that come back, and the duplicate tables. -/

namespace Sys2Proof.Machine

/-! ### What an access does at its slice -/

/-- Sign- or zero-extend n bytes (R156). -/
def extendBytes (signed : Bool) (n x : Nat) : Word :=
  if signed && 2 ^ (8 * n - 1) ≤ x then BitVec.ofNat 64 (x + 2 ^ 64 - 2 ^ (8 * n)) else BitVec.ofNat 64 x

/-- The operations of AMO on a word. -/
inductive AmoOp where
  | add
  | and
  | or
  | xor
  | min
  | max
  | swap
  | cas
  deriving DecidableEq, Repr

/-- The op code of an AMO (R124). -/
def AmoOp.code : AmoOp → Nat
  | .add => 0
  | .and => 1
  | .or => 2
  | .xor => 3
  | .min => 4
  | .max => 5
  | .swap => 6
  | .cas => 7

/-- The AMO operation of an op code. -/
def AmoOp.ofCode (n : Nat) : AmoOp :=
  match n with
  | 0 => .add
  | 1 => .and
  | 2 => .or
  | 3 => .xor
  | 4 => .min
  | 5 => .max
  | 6 => .swap
  | _ => .cas

/-- The new word (R159); none when a CAS fails and writes nothing. -/
def AmoOp.apply (op : AmoOp) (old v cmp : Word) : Option Word :=
  match op with
  | .add => some (old + v)
  | .and => some (old &&& v)
  | .or => some (old ||| v)
  | .xor => some (old ^^^ v)
  | .min => some (if v.toInt < old.toInt then v else old)
  | .max => some (if old.toInt < v.toInt then v else old)
  | .swap => some v
  | .cas => if old = cmp then some v else none

/-- The read-modify-write of a word at a location: memory after it and the old word. -/
def amoMem (m : List Host.Cell) (loc : Nat) (op : AmoOp) (v cmp : Word) : List Host.Cell × Word :=
  let old := BitVec.ofNat 64 (Memory.num m loc 8)
  match op.apply old v cmp with
  | some x => (Memory.put m loc (leBytes 8 x.toNat), old)
  | none => (m, old)

/-- The operations of VAMO. -/
inductive VamoOp where
  | add
  | min
  | max
  | swap
  deriving DecidableEq, Repr

/-- A number for each operation of VAMO. -/
def VamoOp.code : VamoOp → Nat
  | .add => 0
  | .min => 1
  | .max => 2
  | .swap => 3

/-- The operation of a number. -/
def VamoOp.ofCode (n : Nat) : VamoOp :=
  match n with
  | 0 => .add
  | 1 => .min
  | 2 => .max
  | _ => .swap

/-- The new element from the old one and the operand (R263): integer add wraps, float add rounds once, min and max of floats are FMIN and FMAX. -/
def vamoRes (op : VamoOp) (t : Nat) (mode : RMode) (rnd old x : Nat) : Res :=
  match op with
  | .add => if isFloat t then arithRes t 0 mode rnd old x else ⟨(old + x) % 2 ^ tyBits t, 0⟩
  | .min => ⟨if isFloat t then minMaxCode t false old x else if intOf t x < intOf t old then x else old, 0⟩
  | .max => ⟨if isFloat t then minMaxCode t true old x else if intOf t old < intOf t x then x else old, 0⟩
  | .swap => ⟨x, 0⟩

/-- Replace n bits at a position of a register. -/
def putBits (x : VBits) (pos n v : Nat) : VBits :=
  BitVec.ofNat 32768 (x.toNat - x.toNat / 2 ^ pos % 2 ^ n * 2 ^ pos + v % 2 ^ n * 2 ^ pos)

/-- What an access reads from memory before it acts: a value for its register, zero for an access that returns none. -/
def Access.read (a : Access) (m : List Host.Cell) : Word :=
  match a.op with
  | .load _ n signed => extendBytes signed n (Memory.num m a.loc n)
  | .amo _ op x cmp => (amoMem m a.loc (AmoOp.ofCode op) x cmp).2
  | .vload _ _ n nibble =>
    let x := Memory.num m a.loc n
    BitVec.ofNat 64 (match nibble with
      | none => x
      | some high => if high then x / 16 % 16 else x % 16)
  | .vamo _ _ n _ _ _ _ _ => BitVec.ofNat 64 (Memory.num m a.loc n)
  | _ => 0

/-- What an access leaves in memory. -/
def Access.write (a : Access) (m : List Host.Cell) : List Host.Cell :=
  match a.op with
  | .amo _ op x cmp => (amoMem m a.loc (AmoOp.ofCode op) x cmp).1
  | .vamo _ _ n op ty mode rnd x =>
    Memory.put m a.loc (leBytes n (vamoRes (VamoOp.ofCode op) ty (RMode.ofCode mode.toNat) rnd (Memory.num m a.loc n) x).code)
  | op => op.apply m a.loc

/-- An access of class T (R369). -/
def Access.classT (a : Access) : Bool := match a.op with
  | .amo _ _ _ _ => true
  | .vamo _ _ _ _ _ _ _ _ => true
  | _ => false

/-- An access that carries a tag until its response is received (R370, R371): one of class T, a SYNC of which the response is on its way among them. -/
def Access.carriesTag (a : Access) : Bool := match a.op with
  | .sync _ _ _ _ _ => true
  | _ => a.classT

/-- An access that a FENCE counts as a load (R102). -/
def Access.reads (a : Access) : Bool := match a.op with
  | .store _ => false
  | .nibble _ _ => false
  | .fence _ => false
  | _ => true

/-- An access that a FENCE counts as a store (R102). -/
def Access.writes (a : Access) : Bool := match a.op with
  | .load _ _ _ => false
  | .vload _ _ _ _ => false
  | .fence _ => false
  | _ => true

/-! ### Duplicate tables (R371) -/

/-- The targets that keep a table: the Trivet, the copy queues, the inbox homes, and the LLC bank, DSM slice or VSP bank of a location. -/
def dupTrivet : Nat := 0

/-- The target number of copy queue q of a die. -/
def dupCopies (die q : Nat) : Nat := 1 + 8 * die + q

/-- The target number of the inboxes of a die. -/
def dupInbox (die : Nat) : Nat := 65 + die

/-- The target number of the slice of a location. -/
def dupSlice (loc : Nat) : Nat := if 2 ^ 61 ≤ loc then sliceOf loc else 73 + Config.llcBank (loc / 64) % 512

/-- The table of a target has no room for n more entries. -/
def State.tableFull (s : State) (target n : Nat) : Bool := decide (8192 < (s.duplicates.filter fun d => d.target == target).length + n)

/-- Write an entry. -/
def State.note (s : State) (target : Nat) (ctx issuer : BitVec 32) (tag : BitVec 24) (result : Word) : State :=
  { s with duplicates := s.duplicates ++ [⟨target, ctx, issuer, tag, result⟩] }

/-- A class T operation of the current hart has taken effect at a target, and its result is on the way: the target keeps an entry (R370, R371). -/
def State.tagged (s : State) (target : Nat) (v : Word) : State :=
  (s.note target s.hart.sup.ctxid s.hart.tags.issuer s.hart.tags.value v).takeTags 1

/-- Copy commands that a hart has posted, those among them that have only their event to post. -/
def State.copiesOf (s : State) (id : Nat) : List CopyCmd :=
  s.dies.toList.flatMap fun d => d.copies.toList.flatMap fun q => q.filter fun c => c.hart == id && !c.ladle && !c.orphan

/-- Tags of the current hart that are not confirmed: in a duplicate table or on an operation that has not taken effect (R370). -/
def State.unconfirmed (s : State) : Nat :=
  let h := s.hart
  let mine := s.duplicates.filter fun d => d.ctx == h.sup.ctxid && d.issuer == h.tags.issuer
  mine.length + ((s.outstanding h.id).filter fun a => a.classT && !a.performed).length +
  (s.trains.filter fun t => t.hart == h.id && !t.orphan).length +
  (s.appends.filter fun a => a.hart == h.id && a.post == .due).foldl (fun n a => n + a.count) 0 +
  ((s.copiesOf h.id).filter fun c => c.overlap && !c.executed).length

/-- The current hart cannot take n more tags (R370). -/
def State.tagsFull (s : State) (n : Nat) : Bool := decide (8192 < s.unconfirmed + n)

/-- Work that carries a tag of an issuer is on its way (R371). -/
def State.carries (s : State) (ctx issuer : BitVec 32) (tag : BitVec 24) : Bool :=
  (s.accesses ++ s.orphans).any (fun a => a.carriesTag && a.ctx == ctx && a.issuer == issuer && a.tag == tag) ||
  s.trains.any (fun t => t.ctx == ctx && t.issuer == issuer && t.tag == tag) ||
  s.dies.toList.any fun d => d.copies.toList.any fun q => q.any fun c => c.overlap && c.ctx == ctx && c.issuer == issuer && c.tag == tag

/-- The issuer of an entry has received its response: nothing carries the tag any more, and no frozen or held record names the issuer (DEDUCED, log entry 36). -/
def State.confirmable (s : State) (d : Duplicate) : Bool :=
  !s.carries d.ctx d.issuer d.tag && !(s.parked.any fun p => p.ctx == d.ctx && p.issuer == d.issuer) &&
  s.harts.all fun h => match h.ifr with
    | some r => !(r.context == d.ctx && r.issuer == d.issuer)
    | none => true

/-! ### The order in which accesses are performed -/

/-- Two byte ranges overlap. -/
def overlaps (a n b m : Nat) : Bool := decide (a < b + m) && decide (b < a + n)

/-- Two accesses belong to one vector instruction. -/
def Access.sameGroup (a b : Access) : Bool := match a.elem, b.elem with
  | some x, some y => x.1 == y.1
  | _, _ => false

/-- The hart waits for its response: it reads or writes. -/
def Access.owed (a : Access) : Bool := a.reads || a.writes

/-- A release, with what its hart issued before it. -/
def Access.released (a b : Access) : Bool := b.release && !a.sameGroup b

/-- An earlier access is ordered before another of the same hart: an octet's accesses to one slice and scalar accesses to the same bytes in program order (R99,
R100), one instruction's elements at one place in index order (R107), and everything older before a release (R103). -/
def Access.ahead (a b : Access) : Bool :=
  a.hart == b.hart && a.owed && (a.released b || (a.sameGroup b && overlaps a.loc a.op.size b.loc b.op.size) ||
    (a.side == b.side && (if b.side = 0 then overlaps a.loc a.op.size b.loc b.op.size else sliceOf a.loc == sliceOf b.loc)))

/-- An earlier access stands before another: they are performed in their order, and a release when everything older has been answered (R375). -/
def Access.before (a b : Access) : Bool := a.ahead b && (!a.performed || a.released b)

/-- The response of the k-th access waits for those of accesses that are ordered before it: what a replay performs again never lands on what is younger (R369)
(DEDUCED, log entry 75). -/
def State.outOfOrder (s : State) (k : Nat) (a : Access) : Bool := (s.accesses.take k).any fun b => b.ahead a

/-- A horizon discards a stale request (R372). -/
def State.stale (s : State) (ctx issuer : BitVec 32) (epoch : BitVec 8) (replay : Bool) : Bool :=
  !replay && s.horizons.any fun h => h.1 == ctx && h.2.1 == issuer && decide ((h.2.2 - epoch).toNat < 128)

/-- An access of the current hart has not been performed, as far as the hart knows: its response has not come (DEDUCED, log entry 75). -/
def State.unperformed (s : State) : Bool := (s.outstanding s.hart.id).any (·.owed)

/-- What acts after every earlier access of the hart has been performed: a release (R103), or a wait. -/
def State.afterEarlier (s : State) (i : Instr) (f : State → State) : State := if s.unperformed then s.waits i else f s

/-! ### Performing, binding, acknowledging -/

/-- An access waits at its target because the duplicate table there is full (R371). -/
def State.heldAtTarget (s : State) (a : Access) : Bool := a.classT && s.tableFull (dupSlice a.loc) 1

/-- An access acts at its slice; one of class T leaves its entry in the table there. -/
def State.perform (s : State) (a : Access) : State :=
  let t : State := { s with mem := a.write s.mem }
  if a.classT then t.note (dupSlice a.loc) a.ctx a.issuer a.tag (a.read s.mem) else t

/-- The micro-op of an element access has not issued at its memory port (R308). -/
def State.atPort (s : State) (a : Access) : Bool := match a.elem with
  | none => false
  | some e => (s.windows a.hart).any fun w => w.order == e.1 && w.unissued.any fun p => p.1 == a.group

/-- Replace an entry of the list of accesses. -/
def State.setAccess (s : State) (k : Nat) (a : Access) : State := { s with accesses := s.accesses.set k a }

/-- Vector instructions of which no element access is outstanding leave. -/
def State.pruneGroups (s : State) : State :=
  { s with vgroups := s.vgroups.filter fun v => s.accesses.any fun a => match a.elem with
      | some e => e.1 == v.grp
      | none => false }

/-- Access k is gone. -/
def State.dropAccess (s : State) (k : Nat) : State := ({ s with accesses := s.accesses.eraseIdx k } : State).pruneGroups

/-- Write a register of a bank, x0 excepted. -/
def Hart.wbank (h : Hart) (sup : Bool) (rd : XReg) (v : Word) : Hart :=
  if rd = 0 then h else if sup then { h with sx := h.sx.set rd.val v rd.isLt } else { h with x := h.x.set rd.val v rd.isLt }

/-- The value that a performed access has read binds in its hart (R363); a VAMO of floats raises the flags of its addition (R263). -/
def Hart.bindValue (h : Hart) (a : Access) : Hart :=
  match a.op with
  | .load rd _ _ => h.wbank a.sup rd a.value
  | .amo rd _ _ _ => h.wbank a.sup rd a.value
  | .sync xd _ _ _ _ => h.wbank a.sup xd a.value
  | .vload v pos n nibble => h.wv v (putBits (h.rv v) pos (if nibble.isSome then 4 else 8 * n) a.value.toNat)
  | .vamo v pos n op ty mode rnd x =>
    let g := h.wv v (putBits (h.rv v) pos (8 * n) a.value.toNat)
    { g with csr := { g.csr with fflags := g.csr.fflags ||| (vamoRes (VamoOp.ofCode op) ty (RMode.ofCode mode.toNat) rnd a.value.toNat x).flags } }
  | _ => h

/-- R363: a response binds its value; one for a frozen hart is discarded and its item stays in the record. -/
def execLoadValueBound (k : Nat) (s : State) : Out :=
  match s.accesses[k]? with
  | none => .next s
  | some a =>
    if a.reads && a.performed && !s.outOfOrder k a then
      .next ((s.dropAccess k).updHart a.hart fun h => if h.freeze == Freeze.frozen && !a.sup then h else h.bindValue a)
    else .next s

/-- R102, R363: the acknowledgement of a performed store arrives and retires it. -/
def execStoreAcknowledge (k : Nat) (s : State) : Out :=
  match s.accesses[k]? with
  | none => .next s
  | some a => .next (if a.performed && a.writes && !a.reads && !s.outOfOrder k a then s.dropAccess k else s)

/-- R371: the issuer confirms a class T response that it has received, and the target frees its entry. -/
def execTagConfirm (k : Nat) (s : State) : Out :=
  match s.duplicates[k]? with
  | none => .next s
  | some d => .next (if s.confirmable d then { s with duplicates := s.duplicates.eraseIdx k } else s)

/-! ### Progress of a waiting hart -/

/-- The next device step of the oldest access of a hart: its request travels, it is performed, or its response arrives. -/
def State.accessDue (s : State) (id : Nat) : List Due :=
  match s.accesses.findIdx? fun a => a.hart == id && a.owed with
  | some k => match s.accesses[k]? with
    | some a => [if !a.performed && a.unsent then .meshTick else if !a.performed then .accessPerformed k else if a.reads then .loadValueBound k else .storeAcknowledge k]
    | none => []
  | none => []

/-- The first entry of a duplicate table whose response has been received. -/
def State.confirmDue (s : State) : List Due :=
  match s.duplicates.findIdx? s.confirmable with
  | some k => [.tagConfirm k]
  | none => []

/-! ### Queueing value-returning accesses (DESIGN CHOICE, log entry 7) -/

/-- Queue a scalar load or an acquire. -/
def State.queueLoad (s : State) (loc : Nat) (va : Word) (rd : XReg) (n : Nat) (signed : Bool) (acquire : Option (BitVec 3)) : State :=
  s.enqueue { s.newAccess 0 loc va (.load rd n signed) with acquire := acquire.isSome, scope := acquire.getD 0 }

/-- The ord bits of an atomic: release, acquire (Table 4.6). -/
def ordRelease (ord : BitVec 2) : Bool := ord.getLsbD 1

/-- The acquire bit of an ord code. -/
def ordAcquire (ord : BitVec 2) : Bool := ord.getLsbD 0

end Sys2Proof.Machine
end

