-- ==== Sys2Proof/Machine/Trivet.lean ====
section
/-! DEFINITION. The Trivet (R286 to R290, R351, R354, R361, R362): its elements, the SYNC instructions and the driver's settings. -/

namespace Sys2Proof.Machine

/-- A semaphore after reset. -/
def Sem.zero : Sem := ⟨0, []⟩

/-- A barrier after reset: n = 0 (R362). -/
def Barrier.zero : Barrier := ⟨0, 0, 0, false, []⟩

/-- A reduction cell after reset: n = 0 (R362). -/
def Cell.zero : Cell := ⟨0, 0, 0, 0, []⟩

/-- Counter kind. -/
def kCounter : Nat := 1
/-- Barrier kind. -/
def kBarrier : Nat := 2
/-- Semaphore kind. -/
def kSem : Nat := 3
/-- Reduction cell kind. -/
def kCell : Nat := 4

/-- Count, base and granule of a kind in a SYNCBASE, and the bound on base + count (R354). -/
def namespaceOf (base kind : Nat) : Nat × Nat × Nat × Nat :=
  match kind with
  | 1 => (bitsOf base 15 8, bitsOf base 7 0, 256, 256)
  | 2 => (bitsOf base 31 24, bitsOf base 23 16, 16, 160)
  | 3 => (bitsOf base 47 40, bitsOf base 39 32, 16, 256)
  | _ => (bitsOf base 63 56, bitsOf base 55 48, 4, 256)

/-- The physical element of a handle of a kind in a namespace (R286, R354). -/
def syncElem (base : Word) (kind : Nat) (handle : Word) : Option Nat :=
  let h := handle.toNat
  let (count, b, g, bound) := namespaceOf base.toNat kind
  if h < 2 ^ 32 ∧ bitsOf h 31 28 = kind ∧ b + count ≤ bound ∧ bitsOf h 27 0 < count * g then some (b * g + bitsOf h 27 0) else none

/-- The gang of an id. -/
def State.gang (s : State) (id : Nat) : Option Gang := s.launch.gangs.find? fun g => g.id == id

/-- The element of a handle for the current hart: GANGBAR names the barrier of its gang whatever SYNCBASE holds (R351). -/
def State.syncElemOf (s : State) (kind : Nat) (handle : Word) : Option Nat :=
  if kind = kBarrier ∧ handle = 0x28000000 then (s.gang s.hart.job.gang).map fun g => g.barrier
  else syncElem s.hart.sup.syncbase kind handle

/-- Write the Trivet. -/
def State.setTrivet (s : State) (f : Trivet → Trivet) : State := { s with trivet := f s.trivet }

/-- A counter's value. -/
def State.counter (s : State) (e : Nat) : Word := Sparse.get (0 : Word) s.trivet.counters e

/-- A barrier. -/
def State.barrier (s : State) (e : Nat) : Barrier := Sparse.get Barrier.zero s.trivet.barriers e

/-- A semaphore. -/
def State.sem (s : State) (e : Nat) : Sem := Sparse.get Sem.zero s.trivet.sems e

/-- A reduction cell. -/
def State.cell (s : State) (e : Nat) : Cell := Sparse.get Cell.zero s.trivet.cells e

/-- Change a counter. -/
def State.setCounter (s : State) (e : Nat) (v : Word) : State := s.setTrivet fun t => { t with counters := Sparse.set 0 t.counters e v }

/-- Change a barrier. -/
def State.setBarrier (s : State) (e : Nat) (b : Barrier) : State :=
  s.setTrivet fun t => { t with barriers := Sparse.set Barrier.zero t.barriers e b }

/-- Change a semaphore. -/
def State.setSem (s : State) (e : Nat) (x : Sem) : State := s.setTrivet fun t => { t with sems := Sparse.set Sem.zero t.sems e x }

/-- Change a reduction cell. -/
def State.setCell (s : State) (e : Nat) (c : Cell) : State := s.setTrivet fun t => { t with cells := Sparse.set Cell.zero t.cells e c }

/-- A context entry of the launch block that nothing has written. -/
def CtxEntry.zero : CtxEntry := ⟨0, 0, 0, 0, 0, 0, false, false⟩

/-- A context entry. -/
def State.ctxEntry (s : State) (c : Nat) : CtxEntry := Sparse.get CtxEntry.zero s.launch.ctxs c

/-- The counter element of a handle in the Ladle context (R404, R412). -/
def State.ladleCounter (s : State) (handle : BitVec 32) : Option Nat :=
  syncElem (s.ctxEntry s.ladle.ctx).syncbase kCounter (handle.setWidth 64)

/-- Something that the distributor waits for may have changed (R339, R344, R347): a held push is tried again, and the selected record's gang is bound or a record
is selected, when resources and waits allow it. -/
def State.schedule (s : State) : State :=
  s.due ((if s.launch.held.isEmpty then [] else [.heldPushAccept]) ++
    if s.launch.selected.isSome then [.bindGang] else if s.launch.queues.any fun q => !q.recs.isEmpty then [.select] else [])

/-- Add to a counter. The distributor may now find a wait satisfied (R342); an add that raises the Ladle's TRIGGER counter causes a merge (R412). -/
def State.counterAdd (s : State) (e : Nat) (x : Word) : State :=
  let s1 := (s.setCounter e (s.counter e + x)).schedule
  if x ≠ 0 ∧ s.ladleCounter s.ladle.trigger = some e then
    { s1 with ladle := { s1.ladle with merges := s1.ladle.merges + 1 } }.due [.merge]
  else s1

/-- Write a register and move past a 64-bit instruction. -/
def State.ret8 (s : State) (rd : XReg) (v : Word) : State := (s.wx rd v).adv 8

/-- A SYNC as it was issued (R286): its destination, its op and type codes, its scope, the handle and the operand. -/
structure SyncOp where
  xd : XReg
  op : Nat
  ty : Nat
  sys : Bool
  handle : Word
  x : Word
  deriving DecidableEq, Repr

/-- The scope code of a SYNC: PKG, or SYS (R286, Table 3.5). -/
def SyncOp.scope (c : SyncOp) : BitVec 3 := if c.sys then 4 else 3

/-- A SYNC has acted, with a result on the way under its tag (R370, R371): it binds at once, or when its response arrives; an acquire until then
(R103, R363, DESIGN CHOICE, log entry 7). -/
def State.syncDone (s : State) (c : SyncOp) (v : Word) : State :=
  if s.relaxed then
    ((s.enqueue { s.newAccess 0 0 c.handle (.sync c.xd c.op c.ty c.sys c.x) with
      acquire := true, scope := c.scope, tag := s.hart.tags.value, performed := true, value := v }).tagged dupTrivet v).adv 8
  else (s.tagged dupTrivet v).ret8 c.xd v

/-- A SYNC under the check of its handle: it waits until it has a tag, until the Trivet's duplicate table has room, and, as a release, until everything
earlier of the hart has been performed (R103, R286, R370, R371) (DEDUCED, log entry 79). -/
def State.syncAt (s : State) (i : Instr) (xh : XReg) (e : Option Nat) (f : State → Nat → State) : State :=
  if s.tagsFull 1 || s.tableFull dupTrivet 1 then s.waits i
  else match e with
    | some e => s.afterEarlier i fun t => f t e
    | none => s.raise i .syncHandle (s.rx xh) 0

/-- A SYNC operation on an element of a kind (R286). -/
def State.syncOp (s : State) (i : Instr) (kind : Nat) (xh : XReg) (f : State → Nat → State) : State := s.syncAt i xh (s.syncElemOf kind (s.rx xh)) f

/-- SCNTADD's effect (Table 8.6). -/
def State.scntadd (s : State) (c : SyncOp) (e : Nat) : State := (s.counterAdd e c.x).syncDone c (s.counter e)

/-- SCNTWAIT: the value that satisfies it, or a wait. -/
def State.scntwait (s : State) (i : Instr) (c : SyncOp) (e : Nat) : State :=
  if c.x.toNat ≤ (s.counter e).toNat then s.syncDone c (s.counter e) else s.waits i

/-- Arrival at a barrier (R288). -/
def State.arrive (s : State) (c : SyncOp) (e : Nat) : State :=
  let b := s.barrier e
  if b.broken then s.syncDone c (BitVec.ofNat 64 (2 ^ 63 + b.phase.toNat))
  else
    let ctxs := if b.ctxs.contains s.hart.sup.ctxid then b.ctxs else b.ctxs ++ [s.hart.sup.ctxid]
    let b' := if b.arrived + 1 = b.n then { b with arrived := 0, phase := b.phase + 1, ctxs := ctxs } else { b with arrived := b.arrived + 1, ctxs := ctxs }
    (s.setBarrier e b').syncDone c (b.phase.setWidth 64)

/-- SBARWAIT: 0 once the phase has passed, 1 on BROKEN, or a wait. -/
def State.sbarwait (s : State) (i : Instr) (c : SyncOp) (e : Nat) : State :=
  let b := s.barrier e
  if b.broken then s.syncDone c 1
  else if b.phase ≠ c.x.setWidth 32 then s.syncDone c 0
  else s.waits i

/-- Leave a semaphore's row of waiters. -/
def Sem.leave (x : Sem) (hart : Nat) : Sem := { x with waiters := x.waiters.filter fun w => w.1 != hart }

/-- SSEMACQ: taken when nobody waits before the hart and the value suffices, else the hart joins the row (first come, first served). -/
def State.ssemacq (s : State) (i : Instr) (c : SyncOp) (e : Nat) : State :=
  let x := s.sem e
  let want := c.x
  let first := match x.waiters with
    | [] => true
    | w :: _ => w.1 == s.hart.id
  if first && decide (want.toNat ≤ x.value.toNat) then
    (s.setSem e { x.leave s.hart.id with value := x.value - want }).syncDone c (x.value - want)
  else if x.waiters.any (fun w => w.1 == s.hart.id) then s.waits i
  else (s.setSem e { x with waiters := x.waiters ++ [(s.hart.id, want)] }).waits i

/-- SSEMREL: the sum saturates at 2^64 - 1. -/
def State.ssemrel (s : State) (c : SyncOp) (e : Nat) : State :=
  let x := s.sem e
  let v : Word := if 2 ^ 64 ≤ x.value.toNat + c.x.toNat then BitVec.allOnes 64 else x.value + c.x
  (s.setSem e { x with value := v }).syncDone c v

/-- The type code of a cell type (Table 14.2): F32, F64 or I64. -/
def cellTy (t : BitVec 2) : Nat := if t = 0 then 0 else if t = 1 then 14 else 16

/-- The combination of a round: +0, then one rounded addition per participant in index order (R80). -/
def combine (ty : Nat) (xs : List Nat) : Nat :=
  xs.foldl (fun acc c =>
    if ty = 16 then intCode 16 (clampInt 16 (intOf 16 acc + intOf 16 c)).1 else (arithRes ty 0 .rne 0 acc c).code) 0

/-- A contribution of participant p is refused (R289). -/
def Cell.refuses (c : Cell) (p : Word) : Bool := decide (c.n ≤ p.toNat) || c.contrib.any fun x => x.1 == p.toNat

/-- Record a contribution; the last one closes the round (R289, R80). -/
def Cell.add (c : Cell) (p : Word) (v : Word) : Cell :=
  let l := Sparse.set (0 : Nat) (c.contrib.map fun x => (x.1, x.2.toNat + 1)) p.toNat (v.toNat + 1)
  if l.length = c.n then
    { c with rounds := c.rounds + 1, contrib := [],
             result := BitVec.ofNat 64 (combine (cellTy c.ty) (l.map fun x => (x.2 - 1) % 2 ^ tyBits (cellTy c.ty))) }
  else { c with contrib := l.map fun x => (x.1, BitVec.ofNat 64 (x.2 - 1)) }

/-- The element of a cell handle of the type named: n = 0 and another type are refused (R286, R362). -/
def State.cellAt (s : State) (handle : Word) (ty : BitVec 3) : Option Nat :=
  match s.syncElemOf kCell handle with
  | some e => if (s.cell e).n = 0 ∨ (s.cell e).ty.toNat ≠ ty.toNat then none else some e
  | none => none

/-- The cell that a register names. -/
def State.cellElem (s : State) (xh : XReg) (ty : BitVec 3) : Option Nat := s.cellAt (s.rx xh) ty

/-- The element that a SYNC names by its op and type codes and its handle (R286, R289, R362), none where it raises SYNC_HANDLE. -/
def State.syncTarget (s : State) (op : Nat) (ty : BitVec 3) (handle : Word) : Option Nat :=
  match op with
  | 0 | 1 | 2 => s.syncElemOf kCounter handle
  | 3 | 4 => (s.syncElemOf kBarrier handle).filter fun e => (s.barrier e).n != 0
  | 5 | 6 => s.syncElemOf kSem handle
  | _ => s.cellAt handle ty

/-- SREDADD: a refusal is a precise trap with xd unchanged (R289). -/
def State.sredadd (s : State) (i : Instr) (xh : XReg) (c : SyncOp) (e : Nat) : State :=
  let k := s.cell e
  if k.refuses (s.rx c.xd) then s.raise i .syncHandle (s.rx xh) 0
  else (s.setCell e (k.add (s.rx c.xd) c.x)).syncDone c ((k.rounds + 1).setWidth 64)

/-- SREDGET: the result of the latest round once enough rounds have closed, or a wait. -/
def State.sredget (s : State) (i : Instr) (c : SyncOp) (e : Nat) : State :=
  let k := s.cell e
  if (c.x.setWidth 32).toNat ≤ k.rounds.toNat then s.syncDone c k.result else s.waits i

/-- R287: SCNTADD. -/
def execScntadd (xd xh xv : XReg) (sys : Bool) (s : State) : Out :=
  .next (s.syncOp (.scntadd xd xh xv sys) kCounter xh fun t e => t.scntadd ⟨xd, 0, 0, sys, s.rx xh, s.rx xv⟩ e)

/-- R287: SCNTRD. -/
def execScntrd (xd xh : XReg) (sys : Bool) (s : State) : Out :=
  .next (s.syncOp (.scntrd xd xh sys) kCounter xh fun t e => t.syncDone ⟨xd, 1, 0, sys, s.rx xh, 0⟩ (t.counter e))

/-- R287: SCNTWAIT. -/
def execScntwait (xd xh xv : XReg) (sys : Bool) (s : State) : Out :=
  let i := Instr.scntwait xd xh xv sys
  .next (s.syncOp i kCounter xh fun t e => t.scntwait i ⟨xd, 2, 0, sys, s.rx xh, s.rx xv⟩ e)

/-- A barrier element with participants: n = 0 raises SYNC_HANDLE (R362). -/
def State.barrierOp (s : State) (i : Instr) (xh : XReg) (f : State → Nat → State) : State :=
  s.syncOp i kBarrier xh fun t e => if (t.barrier e).n = 0 then t.raise i .syncHandle (s.rx xh) 0 else f t e

/-- R288: SBARARR. -/
def execSbararr (xd xh : XReg) (sys : Bool) (s : State) : Out :=
  .next (s.barrierOp (.sbararr xd xh sys) xh fun t e => t.arrive ⟨xd, 3, 0, sys, s.rx xh, 0⟩ e)

/-- R288: SBARWAIT. -/
def execSbarwait (xd xh xv : XReg) (sys : Bool) (s : State) : Out :=
  let i := Instr.sbarwait xd xh xv sys
  .next (s.barrierOp i xh fun t e => t.sbarwait i ⟨xd, 4, 0, sys, s.rx xh, s.rx xv⟩ e)

/-- R287: SSEMACQ. -/
def execSsemacq (xd xh xv : XReg) (sys : Bool) (s : State) : Out :=
  let i := Instr.ssemacq xd xh xv sys
  .next (s.syncOp i kSem xh fun t e => t.ssemacq i ⟨xd, 5, 0, sys, s.rx xh, s.rx xv⟩ e)

/-- R287: SSEMREL. -/
def execSsemrel (xd xh xv : XReg) (sys : Bool) (s : State) : Out :=
  .next (s.syncOp (.ssemrel xd xh xv sys) kSem xh fun t e => t.ssemrel ⟨xd, 6, 0, sys, s.rx xh, s.rx xv⟩ e)

/-- R289: SREDADD. -/
def execSredadd (xd xh xv : XReg) (ty : BitVec 3) (sys : Bool) (s : State) : Out :=
  let i := Instr.sredadd xd xh xv ty sys
  .next (s.syncAt i xh (s.cellElem xh ty) fun t e => t.sredadd i xh ⟨xd, 7, ty.toNat, sys, s.rx xh, s.rx xv⟩ e)

/-- R289: SREDGET. -/
def execSredget (xd xh xv : XReg) (ty : BitVec 3) (sys : Bool) (s : State) : Out :=
  let i := Instr.sredget xd xh xv ty sys
  .next (s.syncAt i xh (s.cellElem xh ty) fun t e => t.sredget i ⟨xd, 8, ty.toNat, sys, s.rx xh, s.rx xv⟩ e)

/-! ### Steps of the Trivet -/

/-- The state of a device step that always goes on. -/
def nextState (o : Out) (s : State) : State := match o with
  | .next t => t
  | _ => s

/-- R287: a waiting SCNTWAIT of a hart is satisfied. -/
def execScntwaitSatisfied (hart : Nat) (s : State) : Out :=
  .next (s.asHart hart fun t => match t.hart.wait with
    | some (.scntwait xd xh xv sys) => nextState (execScntwait xd xh xv sys t) t
    | _ => t)

/-- R288: a waiting SBARWAIT of a hart is released, by the phase or by BROKEN. -/
def execSbarwaitRelease (hart : Nat) (s : State) : Out :=
  .next (s.asHart hart fun t => match t.hart.wait with
    | some (.sbarwait xd xh xv sys) => nextState (execSbarwait xd xh xv sys t) t
    | _ => t)

/-- R287: the first waiter of a semaphore is granted when the value suffices. -/
def execSsemacqGrant (sem : Nat) (s : State) : Out :=
  match (s.sem sem).waiters with
  | [] => .next s
  | (h, _) :: _ => .next (s.asHart h fun t => match t.hart.wait with
    | some (.ssemacq xd xh xv sys) => nextState (execSsemacq xd xh xv sys t) t
    | _ => t)

/-- R289: a waiting SREDGET of a hart is satisfied. -/
def execSredgetSatisfied (hart : Nat) (s : State) : Out :=
  .next (s.asHart hart fun t => match t.hart.wait with
    | some (.sredget xd xh xv ty sys) => nextState (execSredget xd xh xv ty sys t) t
    | _ => t)

/-- R361: TRVRESET of a barrier: the arrivals and BROKEN are cleared, the phase stays. -/
def execTrvresetBarrier (i : Nat) (s : State) : Out :=
  .next (if i < 4096 then s.setBarrier i { s.barrier i with arrived := 0, broken := false, ctxs := [] } else s)

/-- R361: TRVRESET of a semaphore. -/
def execTrvresetSemaphore (i : Nat) (v : BitVec 32) (s : State) : Out :=
  .next (if i < 4096 then s.setSem i { s.sem i with value := v.setWidth 64 } else s)

/-- R362: TRVSET of a counter takes TRVDATA; the distributor may now find a wait satisfied (R344). -/
def execTrvsetCounter (i : Nat) (s : State) : Out :=
  .next (if i < 65536 then (s.setCounter i s.trivet.trvdata).schedule else s)

/-- R362: TRVSET of a barrier; a gang barrier and a count out of range are ignored. -/
def execTrvsetBarrier (i : Nat) (n : Nat) (s : State) : Out :=
  .next (if i < 2560 ∧ 1 ≤ n ∧ n ≤ 1536 then s.setBarrier i ⟨n, 0, 0, false, []⟩ else s)

/-- R362: TRVSET of a semaphore takes TRVDATA. -/
def execTrvsetSemaphore (i : Nat) (s : State) : Out :=
  .next (if i < 4096 then s.setSem i { s.sem i with value := s.trivet.trvdata } else s)

/-- R362: TRVSET of a reduction cell. -/
def execTrvsetCell (i : Nat) (n : Nat) (ty : Nat) (s : State) : Out :=
  .next (if i < 1024 ∧ 1 ≤ n ∧ n ≤ 1536 ∧ ty < 3 then s.setCell i ⟨BitVec.ofNat 2 ty, n, 0, 0, []⟩ else s)

/-- A write of TRVRESET (Table 14.2). -/
def State.writeTrvreset (s : State) (v : Nat) : State :=
  match bitsOf v 31 28 with
  | 2 => nextState (execTrvresetBarrier (bitsOf v 11 0) s) s
  | 3 => nextState (execTrvresetSemaphore (bitsOf v 11 0) (BitVec.ofNat 32 (v / 2 ^ 32)) s) s
  | _ => s

/-- A write of TRVSET (Table 14.2). -/
def State.writeTrvset (s : State) (v : Nat) : State :=
  let i := bitsOf v 15 0
  match bitsOf v 31 28 with
  | 1 => nextState (execTrvsetCounter i s) s
  | 2 => nextState (execTrvsetBarrier i (bitsOf v 47 32) s) s
  | 3 => nextState (execTrvsetSemaphore i s) s
  | 4 => nextState (execTrvsetCell i (bitsOf v 47 32) (bitsOf v 27 26) s) s
  | _ => s

end Sys2Proof.Machine
end

