-- ==== Sys2Proof/Machine/Launch.lean ====
section
/-! DEFINITION. Launch queues and the gang scheduler (R337 to R356, R457): pushes, selection, binding and completion. -/

namespace Sys2Proof.Machine

/-- Write the launch block. -/
def State.setLaunch (s : State) (f : LaunchBlock → LaunchBlock) : State := { s with launch := f s.launch }

/-- A queue. -/
def State.queue (s : State) (q : Nat) : Queue := s.launch.queues.get (Fin.ofNat 64 q)

/-- Change a queue. -/
def State.updQueue (s : State) (q : Nat) (f : Queue → Queue) : State :=
  s.setLaunch fun l => { l with queues := l.queues.set (Fin.ofNat 64 q).val (f (l.queues.get (Fin.ofNat 64 q))) (Fin.ofNat 64 q).isLt }

/-- The number in bytes lo to lo + n - 1 of a list. -/
def field (b : List Byte) (lo n : Nat) : Nat := leNat ((b.drop lo).take n)

/-- The fields of a 64-byte launch record (Table 13.2). -/
def parseRecord (b : List Byte) (pusher : Option Pusher) : LaunchRec :=
  { entry := BitVec.ofNat 64 (field b 0 8), arg := BitVec.ofNat 64 (field b 8 8)
    gx := field b 0x10 4, gy := field b 0x14 4, gz := field b 0x18 4, gangHarts := field b 0x1C 2
    octMin := field b 0x1E 1, octMax := field b 0x1F 1, placement := field b 0x20 1
    dieMask := BitVec.ofNat 8 (field b 0x21 1), dsmWays := field b 0x22 1, flags := BitVec.ofNat 8 (field b 0x23 1)
    ctx := BitVec.ofNat 32 (field b 0x24 4), waitA := BitVec.ofNat 32 (field b 0x28 4), waitAVal := BitVec.ofNat 32 (field b 0x2C 4)
    waitB := BitVec.ofNat 32 (field b 0x30 4), waitBVal := BitVec.ofNat 32 (field b 0x34 4)
    done := BitVec.ofNat 32 (field b 0x38 4), doneVal := BitVec.ofNat 32 (field b 0x3C 4), pusher := pusher }

/-- The dies of a mask; 0 means every die for placements 0 and 1 (R347). -/
def LaunchRec.dies (r : LaunchRec) : List Nat := (List.range 8).filter fun d => r.dieMask == 0 || r.dieMask.getLsbD d

/-- A canonical virtual address (R85). -/
def canonical (va : Word) : Bool := bitsOf va.toNat 63 57 == (if bitOf va.toNat 56 then 127 else 0)

/-- A counter handle in a context's namespace (Table 13.2). -/
def State.ctxCounter (s : State) (ctx : BitVec 32) (handle : BitVec 32) : Option Nat :=
  syncElem (s.ctxEntry ctx.toNat).syncbase kCounter (handle.setWidth 64)

/-- A wait handle: none, or a counter (Table 13.2). -/
def State.waitHandleOk (s : State) (ctx handle : BitVec 32) : Bool := handle == BitVec.allOnes 32 || (s.ctxCounter ctx handle).isSome

/-- The placement limits (R341). -/
def LaunchRec.placementOk (r : LaunchRec) : Bool :=
  match r.placement with
  | 0 => true
  | 1 => decide (r.gangHarts ≤ 48)
  | 2 => r.dieMask != 0 && decide (r.gangHarts ≤ 48 * octetCount r.dieMask)
  | 3 => r.dieMask != 0 && r.gangHarts == octetCount r.dieMask
  | _ => false

/-- Every field is inside the limits of Table 13.2 and the context entry is valid and not killed (R340, R341). -/
def State.recordOk (s : State) (r : LaunchRec) : Bool :=
  r.entry.toNat % 8 == 0 && canonical r.entry && decide (r.gx < 2 ^ 24) && decide (r.gy < 2 ^ 20) && decide (r.gz < 2 ^ 20) &&
  decide (1 ≤ r.gangHarts) && decide (r.gangHarts ≤ 384) && decide (1 ≤ r.octMin) && decide (r.octMin ≤ r.octMax) && decide (r.octMax ≤ 8) &&
  r.placementOk && decide (r.dsmWays ≤ 24) && r.dsmWays % 4 == 0 && r.flags.toNat / 16 == 0 && decide (r.ctx.toNat < 4096) &&
  (s.ctxEntry r.ctx.toNat).valid && !(s.ctxEntry r.ctx.toNat).killed &&
  s.waitHandleOk r.ctx r.waitA && s.waitHandleOk r.ctx r.waitB && (!r.flags.getLsbD 2 || (s.ctxCounter r.ctx r.done).isSome)

/-- Launches are allowed: life-cycle state DEPLOYED and no zero-fill running (Table 18.6, R433). -/
def State.launchesAllowed (s : State) : Bool := s.mgmt.lcstate == 2 && !s.mgmt.fill

/-- Offer a record to a queue (R340): the LAUNCH status and the state; `dev` says that device code pushes. -/
def State.offer (s : State) (q : Nat) (r : LaunchRec) (dev : Bool) : Nat × State :=
  let k := s.queue q
  if !s.launchesAllowed || !k.opened || r.ctx != k.own then (3, s.updQueue q fun k => { k with lasterr := 3 })
  else if dev && (!k.devpush || r.ctx != s.hart.sup.ctxid) then (3, s.updQueue q fun k => { k with lasterr := 3 })
  else if !s.recordOk r then (2, s.updQueue q fun k => { k with malformed := k.malformed + 1, lasterr := 2 })
  else if 256 ≤ k.recs.length then (1, s.updQueue q fun k => { k with refused := k.refused + 1, lasterr := 1 })
  else (0, (s.updQueue q fun k => { k with recs := k.recs ++ [⟨r, 0, 0⟩] }).schedule)

/-- A host write to a window, none when its queue is full (R338 to R340). A push that the queue takes, or refuses otherwise, completes without an error. -/
def State.tryPush (s : State) (q off : Nat) (bytes : List Byte) : Option State :=
  if off ≠ 0 ∨ bytes.length ≠ 64 then some (s.updQueue q fun k => { k with malformed := k.malformed + 1, lasterr := 2 })
  else
    let (st, s') := s.offer q (parseRecord bytes none) false
    if st = 1 then none else some { s' with outside := { s'.outside with pushError := false } }

/-- Flow control holds a host write behind those it already holds (R339). -/
def State.holdPush (s : State) (q off : Nat) (bytes : List Byte) : State := s.setLaunch fun l => { l with held := l.held ++ [⟨q, off, bytes⟩] }

/-- A host write to a window (R338, R339): a full queue holds it. -/
def State.hostPush (s : State) (q off : Nat) (bytes : List Byte) : State := (s.tryPush q off bytes).getD (s.holdPush q off bytes)

/-- A write to a window of the block: while one is held, later ones wait behind it (R338, R339). -/
def State.windowStore (s : State) (q off : Nat) (bytes : List Byte) : State :=
  if s.launch.held.isEmpty then s.hostPush q off bytes else s.holdPush q off bytes

/-- A write of n bytes that is no register access (R423): one to a queue's record window counts there as malformed (R338), any other is discarded. -/
def State.shortWrite (s : State) (off n : Nat) (v : Word) : State :=
  if 0x210000 ≤ off ∧ off < 0x250000 then s.windowStore ((off - 0x210000) / 0x1000) (off % 0x1000) (leBytes n v.toNat) else s

/-- The runtime firmware has opened BAR0 to the host (R429). -/
def State.bar0Open (s : State) : Bool := s.mgmt.bootStage == 3

/-- R338: a host write to a queue window; while one is held, later ones wait behind it (R339). -/
def execHostPush (q off : Nat) (bytes : List (BitVec 8)) (s : State) : Out :=
  .next (if s.bar0Open then s.windowStore q off bytes else s)

/-- R339: the held write is tried again, accepted or refused once its queue has a free slot, and the next one follows. -/
def execHeldPushAccept (s : State) : Out :=
  match s.launch.held with
  | [] => .next s
  | h :: t => .next (match s.tryPush h.q h.off h.bytes with
    | some s1 => (s1.setLaunch fun l => { l with held := t }).due (if t.isEmpty then [] else [.heldPushAccept])
    | none => s)

/-- R339: after 1 ms a write that its full queue still holds completes with an error status. -/
def execHostPushTimeout (s : State) : Out :=
  match s.launch.held with
  | [] => .next s
  | h :: t =>
    let s1 := match s.tryPush h.q h.off h.bytes with
      | some s1 => s1
      | none =>
        let s1 := s.updQueue h.q fun k => { k with refused := k.refused + 1, lasterr := 1 }
        { s1 with outside := { s1.outside with pushError := true } }
    .next ((s1.setLaunch fun l => { l with held := t }).due (if t.isEmpty then [] else [.heldPushAccept]))

/-- A wait is satisfied (R342). A record's waits are read in the namespace that its context's entry holds at the selection; R355 fixes a launch's namespace from its
binding on and does not speak of a record that is queued while the entry changes (DESIGN CHOICE, log entry 80). -/
def State.waitMet (s : State) (ctx handle val : BitVec 32) : Bool :=
  handle == BitVec.allOnes 32 || match s.ctxCounter ctx handle with
    | some e => decide (val.toNat ≤ (s.counter e).toNat)
    | none => false

/-- The launches with bound gangs that have not completed are below 4,096 (R346). -/
def State.launchRoom (s : State) : Bool := decide (s.launch.launches.length < 4096)

/-- A queue's head can be selected (R344, R346). Its waits are read afresh at every selection, also after one that timed out: R342 does not say that a wait once found
satisfied stays so (DESIGN CHOICE, log entry 80). -/
def State.eligible (s : State) (q : Nat) : Bool :=
  match (s.queue q).recs with
  | [] => false
  | r :: _ => decide (0 < r.bound) ||
      (s.waitMet r.record.ctx r.record.waitA r.record.waitAVal && s.waitMet r.record.ctx r.record.waitB r.record.waitBVal && s.launchRoom)

/-- The pins of holders that pass a test are released at every level; a line that nobody pins any more leaves (R97). -/
def State.releasePins (s : State) (gone : BitVec 32 × Nat → Bool) : State :=
  { s with pins := (s.pins.map fun p => { p with holders := p.holders.filter fun h => !gone h }).filter fun p => !p.holders.isEmpty }

/-- The hart that a pusher is bound to: its context and issuer number stay with it (R173, R370). -/
def State.pusherHart (s : State) (p : Pusher) : Option Nat :=
  (s.harts.find? fun h => h.bound && h.sup.ctxid == p.ctx && h.tags.issuer == p.issuer).map (·.id)

/-- Post the kind 4 record of a launch to the hart that pushed it; when that has halted the record is dropped (R173). -/
def State.tellPusher (s : State) (r : LaunchRec) (detail : Nat) : State :=
  match r.pusher with
  | some p => match s.pusherHart p with
    | some h => s.postEvent h { kind := 4, detail := BitVec.ofNat 8 detail, payload := p.addr } .launch
    | none => s
  | none => s

/-- The end of a launch (R352): the done add in the namespace it was bound with (R343, R355), then the kind 4 event (R173). -/
def State.launchDone (s : State) (q : Nat) (r : LaunchRec) (syncbase : Word) : State :=
  let s1 := if r.flags.getLsbD 2 then match syncElem syncbase kCounter (r.done.setWidth 64) with
      | some e => s.counterAdd e (r.doneVal.setWidth 64)
      | none => s
    else s
  s1.tellPusher r q

/-- Usable octets of a core (R455). -/
def State.usableOctets (s : State) (die core : Nat) : Nat :=
  8 - ((s.die die).octetsOut.filter fun o => o / 8 == core).length

/-- The cores of a die that could hold a member when every hart is idle (R457). -/
def State.capacity (s : State) (r : LaunchRec) (die : Nat) : Nat :=
  if (s.die die).state ≠ 0 ∨ (0 < r.dsmWays ∧ (s.die die).slicesOut ≠ []) then 0
  else ((List.range 48).filter fun c => s.coreUsable die c && decide (r.octMin ≤ s.usableOctets die c)).length

/-- How many members each die takes, given what each can hold (R347): the choice with the lowest dies (DESIGN CHOICE, log entry 11). -/
def LaunchRec.spread (r : LaunchRec) (cap : Nat → Nat) : Option (List (Nat × Nat)) :=
  match r.placement with
  | 0 =>
    let (left, l) := r.dies.foldl (fun (p : Nat × List (Nat × Nat)) d => let n := min p.1 (cap d); (p.1 - n, p.2 ++ [(d, n)])) (r.gangHarts, [])
    if left = 0 then some l else none
  | 1 => (r.dies.find? fun d => decide (r.gangHarts ≤ cap d)).map fun d => [(d, r.gangHarts)]
  | _ =>
    let n := r.dies.length
    let l := (List.range n).map fun i => (r.dies.getD i 0, r.gangHarts / n + if i < r.gangHarts % n then 1 else 0)
    if l.all fun p => decide (p.2 ≤ cap p.1) then some l else none

/-- A record of which a gang can never be placed on the package (R457). -/
def State.cannotFit (s : State) (r : LaunchRec) : Bool := (r.spread (s.capacity r)).isNone

/-- Remove the head record of a queue. -/
def State.popQueue (s : State) (q : Nat) : State :=
  let s1 := s.updQueue q fun k => { k with recs := k.recs.drop 1 }
  s1.due (if s1.launch.held.isEmpty then [] else [.heldPushAccept])

/-- A record that cannot fit leaves its queue (R457): an error of the queue, a kind 4 record with bit 7 of its detail set, and no completion add for a launch of
which gangs were bound; that launch ends with the last of them, at once when all have completed, and its pins are
released then (DESIGN CHOICE, log entry 80). -/
def State.removeUnfit (s : State) (q : Nat) (h : QueuedRec) : State :=
  let r := h.record
  let unbound := r.gx * r.gy * r.gz - h.bound
  let cut (x : Launch) : Launch := if x.id = h.launch ∧ 0 < h.bound then { x with killed := true, gangsLeft := x.gangsLeft - unbound } else x
  let ended (x : Launch) : Bool := x.killed && x.gangsLeft == 0
  let l := s.launch.launches.map cut
  let s1 := ((s.updQueue q fun k => { k with lasterr := 4 }).popQueue q).setLaunch fun b => { b with launches := l.filter (!ended ·) }
  (s1.releasePins fun p => (l.filter ended).any fun x => x.id == p.2).tellPusher r (q + 128)

/-- No record is selected any more, and the distributor selects again (R345). -/
def State.deselect (s : State) : State := (s.setLaunch fun l => { l with selected := none }).due [.select]

/-- The record at the head of a queue is zero-sized, of which no gang is bound (R346). -/
def QueuedRec.empty (h : QueuedRec) : Bool := h.bound == 0 && h.record.gx * h.record.gy * h.record.gz == 0

/-- The head of a queue ends at its selection: it is empty, or cannot fit (R346, R457). -/
def State.endsAtOnce (s : State) (q : Nat) : Bool := match (s.queue q).recs with
  | [] => false
  | h :: _ => h.empty || s.cannotFit h.record

/-- What follows a selection (R344): a zero-sized record completes (R346), one that cannot fit is removed (R457), others bind (DEDUCED, log entry 54). -/
def State.selectedHead (s : State) (q : Nat) : State :=
  match (s.queue q).recs with
  | [] => s
  | h :: _ =>
    let r := h.record
    if h.empty then ((s.launchDone q r (s.ctxEntry r.ctx.toNat).syncbase).popQueue q).deselect
    else if s.cannotFit r then (s.removeUnfit q h).deselect
    else s.due [.bindGang]

/-- R344: the distributor, when it holds no record, selects the head of a queue by priority and credit. The selection of a record that ends at once waits while the
record of an earlier completion has no room (R171, DESIGN CHOICE, log entry 66). -/
def State.select (s : State) : State :=
  if s.launch.selected.isSome then s
  else
    let elig := (List.range 64).filter s.eligible
    match elig with
    | [] => s
    | _ =>
      let p := elig.foldl (fun m q => max m (s.queue q).prio) 0
      let cand := elig.filter fun q => (s.queue q).prio == p
      let s1 := if cand.all fun q => (s.queue q).credit == 0 then
          cand.foldl (fun t q => t.updQueue q fun k => { k with credit := k.weight }) s
        else s
      match cand.find? fun q => decide (0 < (s1.queue q).credit) with
      | none => s1
      | some q => if s.isStalled .launch && s.endsAtOnce q then s else
        let s2 := (s1.updQueue q fun k => { k with credit := k.credit - 1 }).setLaunch fun l => { l with selected := some q }
        s2.selectedHead q

/-- R344: SELECT. -/
def execSelect (s : State) : Out := .next s.select

/-- R345: 100 µs pass without a binding. -/
def execSelectionTimeout (s : State) : Out := .next (if s.launch.selected.isSome then s.deselect else s)

/-- The octets of a core that no hart holds (R188, R348). -/
def State.freeOctets (s : State) (die core : Nat) : BitVec 8 :=
  let held := s.harts.foldl (fun (o : BitVec 8) h => if h.bound && dieOf h.id == die && coreOf h.id == core then o ||| h.vec.octets ||| h.grant.decided.getD 0 else o) 0
  let out := (s.die die).octetsOut.foldl (fun (o : BitVec 8) k => if k / 8 = core then o ||| (1 <<< (k % 8)) else o) 0
  ~~~ (held ||| out)

/-- The n lowest octets of a set (R348). -/
def lowestOctets (o : BitVec 8) (n : Nat) : BitVec 8 :=
  ((List.range 8).foldl (fun (p : Nat × BitVec 8) i => if 0 < p.1 ∧ o.getLsbD i then (p.1 - 1, p.2 ||| (1 <<< i)) else p) (n, 0)).2

/-- A hart is free: nothing is bound to it. -/
def State.hartFree (s : State) (id : Nat) : Bool := !(s.harts.any fun h => h.bound && h.id == id)

/-- A member of a record can be bound to a hart of a core (R347). -/
def State.memberFits (s : State) (r : LaunchRec) (id : Nat) : Bool :=
  s.coreUsable (dieOf id) (coreOf id) && s.hartFree id && decide (r.octMin ≤ octetCount (s.freeOctets (dieOf id) (coreOf id)))

/-- The DSM rule of a die (R347, R84, R455). -/
def State.dsmFits (s : State) (r : LaunchRec) (die : Nat) : Bool :=
  let held := Sparse.get 0 (s.die die).dsm r.ctx.toNat
  let used := (s.die die).dsm.foldl (fun n p => n + p.2) 0
  r.dsmWays == 0 || ((s.die die).slicesOut.isEmpty && (held == r.dsmWays || (held == 0 && decide (used + r.dsmWays ≤ 24))))

/-- The lowest free harts, one per core, of a die that can take members. -/
def State.candidates (s : State) (r : LaunchRec) (die : Nat) : List Nat :=
  if (s.die die).state ≠ 0 || !s.dsmFits r die then []
  else (List.range 48).filterMap fun c => ((List.range 4).map (mkHartId die c)).find? fun id => s.memberFits r id

/-- The choice of harts for a gang with the lowest dies, cores and harts (DESIGN CHOICE, log entry 11). -/
def State.lowestChoice (s : State) (r : LaunchRec) : List Nat :=
  match r.spread (fun d => (s.candidates r d).length) with
  | some l => l.flatMap fun p => (s.candidates r p.1).take p.2
  | none => []

/-- Strictly rising. -/
def rising : List Nat → Bool
  | a :: b :: t => decide (a < b) && rising (b :: t)
  | _ => true

/-- A choice of harts, in rank order, that R347 allows. -/
def State.choiceOk (s : State) (r : LaunchRec) (c : List Nat) : Bool :=
  let on (d : Nat) : Nat := (c.filter fun id => dieOf id == d).length
  c.length == r.gangHarts && rising c && rising (c.map (· / 4)) &&
  c.all (fun id => decide (id < 2048) && r.dies.contains (dieOf id) && s.memberFits r id && s.dsmFits r (dieOf id)) &&
  match r.placement with
  | 0 => true
  | 1 => c.all fun id => dieOf id == dieOf (c.headD 0)
  | _ => (List.range r.dies.length).all fun i => on (r.dies.getD i 0) == r.gangHarts / r.dies.length + if i < r.gangHarts % r.dies.length then 1 else 0

/-- The coordinates of a record's n-th gang, as GANGID holds them (R346). -/
def LaunchRec.gangId (r : LaunchRec) (n : Nat) : Word :=
  BitVec.ofNat 64 (n % r.gx + 2 ^ 24 * (n / r.gx % r.gy) + 2 ^ 44 * (n / (r.gx * r.gy)))

/-- The top of a hart's stack (R350). -/
def stackTop (id : Nat) : Word := 0xFF80000000100000 - BitVec.ofNat 64 (16384 * hartOf id)

/-- A hart as binding leaves it (R348, R350). -/
def State.newHart (s : State) (r : LaunchRec) (id rank gang launch n : Nat) : Hart :=
  let c := s.ctxEntry r.ctx.toNat
  let free := s.freeOctets (dieOf id) (coreOf id)
  let b0 := Hart.blank id
  let b := ((((b0.setSupCsr 0x100 c.trapvec).setSupCsr 0x106 c.ifrbase).setSupCsr 0x10A c.ptroot).setSupCsr 0x10C c.syncbase).setSupCsr 0x10D c.pinquota
  { b with
    bound := true
    pc := r.entry
    x := b.x.set 2 (stackTop id)
    csr := { b.csr with gangid := r.gangId n, gangsize := BitVec.ofNat 64 r.gangHarts, gangrank := BitVec.ofNat 64 rank,
                        launcharg := r.arg, exact := r.flags.getLsbD 1 }
    sup := { b.sup with ctxid := r.ctx, asid := c.asid }
    vec := { b.vec with matrix := r.flags.getLsbD 3, octets := lowestOctets free (min r.octMax (octetCount free)) }
    tags := { b.tags with issuer := s.launch.nextIssuer + BitVec.ofNat 32 rank }
    grant := ⟨r.octMin, r.octMax, 8, false, none⟩
    job := ⟨launch, gang, 0⟩ }

/-- Put a newly bound hart into the machine; what a halted one left under its number is gone (R350). -/
def State.addHart (s : State) (h : Hart) : State :=
  let t : State := { s with ended := s.ended.filter fun e => e.hart.id != h.id }
  if s.hart.bound then { t with others := s.others ++ [h] } else { t with hart := h }

/-- The lowest gang barrier that no gang uses (R351). -/
def State.freeBarrier (s : State) : Nat :=
  ((List.range 1536).map (· + 2560)).find? (fun b => !(s.launch.gangs.any fun g => g.barrier == b)) |>.getD 2560

/-- Bind the selected record's next gang to a choice of harts (R346 to R351). -/
def State.bindTo (s : State) (q : Nat) (h : QueuedRec) (choice : List Nat) : State :=
  let r := h.record
  let gang := s.launch.nextId
  let launch := if h.bound = 0 then gang else h.launch
  let total := r.gx * r.gy * r.gz
  let bar := s.freeBarrier
  let s1 := (s.setBarrier bar ⟨r.gangHarts, 0, 0, false, []⟩).setLaunch fun l =>
    { l with
      nextId := l.nextId + 1
      nextIssuer := l.nextIssuer + BitVec.ofNat 32 r.gangHarts
      launches := if h.bound = 0 then l.launches ++ [⟨launch, q, r, total, false, (s.ctxEntry r.ctx.toNat).syncbase⟩] else l.launches
      gangs := l.gangs ++ [⟨gang, launch, choice, [], bar, []⟩] }
  let s2 := (choice.zipIdx).foldl (fun t p => t.addHart (s.newHart r p.1 p.2 gang launch h.bound)) s1
  let s3 := if r.dsmWays = 0 then s2 else
    choice.foldl (fun t id => t.updDie (dieOf id) fun d => { d with dsm := Sparse.set 0 d.dsm r.ctx.toNat r.dsmWays }) s2
  let s4 := if h.bound + 1 = total then s3.popQueue q
    else s3.updQueue q fun k => { k with recs := ⟨r, h.bound + 1, launch⟩ :: k.recs.drop 1 }
  s4.deselect

/-- Bind the selected record's next gang, when the resources that it needs are free; whether it can fit at all was tested at its selection (R457). -/
def State.bindSelected (s : State) (choice : List Nat) : State :=
  match s.launch.selected with
  | none => s
  | some q => match (s.queue q).recs with
    | [] => s.deselect
    | h :: _ =>
      let c := if choice.isEmpty then s.lowestChoice h.record else choice
      if s.choiceOk h.record c then s.bindTo q h c else s

/-- R347: a gang is bound in one step; an empty choice takes the lowest free harts. -/
def execBindGang (choice : List Nat) (s : State) : Out := .next (s.bindSelected choice)

/-- Every member of a gang has halted (R352). -/
def Gang.allHalted (g : Gang) : Bool := (List.range g.members.length).all g.halted.contains

/-- A launch whose last gang has completed: its pins, its add, its event (R352). -/
def State.endLaunch (s : State) (l : Launch) : State :=
  let s1 := (s.setLaunch fun b => { b with launches := b.launches.filter fun x => x.id != l.id }).releasePins fun h => h.2 == l.id
  (if l.killed then s1 else s1.launchDone l.q l.record l.syncbase).schedule

/-- R352: a gang whose last member has finished HALT completes, and with the last gang its launch. Its barrier is free, as it stands, until a binding sets it
(R351, R417). The last gang waits while the record of an earlier completion has no room (R171, DESIGN CHOICE, log entry 66). -/
def execGangComplete (gang : Nat) (s : State) : Out :=
  match s.gang gang with
  | none => .next s
  | some g =>
    if g.allHalted && !s.isStalled .launch then
      let s1 := s.setLaunch fun l => { l with gangs := l.gangs.filter fun x => x.id != gang }
      match s1.launch.launches.find? fun x => x.id == g.launch with
      | none => .next s1
      | some l =>
        if l.gangsLeft ≤ 1 then .next (s1.endLaunch l)
        else .next (s1.setLaunch fun b => { b with launches := updWhere (fun x => x.id == l.id) (fun x => { x with gangsLeft := x.gangsLeft - 1 }) b.launches })
    else .next s

/-- LDCTL.TRAIN: a launch with flag bit 0 has a bound gang (R404). -/
def State.training (s : State) : Bool :=
  s.launch.gangs.any fun g => s.launch.launches.any fun l => l.id == g.launch && l.record.flags.getLsbD 0

/-! ### Registers of the block -/

/-- The doublewords of a context entry (Table 13.4). -/
def CtxEntry.dword (c : CtxEntry) (i : Nat) : Nat :=
  match i with
  | 0 => c.ptroot.toNat
  | 1 => c.trapvec.toNat
  | 2 => c.ifrbase.toNat
  | 3 => c.pinquota.toNat
  | 4 => c.asid.toNat + 2 ^ 32 * (c.syncbase.toNat % 2 ^ 32)
  | 5 => c.syncbase.toNat / 2 ^ 32 + 2 ^ 32 * ((if c.valid then 1 else 0) + (if c.killed then 2 else 0))
  | _ => 0

/-- Write a doubleword of a context entry. PTROOT, TRAPVEC, IFRBASE and PINQUOTA keep and read back all 64 bits, also those that the CSRs of these names reserve, which
a binding then drops: Table 13.4 reserves none of them (DESIGN CHOICE, log entry 80). -/
def CtxEntry.setDword (c : CtxEntry) (i : Nat) (v : Word) : CtxEntry :=
  let n := v.toNat
  match i with
  | 0 => { c with ptroot := v }
  | 1 => { c with trapvec := v }
  | 2 => { c with ifrbase := v }
  | 3 => { c with pinquota := v }
  | 4 => { c with asid := BitVec.ofNat 16 n, syncbase := BitVec.ofNat 64 (c.syncbase.toNat / 2 ^ 32 * 2 ^ 32 + n / 2 ^ 32) }
  | 5 => { c with syncbase := BitVec.ofNat 64 (n % 2 ^ 32 * 2 ^ 32 + c.syncbase.toNat % 2 ^ 32), valid := bitOf n 32, killed := bitOf n 33 }
  | _ => c

/-- Read a register of the launch block (Tables 13.1, 13.4, 14.2). -/
def State.readLaunch (s : State) (off : Nat) : Nat :=
  if off < 0x1000 then
    let q := off / 0x40
    let k := s.queue q
    match off % 0x40 with
    | 0x00 => k.weight + 16 * k.prio + (if k.opened then 256 else 0) + (if k.devpush then 512 else 0)
    | 0x08 => k.own.toNat
    | 0x10 => k.recs.length + 2 ^ 16 * k.refused.toNat + 2 ^ 32 * k.malformed.toNat + (if s.launch.selected = some q then 2 ^ 48 else 0) + 2 ^ 49 * k.lasterr.toNat
    | 0x18 => match k.recs with
      | [] => 0
      | r :: _ => r.bound
    | _ => 0
  else if 0x80000 ≤ off ∧ off < 0xC0000 then (s.ctxEntry ((off - 0x80000) / 64)).dword (off % 64 / 8)
  else match off with
    | 0x100008 => s.launch.cntHart + (if s.launch.cntEnable then 2 ^ 32 else 0)
    | 0x100010 => s.launch.notices.length + 2 ^ 16 * s.launch.dropped.toNat
    | 0x100020 => s.trivet.trvdata.toNat
    | _ => 0

end Sys2Proof.Machine
end

