-- ==== Sys2Proof/Machine/Contain.lean ====
section
/-! DEFINITION. The end of a hart and of a context: DSM allocations (R349), containment (R111, R112, R379 to R381). -/

namespace Sys2Proof.Machine

/-- Zero a range of locations: no byte of it stays listed. -/
def State.zeroRange (s : State) (lo n : Nat) : State := { s with mem := s.mem.filter fun c => decide (c.1 < lo) || decide (lo + n ≤ c.1) }

/-- A context has a hart on a die; a frozen one counts where it froze (R349). -/
def State.ctxOnDie (s : State) (ctx die : Nat) : Bool :=
  (s.harts.any fun h => h.bound && dieOf h.id == die && h.sup.ctxid.toNat == ctx) || s.parked.any fun p => dieOf p.hart == die && p.ctx.toNat == ctx

/-- The bytes of a context's DSM allocation on a die. -/
def State.dsmCells (s : State) (ctx die : Nat) : List Host.Cell :=
  s.mem.filter fun c => decide (locDsm die ctx 0 ≤ c.1) && decide (c.1 < locDsm die ctx 0 + 2 ^ 28)

/-- DSM allocations of a context end, zeroed, on every die where it has no hart left (R349) (DEDUCED, log entry 57). A queued access or
a held copy that comes after that writes the freed ways, which the next binding does not zero again: R84 does not say what becomes of one (DESIGN CHOICE, log entry 80). -/
def State.endDsm (s : State) (ctx : Nat) : State :=
  (List.range 8).foldl (fun t d =>
    if Sparse.get 0 (t.die d).dsm ctx ≠ 0 ∧ t.ctxOnDie ctx d = false then
      (t.updDie d fun k => { k with dsm := Sparse.set 0 k.dsm ctx 0 }).zeroRange (locDsm d ctx 0) (2 ^ 28)
    else t) s

/-- Segments that a hart has borrowed are free again (R42). -/
def State.releaseSegments (s : State) (id : Nat) : State :=
  let s1 : State := { s with cores := s.cores.map fun (c : Nat × Core) => if c.2.borrower = some id then (c.1, { c.2 with borrower := none }) else c }
  s1.updHart id fun h => { h with lenders := [] }

/-- The hart leaves every row of semaphore waiters (R290). -/
def State.leaveSems (s : State) (id : Nat) : State :=
  s.setTrivet fun t => { t with sems := t.sems.filterMap fun p =>
    let x := p.2.leave id
    if x = Sem.zero then none else some (p.1, x) }

/-- Harts that pass a test are unbound: their lanes, windows, event queues and handle tables are gone. -/
def State.dropHarts (s : State) (p : Hart → Bool) : State :=
  let t := (s.harts.filter p).foldl (fun t h => t.dropWindows h.id) s
  { t with hart := if p s.hart then Hart.blank s.hart.id else s.hart, others := s.others.filter fun h => !p h }

/-- The handle and the barrier of a hart that waits in SBARWAIT. -/
def State.awaitedBarrier (s : State) (h : Hart) : Option (Word × Nat) :=
  match h.wait with
  | some (.sbarwait _ xh _ _) =>
    let handle := h.rx xh
    (if handle = 0x28000000 then (s.gang h.job.gang).map fun g => g.barrier else syncElem h.sup.syncbase kBarrier handle).map fun e => (handle, e)
  | _ => none

/-- Each hart that waits at one of the barriers just broken is told (Table 5.6, kind 7, DESIGN CHOICE, log entry 12). -/
def State.tellBroken (s : State) (bars : List Nat) : State :=
  s.harts.foldl (fun t h => match s.awaitedBarrier h with
    | some (handle, e) => if bars.contains e then t.postEvent h.id { kind := 7, detail := 0, payload := handle } .containment else t
    | none => t) s

/-- Barriers in which a context took part move to BROKEN (R112). -/
def State.breakBarriers (s : State) (ctx : BitVec 32) (gangs : List Nat) : State :=
  let named := (s.trivet.barriers.filter fun b => b.2.ctxs.contains ctx).map (·.1)
  ((named ++ gangs).foldl (fun t b => t.setBarrier b { t.barrier b with broken := true }) s).tellBroken (named ++ gangs)

/-! ### Producers that a queue no longer holds (R171) -/

/-- A record has been posted, or dropped with its queue: its producer goes on. -/
def State.unblock (s : State) (x : Stalled) : State :=
  let free (p : Post) : Post := if p = .stalled then .done else p
  match x.producer with
  | .engine core =>
    let rest := s.streams.filter fun c => !(c.core == core && c.post == .stalled)
    ({ s with streams := rest } : State).due ((rest.filter fun c => c.core == core).flatMap fun c =>
      (List.range ((c.count * c.size + 511) / 512)).map (.chunkDone c.hart c.handle ·) ++ [.streamComplete c.hart c.handle, .streamRequest core])
  | .copies die q =>
    let k := Fin.ofNat 8 q
    (s.updDie die fun d => { d with copies := d.copies.set k.val ((d.copies.get k).map fun c => { c with post := free c.post }) k.isLt }).due [.copyComplete die q]
  | .append hart =>
    let rest := s.appends.filter fun a => !(a.hart == hart && a.post == .stalled)
    ({ s with appends := rest } : State).due ((List.range rest.length).reverse.map .vappendCommit)
  | .inbox die =>
    s.due ((List.range s.trains.length).reverse.filterMap fun k => match s.trains[k]? with
      | some t => if t.die = die ∧ t.arrived = false then some (.trainArrival k) else none
      | none => none) |>.due ((List.range s.redirects.length).reverse.map .trainRedirect)
  | .launch => (s.due ((s.launch.gangs.filter (·.allHalted)).map fun g => .gangComplete g.id)).schedule
  | .ladle => s.due ([.replicationVerify, .merge, .drainEnd, .wipe] ++ (0 :: s.ladle.acks).map .switchAck)
  | .containment => s

/-- The queue of a hart is gone, or drops what is addressed to it: every producer that it holds goes on (R365). -/
def State.dropQueue (s : State) (id : Nat) : State :=
  match s.hartById id with
  | some h => h.events.stalled.foldl (fun t x => t.unblock x) (s.updHart id fun h => { h with events := { h.events with stalled := [] } })
  | none => s

/-- A slot of a hart's queue is free: a held record or the producer that stalled first posts, and goes on (R171). -/
def State.releaseStall (s : State) (id : Nat) : State :=
  match s.hartById id with
  | some h =>
    let t := s.updHart id fun h => { h with events := h.events.refill }
    if h.events.recs.length < 64 && h.events.held.isNone then match h.events.stalled with
      | x :: _ => t.unblock x
      | [] => t
    else t
  | none => s

/-- One notice is queued; one beyond 64 advances DROPPED (R379, R380). -/
def State.addNotice (s : State) (n : Notice) : State :=
  (s.setLaunch fun l => if l.notices.length < 64 then { l with notices := l.notices ++ [n] } else { l with dropped := l.dropped + 1 }).due [.noticeDelivery]

/-- Kill a context (R379): KILLED, its harts, its outstanding work, barriers, duplicate entries, pins, allocations and records, then a notice.
Unacknowledged stores never become visible (R111, DESIGN CHOICE, log entry 12). Ranks of the context itself stop before they could read BROKEN (R304) (DEDUCED,
log entry 79). -/
def State.killContext (s : State) (ctx : BitVec 32) (source : Nat) (pa : Word) : State :=
  if (s.ctxEntry ctx.toNat).killed then s
  else
    let mine (h : Hart) : Bool := h.bound && h.sup.ctxid == ctx
    let ids := (s.harts.filter mine).map (·.id)
    let jobs := (s.harts.filter mine).map (·.job) ++ (s.parked.filter fun p => p.ctx == ctx).map (·.job)
    let gangIds := jobs.map (·.gang)
    let launchIds := jobs.map (·.launch)
    let bars := (s.launch.gangs.filter fun g => gangIds.contains g.id).map (·.barrier)
    let s1 := s.setLaunch fun l => { l with ctxs := Sparse.upd CtxEntry.zero l.ctxs ctx.toNat fun e => { e with killed := true } }
    let s2 := ids.foldl (fun t id => ((t.releaseSegments id).leaveSems id).dropQueue id) s1
    let s3 := s2.dropHarts mine
    let s4 := { s3 with
      accesses := s3.accesses.filter fun a => a.ctx != ctx
      orphans := s3.orphans.filter fun a => a.ctx != ctx
      parked := s3.parked.filter fun p => p.ctx != ctx
      vgroups := s3.vgroups.filter fun v => !ids.contains v.hart
      streams := s3.streams.filter fun c => !ids.contains c.hart
      appends := s3.appends.filter fun a => a.ctx != ctx
      trains := s3.trains.filter fun a => a.ctx != ctx
      redirects := s3.redirects.filter fun a => a.ctx != ctx
      bumps := s3.bumps.filter fun b => !ids.contains b.hart
      duplicates := s3.duplicates.filter fun d => d.ctx != ctx
      dies := s3.dies.map fun (d : Die) => { d with copies := d.copies.map fun (l : List CopyCmd) => l.filter fun c => c.ctx != ctx || c.ladle } }
    let s5 := ((s4.breakBarriers ctx bars).releasePins fun h => h.1 == ctx).endDsm ctx.toNat
    let gone := s5.launch.selected.any fun q => match (s5.queue q).recs with
      | [] => true
      | r :: _ => r.record.ctx == ctx
    let s6 := s5.setLaunch fun l => { l with
      queues := l.queues.map fun (q : Queue) => { q with recs := q.recs.filter fun r => r.record.ctx != ctx }
      gangs := l.gangs.filter fun g => !gangIds.contains g.id
      launches := l.launches.filter fun x => !launchIds.contains x.id && x.record.ctx != ctx }
    (if gone then s6.setLaunch fun l => { l with selected := none } else s6).schedule.addNotice ⟨ctx, BitVec.ofNat 8 source, pa⟩

/-- An access finds an uncorrectable error in a line of main memory: it is counted and recorded, as an ECC error, a tag mismatch, or one of the line's counter block or of a
node over it, which poisons every line it covers (R449, R453; DESIGN CHOICE, log entry 8). -/
def State.memoryError (s : State) (ctx line : Nat) : State :=
  let k := (Config.freeWord s.free).toNat % 3
  let t : State := { s with free := s.free + 1 }
  if k = 2 then t.lineResult line (4 + (Config.freeWord s.free).toNat / 3 % 8) 0 ctx
  else (t.logError (2 + k) 0 line ctx (s.hbm.lineVersion line)).countUncorrectable

/-- R379: an uncorrectable error in data of a context kills it; one of main memory (source 1) enters the error history. The operand then is a location, which says whether
the line lies in a die-home frame (R83); the notice has its physical address. -/
def execUncorrectableError (ctx source : Nat) (pa : Word) (s : State) : Out :=
  .next (if source = 1 then (s.memoryError ctx (pa.toNat / 64)).killContext (BitVec.ofNat 32 ctx) source (BitVec.ofNat 64 (pa.toNat % 2 ^ 52))
    else s.killContext (BitVec.ofNat 32 ctx) source pa)

/-- R379: a driver write of KILLED = 1 kills the context, with error source 6. -/
def execKilledWrite (ctx : Nat) (s : State) : Out := .next (s.killContext (BitVec.ofNat 32 ctx) 6 (BitVec.allOnes 64))

/-- R380: the oldest notice traps the service hart, when it is enabled, at application level and not of the killed context. -/
def execNoticeDelivery (s : State) : Out :=
  match s.launch.notices with
  | [] => .next s
  | n :: t =>
    match (s.ownHart s.launch.cntHart).bind s.hartById with
    | some h =>
      if s.launch.cntEnable && h.bound && h.level == .app && h.sup.ctxid != n.ctx && h.freeze == .none then
        .next (((s.setLaunch fun l => { l with notices := t }).leaveSems h.id).updHart h.id fun h => h.trap 0
          { cause := .containment, val := BitVec.ofNat 64 (n.ctx.toNat + 2 ^ 32 * n.source.toNat), elem := n.pa })
      else .next s
    | none => .next s

/-- The place can be reached: not in another package, or in one with a route. -/
def State.reachable (s : State) (p : Place) : Bool := match p.pkg with
  | some k => s.routed k
  | none => true

/-- An access that no route delivers is an uncorrectable error of its context, source 5 (R425). -/
def State.fabricError (s : State) (p : Place) : State := s.killContext s.hart.sup.ctxid 5 (BitVec.ofNat 64 p.loc)

/-- R425: an access to another package is not delivered within FABTMO. -/
def execFabricTimeout (ctx : Nat) (pa : Word) (s : State) : Out := .next (s.killContext (BitVec.ofNat 32 ctx) 5 pa)

/-- Write a context entry (R355); writing KILLED = 1 kills the context (R379). -/
def State.writeCtx (s : State) (c i : Nat) (v : Word) : State :=
  let old := s.ctxEntry c
  let new := old.setDword i v
  let s1 := s.setLaunch fun l => { l with ctxs := Sparse.set CtxEntry.zero l.ctxs c { new with killed := new.killed && old.killed } }
  if new.killed && !old.killed then s1.killContext (BitVec.ofNat 32 c) 6 (BitVec.allOnes 64) else s1

/-- What stands before an access of the current hart at a place: a route that is not valid and a poisoned line kill the context (R425, R449),
a page that is being re-encrypted holds the access (R450). -/
inductive Gate where
  | opened
  | held
  | fabric
  | poisoned
  /-- The die of a window access is not in service any more (R458). -/
  | gone
  deriving DecidableEq, Repr

/-- The gate of a place. -/
def State.gate (s : State) (p : Place) : Gate :=
  if !s.reachable p then .fabric
  else if s.isPoisoned p.loc then .poisoned
  else if s.isHeld p.loc then .held
  else .opened

/-- An access to a poisoned line is an uncorrectable error of its context, source 1 (R449). -/
def State.poisonError (s : State) (p : Place) : State := s.killContext s.hart.sup.ctxid 1 (BitVec.ofNat 64 (p.loc % 2 ^ 52))

/-- The gate of a place of a write that covers some lines wholly: their poison does not stand before it (R449). -/
def State.gateFull (s : State) (full : List Nat) (p : Place) : Gate :=
  if s.gate p = .poisoned ∧ full.contains (p.loc / 64) = true then (if s.isHeld p.loc then .held else .opened) else s.gate p

/-- Pass the gates of places, or be killed or wait (DEDUCED, log entry 61). The lines that the instruction writes wholly lose their poison, here when it writes them at once, else
when the first of its accesses to them is performed. -/
def State.passGates (s : State) (i : Instr) (l : List Place) (f : State → State) (full : List Nat := []) : State :=
  match l.find? fun p => s.gate p != .opened with
  | none => f s
  | some _ => match l.find? fun p => s.gateFull full p != .opened with
    | none => f (if s.relaxed then s else s.clearLines full)
    | some p => match s.gateFull full p with
      | .fabric => s.fabricError p
      | .poisoned => s.poisonError p
      | _ => s.waits i

/-- The die of a location in a vector scratchpad or a DSM allocation. -/
def windowDie (loc : Nat) : Option Nat :=
  if 2 ^ 62 ≤ loc then some ((loc - 2 ^ 62) / 2 ^ 60 % 8) else if 2 ^ 61 ≤ loc then some ((loc - 2 ^ 61) / 2 ^ 20 / 48 % 8) else none

/-- What stands before an access that is on its way, of a hart's queue or of another agent, when it reaches a location: a die that has left service (R458), poison unless it is part of a
full-line write (R449), a page that is being re-encrypted (R450). -/
def State.arrivalGate (s : State) (loc : Nat) (full : Bool) : Gate :=
  if (windowDie loc).any fun d => (s.die d).state != 0 then .gone
  else if s.isPoisoned loc && !full then .poisoned
  else if s.isHeld loc then .held
  else .opened

/-- An access on its way meets a gate that is not open: it waits, or its context is killed, with source 1 for poison (R449) and 6 for a die out of service (R458). -/
def State.stoppedAt (s : State) (ctx : BitVec 32) (loc : Nat) : Gate → State
  | .gone => s.killContext ctx 6 (BitVec.allOnes 64)
  | .poisoned => s.killContext ctx 1 (BitVec.ofNat 64 (loc % 2 ^ 52))
  | _ => s

/-! ### Performing (R100) -/

/-- A poisoned line loses its poison when the first access of a full-line write to it is performed (R449). -/
def State.clearsFor (s : State) (a : Access) : State := if a.full && s.isPoisoned a.loc then s.clearLines [a.loc / 64] else s

/-- An access of a frozen context is performed, or discarded by a horizon; its response is discarded at the core (R363, R372). -/
def State.orphanPerformed (s : State) (k : Nat) : State :=
  match s.orphans[k]? with
  | none => s
  | some a =>
    if ((s.orphans.take k).any fun b => b.before a) || s.heldAtTarget a then s
    else
      let rest : State := { s with orphans := s.orphans.eraseIdx k }
      if s.stale a.ctx a.issuer a.epoch a.replay then rest
      else match s.arrivalGate a.loc a.full with
      | .opened => (rest.clearsFor a).perform a
      | g => s.stoppedAt a.ctx a.loc g

/-- R100, R324, R371, R372: an access is performed at its slice, in order, or discarded by a horizon; one that finds a duplicate table full waits, and so does one of
which the micro-op has not issued or the request flit has not left. Poison, a page that is being re-encrypted and a die that has left service are met here (R449, R450, R458).
It is performed for all agents at once, whatever its scope (DESIGN CHOICE, log entry 72). -/
def execAccessPerformed (k : Nat) (s : State) : Out :=
  match s.accesses[k]? with
  | none => .next (s.orphanPerformed (k - s.accesses.length))
  | some a =>
    if a.performed || ((s.accesses.take k).any fun b => b.before a) || s.heldAtTarget a || s.atPort a || a.unsent then .next s
    else if s.stale a.ctx a.issuer a.epoch a.replay then .next (s.dropAccess k)
    else .next (match s.arrivalGate a.loc a.full with
      | .opened => ((s.clearsFor a).perform a).setAccess k { a with performed := true, value := a.read s.mem }
      | g => s.stoppedAt a.ctx a.loc g)

end Sys2Proof.Machine
end

