-- ==== Sys2Proof/Machine/Ranges.lean ====
section
/-! DEFINITION. Ranges of bytes under one translation: the segments of a copy (R281, R406) and the accesses of another context (R272, R406). -/

namespace Sys2Proof.Machine

/-- The pieces of a range cut at multiples of a unit: start and length. -/
def pieces (va len unit : Nat) : List (Nat × Nat) :=
  if len = 0 then [] else
    (List.range ((va + len - 1) / unit + 1 - va / unit)).map fun i =>
      let lo := max va ((va / unit + i) * unit)
      let hi := min (va + len) ((va / unit + i + 1) * unit)
      (lo, hi - lo)

/-- The places of a copy command line by line, each with whether the copy writes its whole line: its source, its destination and its flag. -/
def CopyCmd.places (c : CopyCmd) : List (Nat × Bool) :=
  (c.src.flatMap fun g => (pieces g.loc g.len 64).map fun p => (p.1, false)) ++ (c.dst.flatMap fun g => (pieces g.loc g.len 64).map fun p => (p.1, p.2 == 64)) ++
    c.flag.toList.map fun f => (f.1, false)

/-- The context of a hart. -/
def State.ctxOf (s : State) (hart : Nat) : BitVec 32 := match s.hartById hart with
  | some h => h.sup.ctxid
  | none => 0

/-- The locations that a transfer has yet to reach. -/
def StreamCmd.pending (c : StreamCmd) : List Nat := (c.locs.zipIdx.filter fun p => !c.chunksDone.contains (p.2 * c.size / 512)).map (·.1)

/-- The contexts with an access, a transfer, a copy or an append on its way that passes a test on the die of its hart and the location that it reaches. -/
def State.contextsAt (s : State) (p : Nat → Nat → Bool) : List (BitVec 32) :=
  (((s.accesses ++ s.orphans).filter fun a => p (dieOf a.hart) a.loc).map (·.ctx) ++
    (s.streams.filter fun c => c.pending.any (p (dieOf c.hart))).map (fun c => s.ctxOf c.hart) ++
    (s.dies.toList.flatMap fun d => d.copies.toList.flatMap fun q => (q.filter fun c => !c.ladle && c.places.any fun x => p (dieOf c.hart) x.1).map (·.ctx)) ++
    (s.appends.filter fun a => p (dieOf a.hart) a.desc).map (·.ctx)).eraseDups

/-- The page of a translated address is in transit (R397). -/
def State.inTransit (s : State) (va : Nat) : Bool := !bitOf va 56 && match s.leaf va with
  | some (e, _) => bitOf e 63
  | none => false

/-- Where a piece lies, or the first address that fails. -/
def State.piece (s : State) (k : AKind) (align base : Nat) (p : Nat × Nat) : Except (Cause × Nat) (Segment × Place) :=
  match s.probe (BitVec.ofNat 64 p.1) align align k with
  | .ok q => .ok (⟨p.1 - base, q.loc, p.2⟩, q)
  | .error c => .error (c, p.1)

/-- The segments of a range, checked granule by granule in R88's order: each page once, a page in transit line by line. -/
def State.segments (s : State) (va len align : Nat) (k : AKind) : Except (Cause × Nat) (List (Segment × Place)) :=
  ((pieces va len 4096).flatMap fun p => if s.inTransit p.1 then pieces p.1 p.2 64 else [p]).mapM (s.piece k align va)

/-- The bytes of segments, in order; the register window reads zero (R423). -/
def gather (m : List Host.Cell) (l : List Segment) : List Byte := l.flatMap fun g => if windowLoc g.loc then List.replicate g.len 0 else Memory.bytes m g.loc g.len

/-- Write bytes to segments; what goes to the register window is discarded (R423). -/
def scatter (m : List Host.Cell) (l : List Segment) (b : List Byte) : List Host.Cell :=
  l.foldl (fun m g => if windowLoc g.loc then m else Memory.put m g.loc ((b.drop g.off).take g.len)) m

/-- The package as the agent of a context sees it: no hart's registers, that context's tables (R406). -/
def State.asContext (s : State) (ctx die : Nat) : State :=
  let c := s.ctxEntry ctx
  let b := (Hart.blank (mkHartId die 0 0)).setSupCsr 0x10A c.ptroot
  { s with hart := { b with sup := { b.sup with ctxid := BitVec.ofNat 32 ctx, asid := c.asid } }, caching := false, accesses := [] }

/-- A line of a range is poisoned (R449). -/
def State.segPoisoned (s : State) (g : Segment) : Bool := (pieces g.loc g.len 64).any fun p => s.isPoisoned p.1

/-- The bytes of a range of a context, none when a check fails or a line is poisoned. -/
def State.ctxRead (s : State) (ctx die : Nat) (va : Word) (len align : Nat) : Option (List Byte) :=
  match (s.asContext ctx die).segments va.toNat len align .read with
  | .ok l => if l.any fun p => s.segPoisoned p.1 then none else some (gather s.mem (l.map (·.1)))
  | .error _ => none

/-- The segments of a range of a context that may be written, none when a check fails. -/
def State.ctxWritable (s : State) (ctx die : Nat) (va : Word) (len align : Nat) : Option (List Segment) :=
  match (s.asContext ctx die).segments va.toNat len align .write with
  | .ok l => some (l.map (·.1))
  | .error _ => none

/-- Write bytes to segments of memory. -/
def State.putSegments (s : State) (l : List Segment) (b : List Byte) : State := { s with mem := scatter s.mem l b }

/-- Segments outside the register window. -/
def inMemory (l : List Segment) : List Segment := l.filter fun g => !windowLoc g.loc

/-- Zero segments of memory. -/
def State.zeroSegments (s : State) (l : List Segment) : State := (inMemory l).foldl (fun (t : State) (g : Segment) => t.zeroRange g.loc g.len) s

/-- Zero segments by writes of whole lines, which clear poison (R449). -/
def State.wipeSegments (s : State) (l : List Segment) : State :=
  (inMemory l).foldl (fun (t : State) (g : Segment) =>
    (t.clearLines ((pieces g.loc g.len 64).filterMap fun p => if p.2 = 64 then some (p.1 / 64) else none)).zeroRange g.loc g.len) s

end Sys2Proof.Machine
end

