-- ==== Sys2Proof/Machine/Ladle.lean ====
section
/-! DEFINITION. The Ladle (R400 to R413): the replica table, switches, replication, retirement, redirection, merge, policy and commands. -/

namespace Sys2Proof.Machine

/-- Change the Ladle. -/
def State.setLadle (s : State) (f : Ladle → Ladle) : State := { s with ladle := f s.ladle }

/-- An expert of the hub's table. -/
def State.expert (s : State) (e : Nat) : Expert := Sparse.get Expert.zero s.ladle.table e

/-- Change an expert of the hub's table. -/
def State.updExpert (s : State) (e : Nat) (f : Expert → Expert) : State :=
  s.setLadle fun l => { l with table := Sparse.upd Expert.zero l.table e f }

/-- A replica of an expert. -/
def Expert.rep (x : Expert) (k : Nat) : Replica := x.reps.get (Fin.ofNat 8 k)

/-- Change a replica of an expert. -/
def Expert.updRep (x : Expert) (k : Nat) (f : Replica → Replica) : Expert :=
  { x with reps := x.reps.set (Fin.ofNat 8 k).val (f (x.rep k)) (Fin.ofNat 8 k).isLt }

/-- State codes of a replica (Table 16.2). -/
def repEmpty (r : Replica) : Bool := r.state == 0 || decide (3 < r.state.toNat)
/-- ACTIVE. -/
def repActive (r : Replica) : Bool := r.state == 1
/-- RETIRING. -/
def repRetiring (r : Replica) : Bool := r.state == 2
/-- DEAD. -/
def repDead (r : Replica) : Bool := r.state == 3

/-- A replica is eligible at a version (R401). -/
def Replica.eligible (r : Replica) (v : BitVec 32) : Bool :=
  (repActive r && decide ((v - r.vstamp).toNat < 2 ^ 31)) || (repRetiring r && decide (2 ^ 31 ≤ (v - r.vstamp).toNat))

/-- The eligible replicas of an expert at a version, in index order; none without VALID (R401). -/
def Expert.eligibleAt (x : Expert) (v : BitVec 32) : List Nat := if x.valid then (List.range 8).filter fun k => (x.rep k).eligible v else []

/-- The in-flight count of a replica. -/
def Replica.inflight (r : Replica) : Int := r.ifold.toInt + r.ifcur.toInt + r.ifnext.toInt

/-- A die is ABSENT. -/
def State.isAbsent (s : State) (d : Nat) : Bool := s.ladle.absent.getLsbD d

/-- Post a kind 6 notice (Table 5.6). -/
def State.notice6 (s : State) (hart : Nat) (version : BitVec 32) : State :=
  match s.ownHart hart with
  | some h => s.postEvent h { kind := 6, detail := 0, payload := version.setWidth 64 } .ladle
  | none => s

/-- A notice to the LDNOTE hart (R408, R409, R412). -/
def State.ladleNotice (s : State) : State := if s.ladle.noteEnable then s.notice6 s.ladle.noteHart.toNat s.ladle.version else s

/-- A pool. -/
def State.pool (s : State) (d : Nat) : Pool := s.ladle.pools.get (Fin.ofNat 8 d)

/-- Change a pool. -/
def State.updPool (s : State) (d : Nat) (f : Pool → Pool) : State :=
  s.setLadle fun l => { l with pools := l.pools.set (Fin.ofNat 8 d).val (f (l.pools.get (Fin.ofNat 8 d))) (Fin.ofNat 8 d).isLt }

/-- The free frames of a pool, lowest first. -/
def Pool.freeFrames (p : Pool) : List Nat := (List.range p.count).filter fun f => !p.used.getLsbD f

/-- The address of a frame (R406). -/
def Pool.frameVa (p : Pool) (f : Nat) : Word := p.base + BitVec.ofNat 64 (4096 * p.fsize.toNat * f)

/-- The frame of an address, when it is the start of one. -/
def Pool.frameOf (p : Pool) (va : Word) : Option Nat :=
  let size := 4096 * p.fsize.toNat
  let off := (va - p.base).toNat
  if 0 < size ∧ off % size = 0 ∧ off / size < p.count then some (off / size) else none

/-- Zero a frame and return it to its pool (R408, R409). -/
def State.wipeFrame (s : State) (d f : Nat) : State :=
  let p := s.pool d
  let s1 := match s.ctxWritable s.ladle.ctx d (p.frameVa f) (4096 * p.fsize.toNat) 8 with
    | some l => s.wipeSegments l
    | none => s
  s1.updPool d fun p => { p with used := p.used &&& ~~~ ((1 : BitVec 64) <<< f) }

/-! ### Switches (R407 steps 5 and 6, R410) -/

/-- The dies that take part in a switch. -/
def State.presentDies (s : State) : List Nat := (List.range 8).filter fun d => !s.isAbsent d

/-- Broadcast a switch; with every die ABSENT nobody has to acknowledge it. -/
def State.startSwitch (s : State) (of : LadleSeq) (back : Phase) : State :=
  (s.setLadle fun l => { l with
    phase := .switch, switchOf := of, back := back, acks := s.presentDies, unapplied := s.presentDies, deadPending := false, changed := l.changed ++ l.later, later := [] }).due
    (if s.presentDies.isEmpty then [.switchAck 0] else s.presentDies.flatMap fun d => [.switchApply d, .switchAck d])

/-- What PHASE IDLE lets start: waiting merges, and a switch that carries DEAD states (R410, R412). -/
def State.ladleIdle (s : State) : State :=
  if s.ladle.deadPending then s.startSwitch .dead s.ladle.phase
  else if 0 < s.ladle.merges then s.due [.merge] else s

/-- The end of a sequence. -/
def State.endSequence (s : State) : State := (s.setLadle fun l => { l with phase := .idle, seq := .none, drained := false, boundary := false, noted := false, merged := false }).ladleIdle

/-- What follows when nothing of a sequence is under way: a retirement in DRAIN whose replica has died ends (R409), else what IDLE or DRAIN lets start. -/
def State.ladleNext (s : State) : State :=
  if s.ladle.phase = .drain ∧ repDead ((s.expert s.ladle.expert).rep s.ladle.replica) = true then (s.setLadle fun l => { l with lasterr := 5 }).endSequence
  else s.ladleIdle

/-- µs since the last reset (R400). -/
def State.sinceReset (s : State) : Nat := s.now - s.ladle.started

/-- The rotation of the in-flight buckets of every replica (R407 step 6). -/
def Expert.rotate (x : Expert) : Expert :=
  { x with reps := x.reps.map fun r => { r with ifold := r.ifold + r.ifcur, ifcur := r.ifnext, ifnext := 0 } }

/-- A switch completes (R407 steps 6 and 7), once every die that takes part has acknowledged. -/
def State.finishSwitch (s : State) : State :=
  if s.ladle.phase = .switch ∧ s.ladle.acks = [] then
    let changed := s.ladle.changed
    let s1 := s.setLadle fun l => { l with
      version := l.version + 1, changed := [], unapplied := []
      table := l.table.map fun p => (p.1, if changed.contains p.1 then { p.2.rotate with lastChange := BitVec.ofNat 64 s.sinceReset } else p.2.rotate) }
    match s.ladle.switchOf with
    | .replicate =>
      (s1.notice6 (s1.pool s1.ladle.die).hart.toNat s1.ladle.version).endSequence
    | .retire => (s1.setLadle fun l => { l with phase := .drain, boundary := true }).ladleNext.due [.drainEnd]
    | _ => (s1.setLadle fun l => { l with phase := s.ladle.back }).ladleNext
  else s

/-- R407 step 5: a die takes the changed entries and the version, between two VROUTE instructions. -/
def execSwitchApply (die : Nat) (s : State) : Out :=
  .next (if s.ladle.phase = .switch ∧ s.ladle.unapplied.contains die then
    (s.updDie die fun d => { d with version := s.ladle.version + 1, cache := s.ladle.table }).setLadle fun l => { l with unapplied := l.unapplied.filter (· != die) }
  else s)

/-- The Ladle stands still while a record of its own has no room (R171, DESIGN CHOICE, log entry 66). -/
def State.ladleStep (s : State) (f : State → State) : State := if s.isStalled .ladle then s else f s

/-- R403: a die acknowledges a switch only after the hub has received every charge that the die made before it; a switch that no die has to acknowledge
any more completes. -/
def execSwitchAck (die : Nat) (s : State) : Out :=
  .next (s.ladleStep fun s => if s.ladle.phase = .switch ∧ s.ladle.acks = [] then s.finishSwitch
  else if s.ladle.phase = .switch ∧ s.ladle.acks.contains die ∧ ¬ s.ladle.unapplied.contains die ∧
      ¬ (s.ladle.messages.any fun m => m.die == die && m.plus && m.version != s.ladle.version + 1) then
    (s.setLadle fun l => { l with acks := l.acks.filter (· != die) }).finishSwitch
  else s)

/-- The copy commands of the Ladle leave their queues. -/
def State.cancelLadleCopies (s : State) : State :=
  let heads := (List.range 64).filter fun k => match (s.die (k / 8)).copies.get (Fin.ofNat 8 (k % 8)) with
    | c :: _ => c.ladle
    | [] => false
  ({ s with dies := s.dies.map fun (d : Die) => { d with copies := d.copies.map fun (l : List CopyCmd) => l.filter fun c => !c.ladle } } : State).due
    (heads.map fun k => .copyExecute (k / 8) (k % 8))

/-- A failed replication (R408): its copy is cancelled, the frame is wiped and returned, and a notice carries the unchanged version. -/
def State.failReplication (s0 : State) (code : Nat) : State :=
  let s := s0.cancelLadleCopies
  let s1 := if s.ladle.frame < 64 then s.wipeFrame s.ladle.die s.ladle.frame else s
  ((s1.setLadle fun l => { l with lasterr := BitVec.ofNat 3 code }).endSequence).ladleNotice

/-- Every replica on a die becomes DEAD with VSTAMP = LDVER + 1, which a further switch carries while one runs (R410). -/
def State.killReplicas (s : State) (die : Nat) : State :=
  let hit (r : Replica) : Bool := (repActive r || repRetiring r) && r.die.toNat == die
  let hitX (x : Expert) : Bool := (List.range 8).any fun k => hit (x.rep k)
  let hurt := (s.ladle.table.filter fun p => hitX p.2).map (·.1)
  s.setLadle fun l => { l with
    changed := if l.phase = .switch then l.changed else l.changed ++ hurt
    later := if l.phase = .switch then l.later ++ hurt else l.later
    deadPending := l.deadPending || !hurt.isEmpty
    table := l.table.map fun p => (p.1, { p.2 with reps := p.2.reps.map fun r => if hit r then { r with state := 3, vstamp := l.version + 1 } else r }) }

/-- A die is marked ABSENT (R410): its replicas die, a running switch completes without it, a further switch carries the DEAD states (DEDUCED, log entry 56). -/
def State.markAbsent (s : State) (die : Nat) : State :=
  if s.isAbsent die then s
  else
    let s1 := (s.setLadle fun l => { l with absent := l.absent ||| (1 <<< die), acks := l.acks.filter (· != die), unapplied := l.unapplied.filter (· != die) }).killReplicas die
    match s1.ladle.phase with
    | .switch => s1.finishSwitch
    | .copy | .verify => if s1.ladle.seq = .replicate ∧ s1.ladle.die = die then s1.failReplication 5 else s1
    | .drain => s1.ladleNext
    | .idle => s1.ladleNext
    | _ => s1

/-- R410: a die fails to acknowledge a switch within 2 µs. -/
def execSwitchAckTimeout (die : Nat) (s : State) : Out :=
  .next (if s.ladle.phase = .switch ∧ s.ladle.acks.contains die then s.markAbsent die else s)

/-! ### Replication (R407, R408) -/

/-- The size of an element of an inbox type, 0 when the type is not of 1, 2, 4 or 8 bytes (R406, R273). -/
def inboxSize (ty : Nat) : Nat := if ty < 20 ∧ tyBits ty % 8 = 0 then tyBits ty / 8 else 0

/-- The 64 bytes of a queue descriptor (Table 8.3) with all counts 0. -/
def descriptorBytes (ring : Word) (cap ty thresh owner : Nat) : List Byte :=
  leBytes 8 ring.toNat ++ leBytes 4 cap ++ leBytes 4 ty ++ leBytes 32 0 ++ leBytes 4 thresh ++ leBytes 4 owner ++ leBytes 8 0

/-- The copy queue that carries from one die toward another. -/
def State.pushCopy (s : State) (die q : Nat) (c : CopyCmd) : State :=
  (s.updDie die fun d => { d with copies := d.copies.set (Fin.ofNat 8 q).val (d.copies.get (Fin.ofNat 8 q) ++ [c]) (Fin.ofNat 8 q).isLt }).due [.copyExecute die q]

/-- A copy command of the Ladle. -/
def ladleCopy (ctx : Nat) (asid : BitVec 16) (src dst : List Segment) (len : Nat) : CopyCmd :=
  { hart := 0, ctx := BitVec.ofNat 32 ctx, issuer := 0, src := src, dst := dst, len := len, flag := none, flagVa := 0, post := .done, executed := false,
    flagged := false, overlap := false, tag := 0, asid := asid, ladle := true, orphan := false, replay := false, kept := Kept.zero }

/-- Steps 1 and 2 of R407. -/
def State.startReplication (s : State) (e die : Nat) : State :=
  let x := s.expert e
  let k := ((List.range 7).map (· + 1)).find? (fun k => repEmpty (x.rep k)) |>.getD 7
  let s1 := s.setLadle fun l => { l with seq := .replicate, expert := e, die := die, replica := k, frame := 64, phase := .copy, lasterr := 0 }
  if s.isAbsent die then s1.failReplication 5
  else
    let p := s.pool die
    match p.freeFrames with
    | [] => s1.failReplication 1
    | f :: _ =>
      let s2 := (s1.setLadle fun l => { l with frame := f }).updPool die fun p => { p with used := p.used ||| (1 <<< f) }
      let w := x.weightBytes.toNat
      let g := x.gradBytes.toNat
      let cap := 2 ^ p.logcap.toNat
      let size := inboxSize p.ty.toNat
      let va := p.frameVa f
      if size = 0 ∨ p.logcap.toNat < 4 ∨ 30 < p.logcap.toNat ∨ 4096 * p.fsize.toNat < w + g + 4096 + cap * size then s2.failReplication 2
      else
        let inbox := va + BitVec.ofNat 64 (w + g)
        let prim := x.rep 0
        match s2.ctxWritable s.ladle.ctx die inbox 64 8, (s2.asContext s.ladle.ctx prim.die.toNat).segments prim.weights.toNat w 8 .read,
            s2.ctxWritable s.ladle.ctx die va w 8 with
        | some d, .ok src, some dst =>
          let s3 := s2.putSegments d (descriptorBytes (inbox + 4096) cap p.ty.toNat p.thresh.toNat p.hart.toNat)
          s3.pushCopy prim.die.toNat die (ladleCopy s.ladle.ctx (s.ctxEntry s.ladle.ctx).asid (src.map (·.1)) dst w)
        | _, _, _ => s2.failReplication 3

/-- R407: REPLICATE, as a command bypassing the thresholds; refused outside IDLE or when its operands do not hold (R413, DEDUCED, log entry 13). -/
def execReplicate (e die : Nat) (s : State) : Out :=
  let x := s.expert e
  .next (if s.ladle.phase = .idle ∧ x.valid ∧ repActive (x.rep 0) ∧ ((List.range 7).any fun k => repEmpty (x.rep (k + 1))) then s.startReplication e die
    else s.setLadle fun l => { l with lasterr := 6 })

/-- R407 steps 3 and 4, and the switch; `err` not 0 is an uncorrectable error or a link down, in COPY or while the
frame is read back (R408). -/
def execReplicationVerify (err : Nat) (s : State) : Out :=
  .next (s.ladleStep fun s => if s.ladle.phase = .copy ∧ err ≠ 0 then s.failReplication 3
  else if s.ladle.phase = .verify then
    let l := s.ladle
    let x := s.expert l.expert
    let va := (s.pool l.die).frameVa l.frame
    match if err = 0 then s.ctxRead l.ctx l.die va x.weightBytes.toNat 8 else none with
    | none => s.failReplication 3
    | some b =>
      if crc32c b ≠ l.srcCrc then s.failReplication 4
      else
        let grads := va + x.weightBytes
        let r : Replica := { Replica.zero with weights := va, grads := grads, inbox := grads + x.gradBytes, vstamp := l.version + 1, state := 1, die := BitVec.ofNat 8 l.die }
        ((s.updExpert l.expert fun x => { x.updRep l.replica (fun _ => r) with checksum := l.srcCrc }).setLadle fun l =>
          { l with changed := l.changed ++ [l.expert] }).startSwitch .replicate .idle
  else s)

/-! ### Retirement (R409) -/

/-- Step 1 of R409. -/
def State.startRetire (s : State) (e k : Nat) : State :=
  let r := (s.expert e).rep k
  ((s.updExpert e fun x => x.updRep k fun r => { r with state := 2, vstamp := s.ladle.version + 1 }).setLadle fun l =>
    { l with seq := .retire, expert := e, replica := k, die := r.die.toNat % 8, lasterr := 0, drained := false, boundary := false, noted := false, merged := false,
             changed := l.changed ++ [e] }).startSwitch .retire .idle

/-- R409: RETIRE on an ACTIVE replica other than the primary. -/
def execRetire (e k : Nat) (s : State) : Out :=
  .next (if s.ladle.phase = .idle ∧ 1 ≤ k ∧ k < 8 ∧ repActive ((s.expert e).rep k) then s.startRetire e k
    else s.setLadle fun l => { l with lasterr := 6 })

/-- The inbox of the replica in DRAIN is consumed: head equals committed; none when the descriptor cannot be read. -/
def State.inboxDrained (s : State) (r : Replica) : Option Bool :=
  match s.ctxRead s.ladle.ctx (r.die.toNat % 8) (r.inbox + 0x18) 16 8 with
  | some b => some (leNat (b.take 8) == leNat (b.drop 8))
  | none => none

/-- R409 steps 2 and 3: step 2 ends once the counts are 0 and the inbox is consumed, step 3 at once or, in training, when a merge has included the replica.
Between the two a waiting merge runs first (R412). -/
def execDrainEnd (s : State) : Out :=
  .next (s.ladleStep fun s => if s.ladle.phase = .drain then
    if s.ladle.drained then
      if !s.training || s.ladle.merged then (s.setLadle fun l => { l with phase := .wipe }).due [.wipe] else s
    else
      let r := (s.expert s.ladle.expert).rep s.ladle.replica
      let s1 := s.setLadle fun l => { l with boundary := false }
      match s.inboxDrained r with
      | none => if s.ladle.noted then s1 else (s1.setLadle fun l => { l with lasterr := 3, noted := true }).ladleNotice
      | some b =>
        if b && r.ifold == 0 && r.ifcur == 0 && r.ifnext == 0 then
          (s.setLadle fun l => { l with drained := true, boundary := true }).due ((if s.ladle.merges = 0 then [] else [.merge]) ++ [.drainEnd])
        else s1
  else s)

/-- R409 step 4: the frame is zeroed, the replica becomes EMPTY and the frame goes back. -/
def execWipe (s : State) : Out :=
  .next (s.ladleStep fun s => if s.ladle.phase = .wipe then
    let r := (s.expert s.ladle.expert).rep s.ladle.replica
    let d := r.die.toNat % 8
    let s1 := match (s.pool d).frameOf r.weights with
      | some f => s.wipeFrame d f
      | none => s
    (s1.updExpert s.ladle.expert fun x => x.updRep s.ladle.replica fun r => { r with state := 0 }).endSequence
  else s)

/-! ### In-flight counts (R403) -/

/-- Apply a message to one bucket of its replica; a charge of a DEAD replica is discarded, a discharge is not. -/
def State.countInflight (s : State) (m : Inflight) : State :=
  let d : BitVec 32 := if m.plus then 1 else BitVec.allOnes 32
  if m.plus && repDead ((s.expert m.expert).rep m.replica) then s
  else s.updExpert m.expert fun x => x.updRep m.replica fun r =>
    if m.version = s.ladle.version then { r with ifcur := r.ifcur + d }
    else if m.version = s.ladle.version + 1 then { r with ifnext := r.ifnext + d }
    else { r with ifold := r.ifold + d }

/-- R403: a charge or discharge reaches the hub. -/
def execInflightMessage (k : Nat) (s : State) : Out :=
  match s.ladle.messages[k]? with
  | none => .next s
  | some m =>
    let s1 := (s.setLadle fun l => { l with messages := l.messages.eraseIdx k }).countInflight m
    .next (s1.due (if s1.ladle.phase = .drain then [.drainEnd] else []))

/-- Send messages to the hub. -/
def State.sendInflight (s : State) (l : List Inflight) : State :=
  (s.setLadle fun k => { k with messages := k.messages ++ l }).due (l.map fun _ => .inflightMessage 0)

/-! ### Merge (R412) -/

/-- The sums of two lists of F32 codes, each rounded RNE. -/
def mergeBytes : List Byte → List Byte → List Byte
  | a0 :: a1 :: a2 :: a3 :: a, b0 :: b1 :: b2 :: b3 :: b =>
    leBytes 4 (arithRes 0 0 .rne 0 (leNat [a0, a1, a2, a3]) (leNat [b0, b1, b2, b3])).code ++ mergeBytes a b
  | a, _ => a

/-- A merge failure: LASTERR 3 and a notice. -/
def State.mergeError (s : State) : State := (s.setLadle fun l => { l with lasterr := 3 }).ladleNotice

/-- The gradient buffer of a replica, where it can be read and written: its segments and bytes. -/
def State.gradients (s : State) (x : Expert) (k : Nat) : Option (List Segment × List Byte) :=
  let r := x.rep k
  let n := x.gradBytes.toNat
  match s.ctxWritable s.ladle.ctx (r.die.toNat % 8) r.grads n 4, s.ctxRead s.ladle.ctx (r.die.toNat % 8) r.grads n 4 with
  | some seg, some b => some (seg, b)
  | _, _ => none

/-- Merge one replica of an expert into the primary's buffer. -/
def State.mergeReplica (s : State) (e : Nat) (g0 : List Segment) (k : Nat) : State :=
  let x := s.expert e
  if repActive (x.rep k) || repRetiring (x.rep k) then match s.gradients x k with
    | some g => (s.putSegments g0 (mergeBytes (gather s.mem g0) g.2)).zeroSegments g.1
    | none => s.mergeError
  else s

/-- Merge the replicas of one expert, ascending; a primary that cannot be read or written skips the expert. -/
def State.mergeExpert (s : State) (e : Nat) : State :=
  let x := s.expert e
  if x.valid && x.gradBytes != 0 then match s.gradients x 0 with
    | some g0 => ((List.range 7).map (· + 1)).foldl (fun t k => t.mergeReplica e g0.1 k) s
    | none => s.mergeError
  else s

/-- A merge includes the gradients of a replica: nothing of them is skipped because a buffer cannot be read or written (R409, R412). -/
def State.mergeCovers (s : State) (e k : Nat) : Bool :=
  let x := s.expert e
  !x.valid || x.gradBytes == 0 || ((s.gradients x 0).isSome && (s.gradients x k).isSome)

/-- The sums of a merge, the DONE counter, and the phase it came from; a further trigger merges again. A merge counts for the replica in DRAIN once step 2 of
R409 has ended, when it includes the replica. -/
def State.merge (s : State) : State :=
  let s1 := (s.ladle.table.map (·.1)).foldl State.mergeExpert s
  let covers := s.mergeCovers s.ladle.expert s.ladle.replica
  let s2 := s1.setLadle fun l => { l with phase := l.back, merged := l.merged || (l.back == .drain && l.drained && covers) }
  let s3 := match s2.ladleCounter s2.ladle.done with
    | some e => s2.counterAdd e 1
    | none => s2
  s3.ladleNext.due (if s3.ladle.phase = .drain then [.drainEnd] else [])

/-- R412: MERGE: a waiting trigger begins it in IDLE or at a step boundary of DRAIN, and the phase reads MERGE until its sums are made. -/
def execMerge (s : State) : Out :=
  .next (s.ladleStep fun s =>
    if s.ladle.phase = .merge then s.merge
    else if 0 < s.ladle.merges ∧ (s.ladle.phase = .idle ∨ (s.ladle.phase = .drain ∧ s.ladle.boundary = true)) then
      (s.setLadle fun l => { l with phase := .merge, back := l.phase, merges := l.merges - 1 }).due [.merge]
    else s)

/-! ### Commands (R413) -/

/-- HOLD and UNHOLD are accepted unless the running sequence names the expert. -/
def State.setHold (s : State) (e : Nat) (v : Bool) : State :=
  if s.ladle.phase ≠ .idle ∧ s.ladle.seq ≠ .none ∧ s.ladle.expert = e then s.setLadle fun l => { l with lasterr := 6 }
  else s.updExpert e fun x => { x with hold := v }

/-- R413: HOLD. -/
def execHold (e : Nat) (s : State) : Out := .next (s.setHold e true)

/-- R413: UNHOLD. -/
def execUnhold (e : Nat) (s : State) : Out := .next (s.setHold e false)

/-- R413: RECLAIM of a DEAD replica: its frame is wiped when its die is not ABSENT, then it is EMPTY; a primary is never wiped (R400). -/
def execReclaim (e k : Nat) (s : State) : Out :=
  let r := (s.expert e).rep k
  let d := r.die.toNat % 8
  .next (if s.ladle.phase = .idle ∧ k < 8 ∧ repDead r then
    let s1 := if s.isAbsent d || k == 0 then s else match (s.pool d).frameOf r.weights with
      | some f => s.wipeFrame d f
      | none => s
    s1.updExpert e fun x => x.updRep k fun r => { r with state := 0 }
  else s.setLadle fun l => { l with lasterr := 6 })

/-- R410: REJOIN clears ABSENT, and the die takes the whole table at LDVER. -/
def execRejoin (die : Nat) (s : State) : Out :=
  .next (if s.ladle.phase = .idle ∧ s.isAbsent die then
    (s.setLadle fun l => { l with absent := l.absent &&& ~~~ ((1 : BitVec 8) <<< die) }).updDie die fun d => { d with version := s.ladle.version, cache := s.ladle.table }
  else s.setLadle fun l => { l with lasterr := 6 })

/-- R413: FORCEDRAIN of a RETIRING replica, in IDLE or in DRAIN when it is the replica being drained. -/
def execForcedrain (e k : Nat) (s : State) : Out :=
  let draining : Bool := s.ladle.phase == .drain && s.ladle.expert == e && s.ladle.replica == k
  .next (if repRetiring ((s.expert e).rep k) ∧ (s.ladle.phase = .idle ∨ draining = true) then
    let s1 := s.updExpert e fun x => x.updRep k fun r => { r with ifold := 0, ifcur := 0, ifnext := 0 }
    if draining then (s1.setLadle fun l => { l with drained := true, boundary := true }).due ((if s.ladle.merges = 0 then [] else [.merge]) ++ [.drainEnd]) else s1
  else s.setLadle fun l => { l with lasterr := 6 })

/-- R413: PUBLISH carries the driver's edits to the dies. -/
def execPublish (s : State) : Out :=
  .next (if s.ladle.phase = .idle then s.startSwitch .publish .idle else s.setLadle fun l => { l with lasterr := 6 })

/-- A write of LDCMD (Table 16.5). -/
def State.ladleCommand (s : State) (v : Nat) : State :=
  let e := bitsOf v 23 12
  let k := bitsOf v 10 8
  let d := bitsOf v 6 4
  let o : Out := match bitsOf v 3 0 with
    | 1 => execReplicate e d s
    | 2 => execRetire e k s
    | 3 => execHold e s
    | 4 => execUnhold e s
    | 5 => execReclaim e k s
    | 6 => execRejoin d s
    | 7 => execForcedrain e k s
    | 8 => execPublish s
    | _ => .next s
  nextState o s

/-! ### Policy (R405) -/

/-- The load of an expert since the last interval end: the sum of the changes of its counters modulo 2^32. -/
def State.expertLoad (s : State) (e : Nat) : Nat :=
  ((List.range 8).foldl (fun (n : BitVec 32) d => n + (Sparse.get (0 : BitVec 32) (s.die d).load e - Sparse.get (0 : BitVec 32) (s.ladle.snapshot.get (Fin.ofNat 8 d)) e)) 0).toNat

/-- The interval has its length (Table 16.3): routed elements of the package, or µs. -/
def State.intervalOver (s : State) : Bool :=
  decide (s.ladle.length.toNat ≤ if s.ladle.unit then s.now - s.ladle.since else s.ladle.routed)

/-- Insert into a list ordered by key, then by number. -/
def insertBy (key : Nat → Nat) (e : Nat) : List Nat → List Nat
  | [] => [e]
  | f :: t => if key e < key f || (key e == key f && decide (e < f)) then e :: f :: t else f :: insertBy key e t

/-- Replicas ACTIVE of an expert. -/
def Expert.activeReps (x : Expert) : List Nat := (List.range 8).filter fun k => repActive (x.rep k)

/-- The dies onto which the policy may replicate an expert. -/
def State.policyDies (s : State) (x : Expert) : List Nat :=
  (List.range 8).filter fun d => decide ((s.ladle.util.get (Fin.ofNat 8 d)).toNat ≤ s.ladle.idlepm.toNat) && !s.isAbsent d && (s.pool d).enable &&
    !(s.pool d).freeFrames.isEmpty && !((List.range 8).any fun k => (repActive (x.rep k) || repRetiring (x.rep k)) && (x.rep k).die.toNat == d)

/-- The policy starts at most one sequence; `load` gives the loads of the interval. An expert without an EMPTY entry is not replicated, as the command
refuses it (DEDUCED, log entry 13). -/
def State.policy (s : State) (load : Nat → Nat) : State :=
  let l := s.ladle
  let rested (x : Expert) : Bool := x.valid && !x.hold && decide (l.dwell.toNat ≤ s.sinceReset - x.lastChange.toNat)
  let hot := (l.table.filter fun p => rested p.2 && ((List.range 7).any fun k => repEmpty (p.2.rep (k + 1))) && decide (l.hot.toNat ≤ load p.1) && decide (p.2.activeReps.length < l.maxrep.toNat + 1)).map (·.1)
  let hotOrder := hot.foldl (fun acc e => insertBy (fun e => 2 ^ 40 - load e) e acc) []
  match hotOrder.find? fun e => !(s.policyDies (s.expert e)).isEmpty with
  | some e =>
    match (s.policyDies (s.expert e)).foldl (fun acc d => insertBy (fun d => (l.util.get (Fin.ofNat 8 d)).toNat) d acc) [] with
    | d :: _ => s.startReplication e d
    | [] => s
  | none =>
    let cold := (l.table.filter fun p => rested p.2 && decide (load p.1 ≤ l.cold.toNat) && p.2.activeReps.any (· != 0)).map (·.1)
    match cold.foldl (fun acc e => insertBy load e acc) [] with
    | [] => s
    | e :: _ => s.startRetire e ((s.expert e).activeReps.getLastD 0)

/-- R405, R402: an interval ends: loads, snapshots, utilisations (DESIGN CHOICE, log entry 8), refreshed counts, and the policy. -/
def execLadleIntervalEnd (s : State) : Out :=
  let loads := s.expertLoad
  let util := (Vector.range 8).map fun d => BitVec.ofNat 10 ((Config.freeWord (s.free + d)).toNat % 1001)
  let s1 : State := { s with
    free := s.free + 8
    dies := s.dies.map fun (d : Die) => { d with cache := d.cache.map fun p =>
      (p.1, { p.2 with reps := Vector.ofFn fun k => { p.2.reps.get k with ifold := ((s.expert p.1).reps.get k).ifold, ifcur := ((s.expert p.1).reps.get k).ifcur, ifnext := ((s.expert p.1).reps.get k).ifnext } }) } }
  let s2 := s1.setLadle fun l => { l with util := util, routed := 0, since := s.now, snapshot := s.dies.map fun (d : Die) => d.load }
  .next (if !s.intervalOver then s
    else if s2.ladle.enable && !s2.isStalled .ladle && s2.ladle.phase == .idle && s2.ladle.merges == 0 then s2.policy loads else s2)

/-! ### Registers of the block -/

/-- The doublewords of an expert's kibibyte (Tables 16.1 and 16.2). -/
def Expert.dword (x : Expert) (i : Nat) : Nat :=
  match i with
  | 0 => x.weightBytes.toNat
  | 1 => x.gradBytes.toNat
  | 2 => x.checksum.toNat + 2 ^ 32 * x.mode.toNat + 2 ^ 40 * ((if x.valid then 1 else 0) + (if x.hold then 2 else 0))
  | 3 => x.lastChange.toNat
  | 4 => x.redirected.toNat + 2 ^ 32 * x.lost.toNat
  | i =>
    if 8 ≤ i ∧ i < 72 then
      let r := x.rep (i / 8 - 1)
      match i % 8 with
      | 0 => r.weights.toNat
      | 1 => r.grads.toNat
      | 2 => r.inbox.toNat
      | 3 => r.vstamp.toNat + 2 ^ 32 * r.state.toNat + 2 ^ 40 * r.die.toNat
      | 4 => r.ifold.toNat + 2 ^ 32 * r.ifcur.toNat
      | 5 => r.ifnext.toNat
      | _ => 0
    else 0

/-- Write a doubleword of an expert's kibibyte; HOLD is written only by commands. -/
def Expert.setDword (x : Expert) (i : Nat) (v : Word) : Expert :=
  let n := v.toNat
  match i with
  | 0 => { x with weightBytes := v }
  | 1 => { x with gradBytes := v }
  | 2 => { x with checksum := BitVec.ofNat 32 n, mode := BitVec.ofNat 8 (n / 2 ^ 32), valid := bitOf n 40 }
  | 3 => { x with lastChange := v }
  | 4 => { x with redirected := BitVec.ofNat 32 n, lost := BitVec.ofNat 32 (n / 2 ^ 32) }
  | i =>
    if 8 ≤ i ∧ i < 72 then x.updRep (i / 8 - 1) fun r =>
      match i % 8 with
      | 0 => { r with weights := v }
      | 1 => { r with grads := v }
      | 2 => { r with inbox := v }
      | 3 => { r with vstamp := BitVec.ofNat 32 n, state := BitVec.ofNat 8 (n / 2 ^ 32), die := BitVec.ofNat 8 (n / 2 ^ 40) }
      | 4 => { r with ifold := BitVec.ofNat 32 n, ifcur := BitVec.ofNat 32 (n / 2 ^ 32) }
      | 5 => { r with ifnext := BitVec.ofNat 32 n }
      | _ => r
    else x

/-- PHASE codes (Table 16.3). -/
def Phase.code : Phase → Nat
  | .idle => 0
  | .copy => 1
  | .verify => 2
  | .switch => 3
  | .drain => 4
  | .merge => 5
  | .wipe => 6

/-- Read a register of the Ladle block. -/
def State.readLadle (s : State) (off : Nat) : Nat :=
  let l := s.ladle
  if 0x400000 ≤ off then (s.expert ((off - 0x400000) / 0x400)).dword (off % 0x400 / 8)
  else if 0x10000 ≤ off ∧ off < 0x30000 then
    let e := (off - 0x10000) / 32
    let d := off % 32 / 4
    (Sparse.get (0 : BitVec 32) (s.die d).load e).toNat + 2 ^ 32 * (Sparse.get (0 : BitVec 32) (s.die (d + 1)).load e).toNat
  else if 0x200 ≤ off ∧ off < 0x400 then
    let p := s.pool ((off - 0x200) / 64)
    match off % 64 with
    | 0x00 => p.base.toNat
    | 0x08 => p.fsize.toNat + 2 ^ 32 * p.count
    | 0x10 => p.logcap.toNat + 2 ^ 8 * p.ty.toNat + 2 ^ 32 * p.thresh.toNat
    | 0x18 => p.hart.toNat + (if p.enable then 2 ^ 32 else 0)
    | 0x20 => p.freeFrames.foldl (fun n f => n + 2 ^ f) 0
    | _ => 0
  else if 0x80 ≤ off ∧ off < 0xC0 then (l.util.get (Fin.ofNat 8 ((off - 0x80) / 8))).toNat
  else match off with
    | 0x00 => 2 ^ 32 * l.ctx + (if s.training then 2 else 0) + (if l.enable then 1 else 0)
    | 0x08 => l.length.toNat + (if l.unit then 2 ^ 32 else 0)
    | 0x10 => l.cold.toNat + 2 ^ 32 * l.hot.toNat
    | 0x18 => l.maxrep.toNat + 2 ^ 8 * l.idlepm.toNat + 2 ^ 32 * l.dwell.toNat
    | 0x20 => l.version.toNat
    | 0x28 => l.expert + 2 ^ 12 * l.replica + 2 ^ 16 * l.die + 2 ^ 20 * l.phase.code + 2 ^ 24 * l.absent.toNat + 2 ^ 32 * l.lasterr.toNat
    | 0x38 => l.trigger.toNat + 2 ^ 32 * l.done.toNat
    | 0x40 => l.noteHart.toNat + (if l.noteEnable then 2 ^ 32 else 0)
    | _ => 0

/-- Write a register of the Ladle block. -/
def State.writeLadle (s : State) (off : Nat) (v : Word) : State :=
  let n := v.toNat
  if 0x400000 ≤ off then
    let e := (off - 0x400000) / 0x400
    let x := (s.expert e).setDword (off % 0x400 / 8) v
    (s.updExpert e fun _ => x).setLadle fun l => { l with changed := if x.reps = (s.expert e).reps ∨ l.changed.contains e = true then l.changed else l.changed ++ [e] }
  else if 0x200 ≤ off ∧ off < 0x400 then
    s.updPool ((off - 0x200) / 64) fun p => match off % 64 with
      | 0x00 => { p with base := v }
      | 0x08 => { p with count := min 64 (bitsOf n 38 32), fsize := BitVec.ofNat 32 n }
      | 0x10 => { p with thresh := BitVec.ofNat 32 (n / 2 ^ 32), ty := BitVec.ofNat 5 (n / 2 ^ 8), logcap := BitVec.ofNat 5 n }
      | 0x18 => { p with enable := bitOf n 32, hart := BitVec.ofNat 17 n }
      | _ => p
  else match off with
    | 0x00 => s.setLadle fun l => { l with ctx := bitsOf n 43 32, enable := bitOf n 0 }
    | 0x08 => s.setLadle fun l => { l with unit := bitOf n 32, length := if n % 2 ^ 32 = 0 then 1 else BitVec.ofNat 32 n }
    | 0x10 => s.setLadle fun l => { l with hot := BitVec.ofNat 32 (n / 2 ^ 32), cold := BitVec.ofNat 32 n }
    | 0x18 => s.setLadle fun l => { l with dwell := BitVec.ofNat 32 (n / 2 ^ 32), idlepm := BitVec.ofNat 10 (min 1000 (bitsOf n 17 8)), maxrep := BitVec.ofNat 3 n }
    | 0x30 => s.ladleCommand n
    | 0x38 => s.setLadle fun l => { l with done := BitVec.ofNat 32 (n / 2 ^ 32), trigger := BitVec.ofNat 32 n }
    | 0x40 => s.setLadle fun l => { l with noteEnable := bitOf n 32, noteHart := BitVec.ofNat 17 n }
    | _ => s

end Sys2Proof.Machine
end

