-- ==== Sys2Proof/Machine/Fleet.lean ====
section
/-! DEFINITION. Fleet operation (R455 to R460): mapping out units, health, resetting a die, and the power evaluation. -/

namespace Sys2Proof.Machine

/-- Kill several contexts with one error source. -/
def State.killContexts (s : State) (l : List (BitVec 32)) (source : Nat) : State := l.foldl (fun t c => t.killContext c source (BitVec.allOnes 64)) s

/-- The contexts of bound harts that pass a test. -/
def State.contextsOf (s : State) (p : Hart → Bool) : List (BitVec 32) := ((s.harts.filter fun h => h.bound && p h).map (·.sup.ctxid)).eraseDups

/-- The contexts with a DSM allocation on a die. -/
def State.dsmContexts (s : State) (die : Nat) : List (BitVec 32) := (s.die die).dsm.map fun p => BitVec.ofNat 32 p.1

/-- A unit fails: HEALTH.STATE becomes at least DEGRADED, or REPLACE_REQUESTED with its cause beyond the budget (R455). -/
def State.unitFailed (s : State) (cls : Nat) (within : Bool) : State :=
  if within then { s with mgmt := { s.mgmt with health := if s.mgmt.health = 2 then 2 else 1 } } else s.requestReplace cls

/-- Insert into a list without repeats. -/
def insertNew (l : List Nat) (x : Nat) : List Nat := if l.contains x then l else l ++ [x]

/-- The units of a class mapped out that pass a test. -/
def State.outCount (s : State) (cls : Nat) (p : Nat → Bool) : Nat := (s.mgmt.unitsOut.filter fun u => u.1 == cls && p u.2).length

/-- Record a unit of a class that is counted by itself. -/
def State.recordUnit (s : State) (cls index : Nat) : State :=
  { s with mgmt := { s.mgmt with unitsOut := if s.mgmt.unitsOut.contains (cls, index) then s.mgmt.unitsOut else s.mgmt.unitsOut ++ [(cls, index)] } }

/-- A core is mapped out: its harts' contexts, and that of a hart that holds its array, are killed (R455). -/
def State.mapOutCore (s : State) (die c : Nat) : State :=
  let users := s.contextsOf fun h => (dieOf h.id == die && coreOf h.id == c) || h.lenders.contains (coreKey die c)
  let s1 := (s.killContexts users 3).updDie die fun d => { d with coresOut := insertNew d.coresOut c }
  (s1.unitFailed 0 (decide ((s1.die die).coresOut.length ≤ 2))).markAbsent die

/-- A lane octet is mapped out; the index is 8 times the core plus the octet. A hart that borrows the array of the core uses it too. -/
def State.mapOutOctet (s : State) (die o : Nat) : State :=
  let users := s.contextsOf fun h => (dieOf h.id == die && coreOf h.id == o / 8 && h.vec.octets.getLsbD (o % 8)) || h.lenders.contains (coreKey die (o / 8))
  let s1 := (s.killContexts users 3).updDie die fun d => { d with octetsOut := insertNew d.octetsOut o }
  (s1.unitFailed 1 (decide ((List.range 8).foldl (fun n d => n + (s1.die d).octetsOut.length) 0 ≤ 16))).markAbsent die

/-- A DSM slice is mapped out: the die offers no DSM allocation any more. -/
def State.mapOutSlice (s : State) (die k : Nat) : State :=
  let s1 := (s.killContexts (s.dsmContexts die) 3).updDie die fun d => { d with slicesOut := insertNew d.slicesOut k }
  (s1.unitFailed 2 (decide ((s1.die die).slicesOut.length ≤ 1))).markAbsent die

/-- An LLC bank is mapped out: the contexts with work on its way to one of its lines use it (DESIGN CHOICE, log entry 48). -/
def State.mapOutBank (s : State) (b : Nat) : State :=
  let users := s.contextsAt fun _ loc => (windowDie loc).isNone && Config.llcBank (loc / 64) % 512 == b
  let s := if s.mgmt.llcOut.contains b then s else s.killContexts users 3
  let s1 := { s with mgmt := { s.mgmt with llcOut := insertNew s.mgmt.llcOut b } }
  s1.unitFailed 3 (decide (s1.mgmt.llcOut.length ≤ 8))

/-- A pseudo-channel of stack 2d (index below 384) or 2d + 1 is mapped out; beyond the budget its lines are poisoned
(State.deadLine). The contexts with work on its way to one of its lines use it (DESIGN CHOICE, log entry 48). -/
def State.mapOutPch (s : State) (die p : Nat) : State :=
  let key := die * 1024 + p
  if s.mgmt.unitsOut.contains (4, key) then s
  else
    let users := s.contextsAt fun _ loc => (hbmLine loc).any fun l => lineStack l == 2 * die + p / 384 && lineChannel l == p % 384
    let s1 := ((s.killContexts users 3).recordUnit 4 key).updDie die fun d => if p < 384 then { d with pchOutA := d.pchOutA + 1 } else { d with pchOutB := d.pchOutB + 1 }
    s1.unitFailed 4 (decide ((if p < 384 then (s1.die die).pchOutA else (s1.die die).pchOutB) ≤ 24))

/-- The die in which a location is served: that of a window, or the one through which another package is reached; none for the hub. -/
def State.servedAt (s : State) (loc : Nat) : Option Nat :=
  if 2 ^ 46 ≤ loc ∧ loc < 2 ^ 47 then s.routeVia ((loc - 2 ^ 46) / 2 ^ 40) else windowDie loc

/-- Work of a hart on a die goes over a link of another or the same die to reach a location: link 0 is that to the hub, 1 that to the next die of the ring, any other that to
the one before (R11) (DESIGN CHOICE, log entry 48). -/
def State.usesLink (s : State) (die link : Nat) (fromDie loc : Nat) : Bool :=
  let ends (a b : Nat) : Bool := (fromDie == a && s.servedAt loc == some b) || (fromDie == b && s.servedAt loc == some a)
  let ring := ends die ((die + 1) % 8) || ends die ((die + 7) % 8)
  if link = 0 then s.servedAt loc != some fromDie && (fromDie == die || s.servedAt loc == some die) && !ring
  else ends die (if link = 1 then (die + 1) % 8 else (die + 7) % 8)

/-- A die-to-die lane is mapped out; the index is 64 times the link plus the lane. The contexts with work on its way over the link use it, and those whose harts borrow arrays
across it (R240). -/
def State.mapOutLane (s : State) (die k : Nat) : State :=
  let far := if k / 64 = 1 then (die + 1) % 8 else (die + 7) % 8
  let users := (s.contextsAt (s.usesLink die (k / 64)) ++ s.contextsOf fun h => k / 64 != 0 && h.lenders.any fun c =>
    (dieOf h.id == die && c / 64 == far) || (dieOf h.id == far && c / 64 == die)).eraseDups
  let s := if s.mgmt.unitsOut.contains (5, die * 4096 + k) then s else s.killContexts users 5
  let s1 := s.recordUnit 5 (die * 4096 + k)
  s1.unitFailed 5 (decide (s1.outCount 5 (fun u => u / 64 == (die * 4096 + k) / 64) ≤ 4))

/-- A wavelength of optical die floor(die / 2) is mapped out; the index is 64 times the fibre plus the wavelength. The contexts with work on its way to a package that is
reached through that optical die use it (DESIGN CHOICE, log entry 48). -/
def State.mapOutWave (s : State) (die k : Nat) : State :=
  let j := die / 2
  let key := j * 4096 + k
  if s.mgmt.unitsOut.contains (6, key) then s
  else
    let users := s.contextsAt fun _ loc => decide (2 ^ 46 ≤ loc) && decide (loc < 2 ^ 47) && (s.routeVia ((loc - 2 ^ 46) / 2 ^ 40)).any fun d => d / 2 == j
    let s1 := (s.killContexts users 5).recordUnit 6 key
    let s2 := { s1 with fabric := { s1.fabric with spared := s1.fabric.spared.set (Fin.ofNat 4 j).val (s1.fabric.spared.get (Fin.ofNat 4 j) + 1) (Fin.ofNat 4 j).isLt } }
    s2.unitFailed 6 (decide (s2.outCount 6 (fun u => u / 64 == key / 64) ≤ 2))

/-- R455: a unit fails and is mapped out, and the contexts that use it are killed, with source 3 for a unit on a die or the hub and 5 for a link. Classes as the cause bits of
HEALTH order them, from 0 core to 6 wavelength. -/
def execUnitMapOut (cls die index : Nat) (s : State) : Out :=
  .next (match cls with
  | 0 => if index < 48 then s.mapOutCore die index else s
  | 1 => if index < 384 then s.mapOutOctet die index else s
  | 2 => if index < 48 then s.mapOutSlice die index else s
  | 3 => if index < 512 then s.mapOutBank index else s
  | 4 => if index < 768 then s.mapOutPch die index else s
  | 5 => if index < 4096 then s.mapOutLane die index else s
  | 6 => if index < 4096 then s.mapOutWave die index else s
  | _ => s)

/-! ### Resetting a die (R458) -/

/-- Steps 1 and 2 of R458: a frozen hart still counts on the die where it froze (R349), and the routes move off the die. -/
def State.resetDie (s : State) (die : Nat) : State :=
  let users := (s.contextsOf (fun h => dieOf h.id == die || h.lenders.any fun c => c / 64 == die) ++ (s.parked.filter fun p => dieOf p.hart == die).map (·.ctx) ++
    s.dsmContexts die).eraseDups
  let s1 := (s.updDie die fun d => { d with state := 1 }).moveRoutes
  ((s1.killContexts users 6).markAbsent die).due [.dieDrainEnd die]

/-- R458: DIERST, obeyed only while the die is IN_SERVICE. -/
def execDierst (die : Nat) (s : State) : Out := .next (if (s.die die).state = 0 then s.resetDie die else s)

/-- R458 steps 2 and 3: the routes have moved and the transit buffers have drained; a flit still held never arrived, and is sent again. The copy commands of the die are gone, and
with one of the Ladle's its replication has failed (R408). -/
def execDieDrainEnd (die : Nat) (s : State) : Out :=
  .next (if (s.die die).state = 1 then
    let lost := (s.die die).copies.toList.any fun q => q.any (·.ladle)
    let t := ((s.emptyMesh die).updDie die fun d => { d with copies := Vector.replicate 8 [] }).due [.dieResetComplete die]
    if lost then t.failReplication 3 else t
  else s)

/-- R458 step 4: the die's SRAM is zero and it is IN_SERVICE, or OUT when its temperature caused the reset (R459). The load counters lie in the Ladle's block at
the hub and stay (R404). -/
def execDieResetComplete (die : Nat) (s : State) : Out :=
  .next (if (s.die die).state = 1 then
    let s1 := (List.range 48).foldl (fun (t : State) c => t.zeroRange (locVsp die c 0) (2 ^ 20)) s
    let s2 := s1.zeroRange (locDsm die 0 0) (2 ^ 60)
    let s3 := { s2 with cores := s2.cores.filter fun p => p.1 / 64 != die }
    (s3.updDie die fun d => { d with state := if d.power.hot then 2 else 0, dsm := [], cache := [], version := 0 }).moveRoutes.schedule
  else s)

/-! ### Power (R459, R460) -/

/-- One step down, unless the clock is at 0.8 GHz. -/
def Power.down (p : Power) : Power := if p.step < 2 then { p with step := p.step + 1, downs := p.downs + 1, throt := true } else p

/-- The rules of R459 on one die with its average power and hottest sensor: rule 1, then rule 2 (DEDUCED, log entry 49). -/
def Power.evaluate (p : Power) (watts temp : Nat) : Power :=
  let cap := p.cap.toNat
  let p1 : Power := { p with temp := BitVec.ofNat 8 temp, power := BitVec.ofNat 16 watts, energy := p.energy + BitVec.ofNat 64 (1000 * watts) }
  let p2 := if cap ≠ 0 ∧ (cap < watts ∨ 95 ≤ temp) then p1.down else p1
  if (cap = 0 ∨ 10 * watts ≤ 9 * cap) ∧ temp ≤ 90 then
    if p2.cool + 1 < 10 then { p2 with cool := p2.cool + 1 }
    else { p2 with cool := 0, step := p2.step - 1, throt := decide (1 < p2.step) }
  else { p2 with cool := 0 }

/-- Temperature limits: at 105 °C the die is reset and stays OUT until 85 °C. -/
def State.thermal (s : State) (die temp : Nat) : State :=
  let d := s.die die
  if 105 ≤ temp ∧ d.power.hot = false ∧ d.state.toNat < 2 then
    let s1 := s.updDie die fun d => { d with power := { d.power with hot := true } }
    if d.state = 0 then s1.resetDie die else s1
  else if temp ≤ 85 ∧ d.power.hot = true ∧ d.state = 2 then
    (s.updDie die fun d => { d with state := 0, power := { d.power with hot := false, step := 2, throt := true } }).moveRoutes.schedule
  else s

/-- The die with the highest power, ties to the lowest. -/
def hottest (readings : List (Nat × Nat)) : Nat :=
  ((List.range 8).foldl (fun (best : Nat × Nat) d => if best.2 < (readings.getD d (0, 0)).1 then (d, (readings.getD d (0, 0)).1) else best)
    (0, (readings.getD 0 (0, 0)).1)).1

/-- R459: the evaluation of every millisecond, with the readings of each die: average power in W and hottest sensor in °C. -/
def execPowerEvaluation (readings : List (Nat × Nat)) (s : State) : Out :=
  let at' (d : Nat) : Nat × Nat := readings.getD d (0, 0)
  let s1 : State := { s with now := s.now + 1000 }
  let s2 := (List.range 8).foldl (fun (t : State) d => t.updDie d fun k => { k with power := k.power.evaluate (at' d).1 (at' d).2 }) s1
  let total := (List.range 8).foldl (fun n d => n + (at' d).1) 0
  let s3 := if s.mgmt.pkgcap ≠ 0 ∧ s.mgmt.pkgcap.toNat < total then s2.updDie (hottest readings) fun k => { k with power := k.power.down } else s2
  .next ((List.range 8).foldl (fun (t : State) d => t.thermal d (at' d).2) s3)

/-! ### Registers (Tables 20.2 and 20.4) -/

/-- CAPDIE of a die. -/
def State.capDie (s : State) (die : Nat) : Nat :=
  let d := s.die die
  let octets := 384 - 8 * d.coresOut.length - (d.octetsOut.filter fun o => !d.coresOut.contains (o / 8)).length
  d.state.toNat * 2 ^ 40 + (24 - d.pchOutB) * 2 ^ 35 + (24 - d.pchOutA) * 2 ^ 30 + (48 - d.slicesOut.length) * 2 ^ 15 + octets * 2 ^ 6 + (48 - d.coresOut.length)

/-- Read a fleet register. -/
def State.readFleet (s : State) (off : Nat) : Nat :=
  if 0x4040 ≤ off ∧ off < 0x4080 then s.capDie ((off - 0x4040) / 8)
  else if 0x4100 ≤ off ∧ off < 0x4200 then
    let p := (s.die ((off - 0x4100) / 32)).power
    match off % 32 with
    | 0x00 => p.cap.toNat
    | 0x08 => p.downs.toNat * 2 ^ 32 + (if p.throt then 2 ^ 26 else 0) + p.step * 2 ^ 24 + p.temp.toNat * 2 ^ 16 + p.power.toNat
    | 0x10 => p.energy.toNat
    | _ => 0
  else match off with
    | 0x4000 => s.mgmt.cause.toNat * 256 + s.mgmt.health.toNat
    | 0x4008 => s.mgmt.uncorrpd.toNat * 2 ^ 32 + s.mgmt.corrph.toNat
    | 0x4018 => s.mgmt.pkgcap.toNat
    | 0x4080 => 512 - s.mgmt.llcOut.length
    | _ => 0

/-- Write a fleet register. -/
def State.writeFleet (s : State) (off : Nat) (v : Word) : State :=
  let n := v.toNat
  if 0x4100 ≤ off ∧ off < 0x4200 then
    if off % 32 = 0 then s.updDie ((off - 0x4100) / 32) fun d => { d with power := { d.power with cap := BitVec.ofNat 16 n } } else s
  else match off with
    | 0x4008 => { s with mgmt := { s.mgmt with uncorrpd := BitVec.ofNat 16 (n / 2 ^ 32), corrph := BitVec.ofNat 32 n } }
    | 0x4010 => nextState (execDierst (n % 8) s) s
    | 0x4018 => { s with mgmt := { s.mgmt with pkgcap := BitVec.ofNat 16 n } }
    | _ => s

end Sys2Proof.Machine
end

