-- ==== Sys2Proof/Machine/Migration.lean ====
section
/-! DEFINITION. Page migration (R395 to R398): the 64 slots of the hub and the copy of a page line by line. -/

namespace Sys2Proof.Machine

/-- A migration slot. -/
def State.migSlot (s : State) (k : Nat) : MigSlot := s.mig.get (Fin.ofNat 64 k)

/-- Change a migration slot. -/
def State.updMig (s : State) (k : Nat) (f : MigSlot → MigSlot) : State :=
  { s with mig := s.mig.set (Fin.ofNat 64 k).val (f (s.migSlot k)) (Fin.ofNat 64 k).isLt }

/-- R395: GO is obeyed only in FREE. -/
def execMigrationGo (slot : Nat) (s : State) : Out :=
  .next (if (s.migSlot slot).state = .free then (s.updMig slot fun m => { m with state := .copying, pointer := 0 }).due [.migrationLineCopy slot] else s)

/-- R395: CLEAR is obeyed only in DONE or ERROR. -/
def execMigrationClear (slot : Nat) (s : State) : Out :=
  .next (if (s.migSlot slot).state = .done ∨ (s.migSlot slot).state = .error then s.updMig slot fun m => { m with state := .free, pointer := 0 } else s)

/-- The location of a line of the frame that MIGOLD or MIGNEW names. -/
def State.migLine (s : State) (v : Word) (line : Nat) : Nat :=
  s.physLoc (if bitOf v.toNat 0 then some (bitsOf v.toNat 3 1) else none) (bitsOf v.toNat 51 12 * 4096 + 64 * line)

/-- A location in a line that has moved. -/
def movedLoc (src dst loc : Nat) : Nat := if loc / 64 = src / 64 then dst + loc % 64 else loc

/-- A range of which a line has moved, in pieces. -/
def Segment.moved (src dst : Nat) (x : Segment) : List Segment :=
  let lo := max x.loc src
  let hi := min (x.loc + x.len) (src + 64)
  if hi ≤ lo then [x]
  else [⟨x.off, x.loc, lo - x.loc⟩, ⟨x.off + (lo - x.loc), dst + (lo - src), hi - lo⟩, ⟨x.off + (hi - x.loc), hi, x.loc + x.len - hi⟩].filter fun y => y.len != 0

/-- A copy command of which a line has moved. -/
def CopyCmd.moved (src dst : Nat) (c : CopyCmd) : CopyCmd :=
  { c with src := c.src.flatMap (·.moved src dst), dst := c.dst.flatMap (·.moved src dst), flag := c.flag.map fun f => (movedLoc src dst f.1, f.2) }

/-- A line number, once a line has moved. -/
def movedLine (src dst line : Nat) : Nat := if line = src / 64 then dst / 64 else line

/-- A packet on its way that names a line which has moved. -/
def Packet.moved (src dst : Nat) (p : Packet) : Packet := { p with line := movedLine src dst p.line }

/-- The packets of a mesh follow a line that has moved. -/
def Noc.moved (src dst : Nat) (n : Noc) : Noc :=
  { n with
    crossing := n.crossing.map fun c => { c with packet := c.packet.moved src dst }
    waiting := n.waiting.map fun p => (p.1, p.2.moved src dst)
    ports := n.ports.map fun p => (p.1, { p.2 with flits := p.2.flits.map fun f => { f with packet := f.packet.moved src dst } }) }

/-- A transfer of which a line has moved: also the lines that it has asked for, and those that have come. -/
def StreamCmd.moved (src dst : Nat) (c : StreamCmd) : StreamCmd :=
  { c with locs := c.locs.map (movedLoc src dst), asked := c.asked.map (movedLine src dst), answered := c.answered.map (movedLine src dst) }

/-- Work under translations of before follows a line that has moved: accesses, transfers with their requests, posted copies and commits (R397). -/
def State.followLine (s : State) (src dst : Nat) : State :=
  { s with
    accesses := s.accesses.map fun a => { a with loc := movedLoc src dst a.loc }
    orphans := s.orphans.map fun a => { a with loc := movedLoc src dst a.loc }
    streams := s.streams.map (·.moved src dst)
    appends := s.appends.map fun a => { a with desc := movedLoc src dst a.desc }
    dies := s.dies.map fun (d : Die) => { d with copies := d.copies.map fun (l : List CopyCmd) => l.map (·.moved src dst), noc := d.noc.moved src dst }
    pins := s.pins.filter fun p => p.line != src / 64 }

/-- R396: one line is copied, or an uncorrectable error, which poisons it (R398), stops the copy. A page that a minor overflow holds makes it wait (R450). Work on its way follows the line (R397), and pins of the
source line are released. -/
def execMigrationLineCopy (slot : Nat) (err : Bool) (s : State) : Out :=
  let m := s.migSlot slot
  .next (if m.state = .copying ∧ m.pointer < 64 then
    let src := s.migLine m.old m.pointer
    let dst := s.migLine m.new m.pointer
    if s.isHeld src || s.isHeld dst then s
    else if err || s.isPoisoned src then
      let s1 := s.updMig slot fun m => { m with state := .error }
      if err then
        let s2 := s1.setHbm fun h => h.poisonLine (src / 64)
        match hbmLine src with
        | some l => s2.memoryError noCtx l
        | none => s2
      else s1
    else
      let s1 := ({ s with mem := Memory.put s.mem dst (Memory.bytes s.mem src 64) } : State).followLine src dst
      let s2 := if s.isPoisoned dst then s1.clearLines [dst / 64] else s1
      let s3 := s2.updMig slot fun m => { m with pointer := m.pointer + 1, state := if m.pointer = 63 then .done else .copying }
      if m.pointer = 63 then s3 else s3.due [.migrationLineCopy slot]
  else s)

/-- Read a register of the translation block (Table 15.3). -/
def State.readMig (s : State) (off : Nat) : Nat :=
  let m := s.migSlot (off / 32)
  match if off < 0x800 then off % 32 else 0x10 with
  | 0x00 => m.old.toNat
  | 0x08 => m.new.toNat
  | 0x18 => m.pointer + 256 * (match m.state with
    | .free => 0
    | .copying => 1
    | .done => 2
    | .error => 3)
  | _ => 0

/-- The implemented bits of MIGOLD and MIGNEW. -/
def migMask : Word := 0x000FFFFFFFFFF00F

/-- Write a register of the translation block. -/
def State.writeMig (s : State) (off : Nat) (v : Word) : State :=
  let k := off / 32
  let free := (s.migSlot k).state == .free
  match if off < 0x800 then off % 32 else 0x18 with
  | 0x00 => if free then s.updMig k fun m => { m with old := v &&& migMask } else s
  | 0x08 => if free then s.updMig k fun m => { m with new := v &&& migMask } else s
  | 0x10 => match bitsOf v.toNat 1 0, execMigrationGo k s, execMigrationClear k s with
    | 1, .next t, _ => t
    | 2, _, .next t => t
    | _, _, _ => s
  | _ => s

end Sys2Proof.Machine
end

