-- ==== Sys2Proof/Machine/Boot.lean ====
section
/-! DEFINITION. Host link, boot and security (R421 to R433): resets, signed images, the zero-fill, the life cycle, attestation, the host's and
the fabric's accesses to memory. -/

namespace Sys2Proof.Machine

/-- Change the management block. -/
def State.setMgmt (s : State) (f : Mgmt → Mgmt) : State := { s with mgmt := f s.mgmt }

/-- What the outside receives. -/
def State.respond (s : State) (b : List Byte) : State := { s with outside := { s.outside with data := b, poisoned := false } }

/-- A measurement register. -/
def Mgmt.setMeas (m : Mgmt) (n : Nat) (d : BitVec 256) : Mgmt := { m with meas := m.meas.set (Fin.ofNat 6 n).val d (Fin.ofNat 6 n).isLt }

/-! ### Resets and the zero-fill (R433) -/

/-- All key slots are destroyed and the zero-fill starts: local HBM holds nothing (its old ciphertext is unreadable, and it becomes zero). -/
def State.eraseMemory (s : State) : State :=
  { s with
    mem := s.mem.filter fun c => decide (2 ^ 40 ≤ c.1) && !(decide (2 ^ 60 ≤ c.1) && decide (c.1 < 2 ^ 61))
    hbm := { s.hbm with keyCur := none, keyNext := none, keyOld1 := none, keyOld2 := none, keyver := 0, regionBase := 0, regions := [], blocks := [],
                        tree := [], nodes := [], stored := [], metaTags := [], fetched := none, poison := [], overflow := [] }
    mgmt := { s.mgmt with fill := true, fillptr := 0 } }

/-- The SRAM and registers that every reset zeroes; what is kept is put back by the two resets. -/
def State.zeroed (s : State) : State :=
  { State.reset with
    mem := s.mem.filter fun c => decide (c.1 < 2 ^ 61)
    relaxed := s.relaxed
    caching := s.caching
    free := s.free
    fuses := s.fuses
    mgmt := { Mgmt.zero with lcstate := s.mgmt.lcstate, owner := s.mgmt.owner, unitsOut := s.mgmt.unitsOut, llcOut := s.mgmt.llcOut }
    dies := Vector.ofFn fun d => { Die.zero with coresOut := (s.dies.get d).coresOut, octetsOut := (s.dies.get d).octetsOut, slicesOut := (s.dies.get d).slicesOut,
                                                 pchOutA := (s.dies.get d).pchOutA, pchOutB := (s.dies.get d).pchOutB }
    fabric := { Fabric.zero with spared := s.fabric.spared } }

/-- R433: a cold reset. -/
def execColdReset (s : State) : Out := .next s.zeroed.eraseMemory

/-- R433: a warm reset keeps HBM, the state of R446, the error history (R453), and what is counted since cold reset (R456, Table 20.4). -/
def execWarmReset (s : State) : Out :=
  let z := s.zeroed
  .next { z with
    now := s.now
    ladle := { z.ladle with since := s.now, started := s.now }
    hbm := { Hbm.zero with keyCur := s.hbm.keyCur, keyNext := s.hbm.keyNext, keyOld1 := s.hbm.keyOld1, keyOld2 := s.hbm.keyOld2, keyver := s.hbm.keyver,
                           regionBase := s.hbm.regionBase, regions := s.hbm.regions, blocks := s.hbm.blocks, tree := s.hbm.tree, nodes := s.hbm.nodes, stored := s.hbm.stored, metaTags := s.hbm.metaTags, poison := s.hbm.poison,
                           errTotal := s.hbm.errTotal, errNext := s.hbm.errNext, errlog := s.hbm.errlog }
    mgmt := { z.mgmt with fill := s.mgmt.fill, fillptr := s.mgmt.fillptr, health := s.mgmt.health, cause := s.mgmt.cause }
    dies := Vector.ofFn fun d => { z.dies.get d with power := { (z.dies.get d).power with downs := (s.dies.get d).power.downs, energy := (s.dies.get d).power.energy } } }

/-! ### Accesses from outside the package -/

/-- An access of the host or the fabric to local HBM. A full-line write clears poison; a read or a partial write receives poison from a poisoned line, and no context is
killed (R449). -/
def State.outsideAccess (s : State) (w : HostWait) : State :=
  let lines := pieces w.pa w.len 64
  if lines.any fun p => s.isPoisoned p.1 && !(w.write && p.2 == 64) then { s with outside := { s.outside with data := [], poisoned := true } }
  else if w.write then
    let s1 := s.clearLines ((lines.filter fun p => s.isPoisoned p.1).map fun p => p.1 / 64)
    { s1 with mem := Memory.put s1.mem w.pa (w.bytes.take w.len) }
  else s.respond (Memory.bytes s.mem w.pa w.len)

/-- Two accesses from outside share a line. -/
def HostWait.meets (v w : HostWait) : Bool := overlaps (v.pa / 64) ((v.pa + v.len + 63) / 64 - v.pa / 64) (w.pa / 64) ((w.pa + w.len + 63) / 64 - w.pa / 64)

/-- An access from outside has to wait: the fill has not passed the lines of a host access (R433), a page of it is held (R450), or an earlier access to one of its
lines waits. -/
def State.hostBlocked (s : State) (w : HostWait) : Bool :=
  (!w.fabric && s.mgmt.fill && decide (s.mgmt.fillptr < (w.pa + w.len + 63) / 64)) || ((pieces w.pa w.len 4096).any fun p => s.isHeld p.1) || s.hostWaits.any (·.meets w)

/-- An access from outside is performed, or waits; one outside local HBM reaches nothing. -/
def State.outsideRequest (s : State) (w : HostWait) : State :=
  if 2 ^ 40 < w.pa + w.len then s
  else if s.hostBlocked w then { s with hostWaits := s.hostWaits ++ [w] }
  else s.outsideAccess w

/-- Accesses from outside that need not wait any more are performed in order. -/
def State.retryHost (s : State) : State := s.hostWaits.foldl State.outsideRequest { s with hostWaits := [] }

/-- R421, R433: a host CXL.mem access to the HDM range, by physical address. -/
def execHostCxlMemAccess (pa len : Nat) (write : Bool) (bytes : List (BitVec 8)) (s : State) : Out := .next (s.outsideRequest ⟨pa, len, write, bytes, false⟩)

/-- R424, R98: an access of another package to this package's HBM, served at the hub. -/
def execFabricAccess (pa len : Nat) (write : Bool) (bytes : List (BitVec 8)) (s : State) : Out := .next (s.outsideRequest ⟨pa, len, write, bytes, true⟩)

/-- The number of HBM lines. -/
def hbmLines : Nat := 2 ^ 34

/-- Every line that memory lists in local HBM is encrypted and tagged; the others hold zeros, and their cells follow (R442). -/
def State.sealAll (s : State) : State :=
  let lines := (s.mem.filterMap fun c => hbmLine c.1).eraseDups
  s.setHbm fun h => { h with stored := lines.foldl (fun t l => Sparse.set none t l (h.sealLine l (Memory.bytes s.mem (64 * l) 64))) [] }

/-- The fill is done: FILL clears and two key slots hold fresh keys with KEYVER = 1 (R446), under which what has been written behind the fill lies too (DEDUCED, log
entry 69). -/
def State.fillDone (s : State) : State :=
  State.sealAll { s with
    mgmt := { s.mgmt with fill := false, fillptr := hbmLines }
    hbm := { s.hbm with keyCur := some (freshKeys s.free), keyNext := some (freshKeys (s.free + 2)), keyOld1 := none, keyOld2 := none, keyver := 1,
                        regionBase := 1, regions := [], nodes := [] }
    free := s.free + 4 }

/-- R433: the fill passes one line. -/
def execZeroFillLine (s : State) : Out :=
  .next (if s.mgmt.fill then
    let s1 := s.setMgmt fun m => { m with fillptr := m.fillptr + 1 }
    (if s1.mgmt.fillptr < hbmLines then s1 else s1.fillDone).retryHost
  else s)

/-- R433: the fill completes; the step stands for the lines that are left (DESIGN CHOICE, log entry 30). -/
def execZeroFillComplete (s : State) : Out := .next (if s.mgmt.fill then s.fillDone.retryHost else s)

/-- Work of other agents that a held page may have stopped: copies, chunks, commits and migrations. -/
def State.heldDues (s : State) : List Due :=
  ((List.range 8).flatMap fun die => (List.range 8).filterMap fun q => if ((s.die die).copies.get (Fin.ofNat 8 q)).isEmpty then none else some (.copyExecute die q)) ++
  (s.streams.flatMap fun c => (List.range ((c.count * c.size + 511) / 512)).map (.chunkDone c.hart c.handle ·) ++ [.streamComplete c.hart c.handle]) ++
  ((List.range s.appends.length).reverse.map .vappendCommit) ++
  ((List.range 64).filterMap fun k => if (s.migSlot k).state = .copying then some (.migrationLineCopy k) else none)

/-- R450: the re-encryption of a page after a minor overflow ends, and what it has held goes on. -/
def execMinorOverflowEnd (page : Nat) (s : State) : Out :=
  .next ((s.setHbm fun h => { h with overflow := h.overflow.filter (· != page) }).retryHost.due s.heldDues)

/-! ### Signed images (R427 to R429) -/

/-- The number of a little-endian field of an image or a token (DEDUCED, log entry 58). -/
def leField (b : List Byte) (off n : Nat) : Nat := leNat ((b.drop off).take n)

/-- The signature over a digest under a public key, both as the image header holds them. -/
def keyedVerify (digest : BitVec 256) (key sig : List Byte) : Bool :=
  ecdsaVerify digest (leField key 0 32) (leField key 32 32) (leField sig 0 32) (leField sig 32 32)

/-- Measurement index 6: the life-cycle state and the fuse configuration, of which the unique secret is no part (R429; opaque, DESIGN CHOICE, log entry 8). -/
def Fuses.digest (f : Fuses) (lcstate : Nat) (owner : BitVec 256) : BitVec 256 :=
  Config.fuseDigest lcstate owner
    (f.serial.toNat :: f.keySlots.toList.map (·.toNat) ++ f.revoked.toList.map (fun r => if r then 1 else 0) ++ f.minSvn.toList.map (·.toNat))

/-- The header and payload of an image, which are what is measured of it (R429). -/
def imageBody (b : List Byte) : List Byte := b.take (0xC0 + leField b 8 8)

/-- What verification finds, as BOOTSTAT.FAIL codes: 0 none, 1 signature, 2 key revoked, 3 SVN below the minimum, 4 malformed. The reserved bytes of the header are
ignored (R8). -/
def Fuses.checkImage (f : Fuses) (kind : Nat) (b : List Byte) : Nat :=
  let idx := leField b 5 1
  let len := leField b 8 8
  let key := (b.drop 0x40).take 64
  let signed := b.take 0x40 ++ (b.drop 0xC0).take len
  if !(decide (idx < 4) && sha256 key == f.keySlots.get (Fin.ofNat 4 idx) && keyedVerify (sha256 signed) key ((b.drop 0x80).take 64)) then 1
  else if f.revoked.get (Fin.ofNat 4 idx) then 2
  else if leField b 6 2 < (f.minSvn.get (Fin.ofNat 4 (kind - 1))).toNat then 3
  else if leField b 0 4 ≠ 0x4B584931 ∨ leField b 4 1 ≠ kind ∨ len % 64 ≠ 0 ∨ b.length < 0xC0 + len then 4
  else 0

/-- The bytes of a slot digest: zeros for an empty slot (R429). -/
def slotDigest (slots : Sparse SfImage) (n : Nat) : List Byte :=
  match slots.find? fun p => p.1 == n with
  | some p => beBytes 32 p.2.digest.toNat
  | none => List.replicate 32 0

/-- Measurement index 5 for the slots of a core. -/
def slotsMeasure (slots : Sparse SfImage) : BitVec 256 := sha256 (((List.range 32).map (32 + ·)).flatMap (slotDigest slots))

/-- The mapped-out units are mapped out again at boot, with their effect on HEALTH (R455). -/
def State.bootHealth (s : State) : State :=
  let dies := List.range 8
  let any := dies.any fun d => !((s.die d).coresOut.isEmpty && (s.die d).octetsOut.isEmpty && (s.die d).slicesOut.isEmpty)
  let s1 := if any || !s.mgmt.llcOut.isEmpty || !s.mgmt.unitsOut.isEmpty then s.setMgmt fun m => { m with health := if m.health = 2 then 2 else 1 } else s
  let lost := [dies.any fun d => decide (2 < (s.die d).coresOut.length), decide (16 < dies.foldl (fun n d => n + (s.die d).octetsOut.length) 0),
    dies.any fun d => decide (1 < (s.die d).slicesOut.length), decide (8 < s.mgmt.llcOut.length),
    dies.any fun d => decide (24 < (s.die d).pchOutA) || decide (24 < (s.die d).pchOutB),
    s.mgmt.unitsOut.any fun u => u.1 == 5 && decide (4 < s.outCount 5 fun v => v / 64 == u.2 / 64),
    s.mgmt.unitsOut.any fun u => u.1 == 6 && decide (2 < s.outCount 6 fun v => v / 64 == u.2 / 64)]
  (List.range 7).foldl (fun (t : State) i => if lost.getD i false then t.requestReplace i else t) s1

/-- R429: the next boot stage is verified and measured, or the boot stops. The runtime firmware is verified after the zero-fill; it sets
PKGPOS (R425) and maps units out again (R455). -/
def execBootStage (image : List (BitVec 8)) (s : State) : Out :=
  let stage := s.mgmt.bootStage.toNat
  if s.mgmt.bootFail ≠ 0 ∨ 3 ≤ stage ∨ (stage = 1 ∧ s.mgmt.fill = true) then .next s
  else
    let s0 := if stage = 0 then s.setMgmt fun m => ((m.setMeas 0 Config.romDigest).setMeas 4 (slotsMeasure [])).setMeas 5 (s.fuses.digest m.lcstate.toNat m.owner) else s
    match s.fuses.checkImage (stage + 1) image with
    | 0 =>
      let s1 := s0.setMgmt fun m => { m.setMeas (stage + 1) (sha256 (imageBody image)) with bootStage := BitVec.ofNat 4 (stage + 1) }
      .next (if stage = 1 then ({ s1 with fabric := { s1.fabric with pkgpos := Config.pkgPos } } : State).bootHealth else s1)
    | f => .next (s0.setMgmt fun m => { m with bootFail := BitVec.ofNat 4 f })

/-! ### Life cycle (R431, R432) -/

/-- The bytes of the token. -/
def Mgmt.tokenBytes (m : Mgmt) : List Byte := leBytes 256 m.token.toNat

/-- A key of the token, decompressed, as the 64 bytes x then y. -/
def tokenKey (b : List Byte) (off : Nat) : Option (List Byte) :=
  (decompress (leField b off 1) (beNat ((b.drop (off + 1)).take 32))).map fun q => leBytes 32 q.1 ++ leBytes 32 q.2

/-- A Kaxel key: it matches an image key slot that is not revoked. -/
def Fuses.isKaxelKey (f : Fuses) (key : List Byte) : Bool := (List.finRange 4).any fun i => f.keySlots.get i == sha256 key && !f.revoked.get i

/-- A signature of the token verifies. -/
def tokenSig (b key : List Byte) (off : Nat) : Bool := keyedVerify (sha256 (b.take 0x80)) key ((b.drop off).take 64)

/-- The token is accepted for a transition (R432). Its reserved bytes are ignored (R8). -/
def State.tokenOk (s : State) (target : Nat) : Bool :=
  let b := s.mgmt.tokenBytes
  let from' := s.mgmt.lcstate.toNat
  let both := from' == 2 && target == 3
  let keyA := tokenKey b 0x38
  let keyB := tokenKey b 0x59
  let operator (k : List Byte) : Bool := sha256 k == s.mgmt.owner
  leField b 0 4 == 0x4B584C43 && leField b 4 1 == from' && leField b 5 1 == target && leField b 6 1 == (if both then 2 else 1) &&
  leField b 8 16 == s.fuses.serial.toNat &&
  ((leField b 0x18 32 == 0) != (from' == 0)) &&
  (match keyA with
    | some k => tokenSig b k 0x80 && (if from' = 0 || both then s.fuses.isKaxelKey k else operator k)
    | none => false) &&
  (if both then match keyB with
      | some k => tokenSig b k 0xC0 && operator k
      | none => false
    else leField b 0x59 33 == 0 && leField b 0xC0 64 == 0)

/-- The transitions of Table 18.6. -/
def lcAllowed (from' to' : Nat) : Bool :=
  (from' == 0 && to' == 1) || (from' == 1 && to' == 2) || (from' == 2 && to' == 3) || ((from' == 1 || from' == 2 || from' == 3) && to' == 4)

/-- A request of a life-cycle state (R431): a transition destroys the key slots and starts the zero-fill (R433). -/
def State.lcRequest (s : State) (target : Nat) : State :=
  if !lcAllowed s.mgmt.lcstate.toNat target then s.setMgmt fun m => { m with lcres := 3 }
  else if !s.tokenOk target then s.setMgmt fun m => { m with lcres := 2 }
  else (s.setMgmt fun m =>
      let owner := if target = 1 then BitVec.ofNat 256 (beNat ((m.tokenBytes.drop 0x18).take 32)) else m.owner
      { m.setMeas 5 (s.fuses.digest target owner) with lcres := 1, lcstate := BitVec.ofNat 3 target, owner := owner }).eraseMemory

/-- R431: a request of PROVISIONED. -/
def execLcreqProvisioned (s : State) : Out := .next (s.lcRequest 1)

/-- R431: a request of DEPLOYED. -/
def execLcreqDeployed (s : State) : Out := .next (s.lcRequest 2)

/-- R431: a request of RMA. -/
def execLcreqRma (s : State) : Out := .next (s.lcRequest 3)

/-- R431: a request of DECOMMISSIONED. -/
def execLcreqDecommissioned (s : State) : Out := .next (s.lcRequest 4)

/-- A write of LCREQ. -/
def State.writeLcreq (s : State) (target : Nat) : State :=
  match target with
  | 1 => nextState (execLcreqProvisioned s) s
  | 2 => nextState (execLcreqDeployed s) s
  | 3 => nextState (execLcreqRma s) s
  | 4 => nextState (execLcreqDecommissioned s) s
  | _ => s.setMgmt fun m => { m with lcres := 3 }

/-! ### Attestation (R430; the bytes of a response are the model's, DESIGN CHOICE, log entry 16) -/

/-- R430: GET_VERSION: SPDM 1.3. -/
def execGetVersion (s : State) : Out := .next (s.respond [0x13])

/-- R430: GET_CAPABILITIES: certificates, challenge, signed measurements, no sessions. -/
def execGetCapabilities (s : State) : Out := .next (s.respond [0x16, 0, 0, 0])

/-- R430: NEGOTIATE_ALGORITHMS: ECDSA P-256 and SHA-256. -/
def execNegotiateAlgorithms (s : State) : Out := .next (s.respond [0x10, 0x01])

/-- DECOMMISSIONED: attestation reports the state only. -/
def State.attest (s : State) (b : List Byte) : State := if s.mgmt.lcstate = 4 then s.respond [4] else s.respond b

/-- Measurement index 2, of which the identity key is derived. -/
def State.meas2 (s : State) : BitVec 256 := s.mgmt.meas.get 1

/-- R430: GET_DIGESTS. -/
def execGetDigests (s : State) : Out := .next (s.attest (beBytes 32 (Config.certDigest s.fuses.uniqueSecret s.meas2).toNat))

/-- R430: GET_CERTIFICATE. -/
def execGetCertificate (off len : Nat) (s : State) : Out :=
  .next (s.attest ((List.range len).map fun i => Config.certByte s.fuses.uniqueSecret s.meas2 (off + i)))

/-- The measurements as bytes. -/
def Mgmt.measBytes (m : Mgmt) : List Byte := m.meas.toList.flatMap fun d => beBytes 32 d.toNat

/-- R430: CHALLENGE: the identity key signs the nonce and the measurements. -/
def execChallenge (nonce : BitVec 256) (s : State) : Out :=
  .next (s.attest (beBytes 64 (Config.identitySign s.fuses.uniqueSecret s.meas2 (sha256 (beBytes 32 nonce.toNat ++ s.mgmt.measBytes))).toNat))

/-- R430: GET_MEASUREMENTS of an index 1 to 6, or all of them. -/
def execGetMeasurements (index : Nat) (s : State) : Out :=
  .next (s.attest (if 1 ≤ index ∧ index ≤ 6 then beBytes 32 (s.mgmt.meas.get (Fin.ofNat 6 (index - 1))).toNat else s.mgmt.measBytes))

/-! ### The fabric block and the noise sources -/

/-- R426: a write of ROUTE. -/
def execRouteWrite (p : Nat) (val : Word) (s : State) : Out :=
  .next (if p < 64 then State.moveRoutes { s with fabric := { s.fabric with route := Sparse.set 0 s.fabric.route p (val.setWidth 4), moved := s.fabric.moved.filter (· != p) } } else s)

/-- LINKSTAT.UP of an optical die (Table 18.4), or the CXL link for link 4 (R421). -/
def execLinkTrained (link : Nat) (up : Bool) (s : State) : Out :=
  .next (if link < 4 then { s with fabric := { s.fabric with up := s.fabric.up.set (Fin.ofNat 4 link).val up (Fin.ofNat 4 link).isLt } }
    else if link = 4 then { s with fabric := { s.fabric with hostUp := up } }
    else s)

/-- R66: the health test of a die's noise source changes. -/
def execNsfailChange (die : Nat) (v : Bool) (s : State) : Out := .next (s.updDie die fun d => { d with nsfail := v })

/-- Read a register of the fabric block (Table 18.4). -/
def State.readFabric (s : State) (off : Nat) : Nat :=
  if off < 0x200 then (Sparse.get (0 : BitVec 4) s.fabric.route (off / 8)).toNat
  else if off = 0x200 then s.fabric.pkgpos.toNat
  else if 0x300 ≤ off ∧ off < 0x320 then
    let j := Fin.ofNat 4 ((off - 0x300) / 8)
    (s.fabric.retries.get j).toNat * 2 ^ 32 + (s.fabric.spared.get j).toNat * 2 + (if s.fabric.up.get j then 1 else 0)
  else 0

/-! ### The management block (Table 18.3) -/

/-- Read a register of the management block. -/
def State.readMgmt (s : State) (off : Nat) : Nat :=
  let m := s.mgmt
  if 0x4000 ≤ off ∧ off < 0x4200 then s.readFleet off
  else if 0x1000 ≤ off ∧ off < 0x4000 then s.readHbm off
  else if 0x400 ≤ off ∧ off < 0x500 then bitsOf m.token.toNat ((off - 0x400) * 8 + 63) ((off - 0x400) * 8)
  else if 0x100 ≤ off ∧ off < 0x1C0 then leField (beBytes 32 (m.meas.get (Fin.ofNat 6 ((off - 0x100) / 32))).toNat) (off % 32) 8
  else if 0x80 ≤ off ∧ off < 0xA0 then leField (beBytes 32 m.owner.toNat) (off - 0x80) 8
  else match off with
    | 0x00 => m.lcstate.toNat + (if m.fill then 256 else 0)
    | 0x08 => m.fillptr * 64
    | 0x10 => m.bootFail.toNat * 256 + m.bootStage.toNat
    | 0x20 => m.lcres.toNat
    | 0x28 => m.hostsize.toNat
    | 0x30 => m.fabtmo.toNat
    | 0x40 => s.fuses.serial.toNat % 2 ^ 64
    | 0x48 => s.fuses.serial.toNat / 2 ^ 64
    | _ => 0

/-- Write a register of the management block. -/
def State.writeMgmt (s : State) (off : Nat) (v : Word) : State :=
  let n := v.toNat
  if 0x4000 ≤ off ∧ off < 0x4200 then s.writeFleet off v
  else if 0x1000 ≤ off ∧ off < 0x4000 then s.writeHbm off v
  else if 0x400 ≤ off ∧ off < 0x500 then
    let k := (off - 0x400) * 8
    s.setMgmt fun m => { m with token := BitVec.ofNat 2048 (m.token.toNat - bitsOf m.token.toNat (k + 63) k * 2 ^ k + n * 2 ^ k) }
  else match off with
    | 0x18 => s.writeLcreq (n % 8)
    | 0x28 => s.setMgmt fun m => { m with hostsize := BitVec.ofNat 64 (bitsOf n 51 12 * 4096) }
    | 0x30 => s.setMgmt fun m => { m with fabtmo := if n % 2 ^ 32 = 0 then 10000 else BitVec.ofNat 32 n }
    | _ => s

end Sys2Proof.Machine
end

