-- ==== Sys2Proof/Machine/Reals.lean ====
section
/-! DEFINITION. Real functions to 384 fraction bits, from which the coefficient tables of R245 are rounded and against which the bounds of
R249 are held. Every error here is far below the last bit that a rounding to F32 looks at (DEDUCED, log entry 17). -/

namespace Sys2Proof.Machine

/-- A real number x as the integer near x·2^384. -/
abbrev Fx := Int

/-- The scale. -/
def fxBits : Nat := 384

/-- One. -/
def fxOne : Fx := ((2 ^ fxBits : Nat) : Int)

/-- A dyadic number k·2^-b. -/
def fxDyadic (k : Int) (b : Nat) : Fx := k * fxOne / ((2 ^ b : Nat) : Int)

/-- Product. -/
def fxMul (a b : Fx) : Fx := a * b / fxOne

/-- Quotient. -/
def fxDiv (a b : Fx) : Fx := a * fxOne / b

/-- Σ t^(2k+1)/(2k+1) for k < n, with alternating signs when `alt` is set: atanh or atan of t. -/
def fxOdd (alt : Bool) (t : Fx) (n : Nat) : Fx :=
  let tt := if alt then -fxMul t t else fxMul t t
  ((List.range n).foldl (fun (p : Fx × Fx) (k : Nat) => (fxMul p.1 tt, p.2 + p.1 / (2 * (k : Int) + 1))) (t, 0)).2

/-- ln y for y in [1, 2]. -/
def fxLn (y : Fx) : Fx := 2 * fxOdd false (fxDiv (y - fxOne) (y + fxOne)) 130

/-- ln 2. -/
def fxLn2 : Fx := fxLn (2 * fxOne)

/-- π, by Machin's formula. -/
def fxPi : Fx := 16 * fxOdd true (fxOne / 5) 90 - 4 * fxOdd true (fxOne / 239) 30

/-- Square n times. -/
def fxSquares : Nat → Fx → Fx
  | 0, x => x
  | n + 1, x => fxSquares n (fxMul x x)

/-- e^x, for |x| up to some hundreds: Taylor's series of x/2^16, squared 16 times. -/
def fxExp (x : Fx) : Fx :=
  let h := x / 65536
  fxSquares 16 ((List.range 48).foldl (fun (p : Fx × Fx) (k : Nat) => (fxMul p.1 h / ((k : Int) + 1), p.2 + p.1)) (fxOne, 0)).2

/-- The square root. -/
def fxSqrt (x : Fx) : Fx :=
  let v := x.toNat * 2 ^ fxBits
  ((isqrt (Nat.log2 v / 2 + 1) v 0 : Nat) : Int)

/-- sin θ and cos θ for θ in [0, 2]. -/
def fxSinCos (θ : Fx) : Fx × Fx :=
  let tt := -fxMul θ θ
  let sum (first : Fx) (o : Int) : Fx := ((List.range 64).foldl (fun (p : Fx × Fx) (k : Nat) =>
    (fxMul p.1 tt / ((2 * (k : Int) + 1 + o) * (2 * (k : Int) + 2 + o)), p.2 + p.1)) (first, 0)).2
  (sum θ 1, sum fxOne 0)

/-- 2/√π. -/
def fxTwoOverSqrtPi : Fx := fxDiv (2 * fxOne) (fxSqrt fxPi)

/-- erf of a z ≥ 0 up to 12, given z and z²: all terms of the series are positive. -/
def fxErf (z zz : Fx) : Fx :=
  let s := ((List.range 640).foldl (fun (p : Fx × Fx) (n : Nat) => (fxMul p.1 (2 * zz) / (2 * (n : Int) + 3), p.2 + p.1)) (z, 0)).2
  fxDiv (fxMul fxTwoOverSqrtPi s) (fxExp zz)

/-- The standard normal distribution Φ(v), |v| ≤ 17. -/
def fxPhi (v : Fx) : Fx :=
  let e := fxErf (fxMul (v.natAbs : Int) (fxSqrt (fxOne / 2))) (fxMul v v / 2)
  if v < 0 then (fxOne - e) / 2 else (fxOne + e) / 2

/-- The logistic function σ(v). -/
def fxSigma (v : Fx) : Fx :=
  let e := fxExp (-(v.natAbs : Int))
  if v < 0 then fxDiv e (fxOne + e) else fxDiv fxOne (fxOne + e)

/-- tanh a, for a ≥ 0. -/
def fxTanh (a : Fx) : Fx :=
  let e := fxExp (-2 * a)
  fxDiv (fxOne - e) (fxOne + e)

/-- A real number as a value; a real too close to zero to be anything else is zero. -/
def fxNum (x : Fx) : Num := if x.natAbs < 2 ^ 40 then Num.zero else .fin (decide (x < 0)) x.natAbs (-384) false

/-- A real number rounded RNE to n fraction bits. -/
def fxRound (n : Nat) (x : Fx) : Num :=
  let k := (roundAt .rne 0 false x.natAbs (-384) false (-(n : Int))).1
  .fin (decide (x < 0)) k (-(n : Int)) false

/-- A list by repeated extension: n further entries, each computed from the entries so far and its index. -/
def extend (f : List Fx → Nat → Fx) : Nat → List Fx → List Fx
  | 0, l => l
  | n + 1, l => extend f n (l ++ [f l l.length])

/-- Σ c_i c_(n-i). -/
def conv (l : List Fx) (n : Nat) : Fx := (List.range (n + 1)).foldl (fun (a : Fx) (i : Nat) => a + fxMul (l.getD i 0) (l.getD (n - i) 0)) 0

/-- Taylor coefficients of 2^v at x. -/
def coefExp2 (x : Fx) : List Fx := extend (fun l k => fxMul (l.getD (k - 1) 0) fxLn2 / (k : Int)) 3 [fxExp (fxMul x fxLn2)]

/-- Of log2(1 + v). -/
def coefLog2 (x : Fx) : List Fx :=
  let y := fxOne + x
  let p := extend (fun l k => -fxDiv (l.getD (k - 1) 0) y) 2 [fxDiv fxOne (fxMul fxLn2 y)]
  fxDiv (fxLn y) fxLn2 :: (List.range 3).map fun k => p.getD k 0 / ((k : Int) + 1)

/-- Of 1/(1 + v). -/
def coefRcp (x : Fx) : List Fx := extend (fun l k => -fxDiv (l.getD (k - 1) 0) (fxOne + x)) 3 [fxDiv fxOne (fxOne + x)]

/-- Of (2^e(1 + v))^(h/2) for h = 1 or -1. -/
def coefRoot (h : Int) (e : Nat) (x : Fx) : List Fx :=
  let s := fxSqrt (((2 ^ e : Nat) : Int) * (fxOne + x))
  extend (fun l k => fxDiv (l.getD (k - 1) 0 * (h - 2 * (k : Int) + 2) / (2 * (k : Int))) (fxOne + x)) 3 [if h < 0 then fxDiv fxOne s else s]

/-- Of tanh a: its derivative is 1 - tanh². -/
def coefTanh (a : Fx) : List Fx := extend (fun l k => ((if k = 1 then fxOne else 0) - conv l (k - 1)) / (k : Int)) 5 [fxTanh a]

/-- Of σ: its derivative is σ - σ². -/
def coefSigma (v : Fx) : List Fx := extend (fun l k => (l.getD (k - 1) 0 - conv l (k - 1)) / (k : Int)) 5 [fxSigma v]

/-- Of erf a: its derivative 2/√π·e^(-a²) satisfies u' = -2a·u. -/
def coefErf (a : Fx) : List Fx :=
  let u := extend (fun l k => (-2 * fxMul a (l.getD (k - 1) 0) - (if 2 ≤ k then 2 * l.getD (k - 2) 0 else 0)) / (k : Int)) 4
    [fxMul fxTwoOverSqrtPi (fxExp (-fxMul a a))]
  fxErf a (fxMul a a) :: (List.range 5).map fun k => u.getD k 0 / ((k : Int) + 1)

/-- Of v times a function with the given coefficients. -/
def coefTimes (v : Fx) (l : List Fx) : List Fx := (List.range l.length).map fun k => fxMul v (l.getD k 0) + if k = 0 then 0 else l.getD (k - 1) 0

/-- Of Φ: its derivative φ satisfies φ' = -v·φ. -/
def coefPhi (v : Fx) : List Fx :=
  let p := extend (fun l k => (-fxMul v (l.getD (k - 1) 0) - (if 2 ≤ k then l.getD (k - 2) 0 else 0)) / (k : Int)) 4
    [fxDiv (fxExp (-fxMul v v / 2)) (fxSqrt (2 * fxPi))]
  fxPhi v :: (List.range 5).map fun k => p.getD k 0 / ((k : Int) + 1)

/-- Of sin(πv/2), then of cos(πv/2), four each. -/
def coefTrig (x : Fx) : List Fx :=
  let w := fxPi / 2
  let (sn, cs) := fxSinCos (fxMul w x)
  let pw := extend (fun l k => fxMul (l.getD (k - 1) 0) w / (k : Int)) 3 [fxOne]
  let take (a b : Fx) : List Fx := (List.range 4).map fun k =>
    fxMul (pw.getD k 0) (match k with
      | 0 => a
      | 1 => b
      | 2 => -a
      | _ => -b)
  take sn cs ++ take cs (-sn)

end Sys2Proof.Machine
end

