-- ==== Sys2Proof/Machine/SpecialFn.lean ====
section
/-! DEFINITION. The special functions (R242 to R249): reductions, tables, micro-programs and the bounds of BOUNDED mode, on F32 values. -/

namespace Sys2Proof.Machine

/-! ### Reductions (R244) -/

/-- A kind of Table 7.4 with its parameters; κ is a dyadic value, x0 of LIN is none for ABS. -/
inductive SfKind where
  | exp (κ : Num) (b : Nat)
  | log (b : Nat)
  | root (b : Nat)
  | lin (w : Nat) (x0 : Option Num) (rows : Nat)
  | trig (κ : Num) (b : Nat)
  deriving DecidableEq, Repr

/-- A reduced input: f as an F32 code, the row and the integer n. -/
structure SfRed where
  f : Nat
  r : Nat
  n : Int
  deriving DecidableEq, Repr

/-- A value rounded RNE to F32. -/
def f32Round (x : Num) : Nat := ((fpFormat 0).round .rne false false 0 x).code

/-- A finite value as an integer over 2^k. -/
def Num.over : Num → Int × Nat
  | .fin neg m e _ =>
    let k := (-e).toNat
    let v : Int := ((m * 2 ^ (e + k).toNat : Nat) : Int)
    (if neg then -v else v, k)
  | _ => (0, 0)

/-- An integer over 2^k as a value. -/
def overNum (v : Int) (k : Nat) : Num := .fin (decide (v < 0)) v.natAbs (-(k : Int)) false

/-- floor(u·2^b) and the F32 rest of a fraction u = v/2^k of [0, 1). -/
def splitCell (v : Int) (k b : Nat) : Nat × Nat :=
  let r := v * ((2 ^ b : Nat) : Int) / ((2 ^ k : Nat) : Int)
  (r.toNat, f32Round (overNum (v * ((2 ^ b : Nat) : Int) - r * ((2 ^ k : Nat) : Int)) (k + b)))

/-- The reduction of y = v/2^k by its integer part. -/
def reduceFloor (y : Num) (b : Nat) : SfRed :=
  let (v, k) := y.over
  let n := v / ((2 ^ k : Nat) : Int)
  let (r, f) := splitCell (v - n * ((2 ^ k : Nat) : Int)) k b
  ⟨f, r, n⟩

/-- |x| = 2^n·m: n and the fraction m - 1 over 2^k. -/
def normalise (m : Nat) (e : Int) : Int × Nat × Nat :=
  let l := Nat.log2 m
  ((l : Int) + e, m - 2 ^ l, l)

/-- The reduction of an input, none when it has no cell under the kind (R250). -/
def SfKind.reduce (kind : SfKind) (x : Num) : Option SfRed :=
  match x with
  | .fin _ m e _ =>
    match kind with
    | .exp κ b => some (reduceFloor (mulNum x κ).1 b)
    | .log b =>
      if m = 0 then none
      else
        let (n, u, k) := normalise m e
        let (r, f) := splitCell u k b
        some ⟨f, r, n⟩
    | .root b =>
      if m = 0 then none
      else
        let (n, u, k) := normalise m e
        let odd := n % 2
        let (h, f) := splitCell u k (b - 1)
        some ⟨f, odd.toNat * 2 ^ (b - 1) + h, (n - odd) / 2⟩
    | .lin w x0 rows =>
      let a := match x0 with
        | none => x.abs
        | some c => (addNum false x c.negate).1
      let (v, k) := a.over
      if v < 0 then none
      else
        let r := min (v * ((2 ^ w : Nat) : Int) / ((2 ^ k : Nat) : Int)).toNat (rows - 1)
        some ⟨f32Round (overNum (v * ((2 ^ w : Nat) : Int) - (r : Int) * ((2 ^ k : Nat) : Int)) (k + w)), r, 0⟩
    | .trig κ b =>
      let d := reduceFloor (mulNum x.abs κ).1 b
      some { d with n := d.n % 4 }
  | _ => none

/-! ### Built-in functions (Table 7.5) -/

/-- log2 e to 64 fraction bits. -/
def sfLog2e : Num := fxRound 64 (fxDiv fxOne fxLn2)

/-- ln 2 to 64 fraction bits. -/
def sfLn2 : Num := fxRound 64 fxLn2

/-- 2/√π to 64 fraction bits. -/
def sfErfSlope : Num := fxRound 64 fxTwoOverSqrtPi

/-- 2/π to 192 fraction bits. -/
def sfTwoOverPi : Num := fxRound 192 (fxDiv (2 * fxOne) fxPi)

/-- The kind of a built-in function. -/
def sfKind (fn : Nat) : SfKind :=
  match fn with
  | 0 => .exp (.fin false 1 0 false) 8
  | 1 => .exp sfLog2e 8
  | 5 | 6 => .root 8
  | 7 => .lin 5 none 256
  | 9 => .lin 6 none 256
  | 8 | 10 | 11 => .lin 3 (some (.fin true 16 0 false)) 256
  | 12 | 13 => .trig sfTwoOverPi 8
  | _ => .log 8

/-- The degree of a built-in function. -/
def sfDegree (fn : Nat) : Nat := if 7 ≤ fn ∧ fn ≤ 11 then 5 else 3

/-- The real Taylor coefficients of a built-in function at the base of row r. -/
def sfCoefs (fn r : Nat) : List Fx :=
  match fn with
  | 0 | 1 => coefExp2 (fxDyadic r 8)
  | 2 | 3 => coefLog2 (fxDyadic r 8)
  | 4 => coefRcp (fxDyadic r 8)
  | 5 => coefRoot (-1) (r / 128) (fxDyadic (r % 128 : Nat) 7)
  | 6 => coefRoot 1 (r / 128) (fxDyadic (r % 128 : Nat) 7)
  | 7 => coefTanh (fxDyadic r 5)
  | 8 => coefSigma (fxDyadic ((r : Int) - 128) 3)
  | 9 => coefErf (fxDyadic r 6)
  | 10 => coefTimes (fxDyadic ((r : Int) - 128) 3) (coefPhi (fxDyadic ((r : Int) - 128) 3))
  | 11 => coefTimes (fxDyadic ((r : Int) - 128) 3) (coefSigma (fxDyadic ((r : Int) - 128) 3))
  | _ => coefTrig (fxDyadic r 8)

/-- Row r of a built-in function's table (R245). -/
def sfRow (fn r : Nat) : List Nat := (sfCoefs fn r).map fun c => f32Round (fxNum c)

/-- Horner's rule over the coefficients from the highest down, each step rounded RNE (R245). -/
def hornerF32 (f : Nat) : List Nat → Nat
  | [] => 0
  | [c] => c
  | c :: t => (fmaRes 0 .rne 0 (toNum 0 (hornerF32 f t)) (toNum 0 f) (toNum 0 c)).code

/-- poly(r, f, c0) of R245 as a value. -/
def sfPoly (row : List Nat) (d c0 f : Nat) : Num := toNum 0 (hornerF32 f ((row.drop c0).take (d + 1)))

/-- 2^n·p, with n held where every result is past the ends of F32. -/
def scaleWide (p : Num) (n : Int) : Num := p.scale (if n < -512 then -512 else if 512 < n then 512 else n)

/-- E of R246: 2^n·p of fn 1's reduction and cells. -/
def sfE (x : Num) : Num :=
  match (sfKind 1).reduce x with
  | some d => scaleWide (sfPoly (sfRow 1 d.r) 3 0 d.f) d.n
  | none => Num.zero

/-- A fixed value of Table 7.6 with its flags, as an F32 code; a NaN gives the canonical NaN (R247). -/
def sfSpecial (fn : Nat) (x : Num) : Option Res :=
  let one := 0x3F800000
  let inf := 0x7F800000
  let minus (c : Nat) := c + 0x80000000
  let nan : Res := ⟨0x7FC00000, fNV⟩
  match x with
  | .nan => some ⟨0x7FC00000, 0⟩
  | .inf neg =>
    some (match fn with
      | 0 | 1 => ⟨if neg then 0 else inf, 0⟩
      | 2 | 3 | 5 | 6 => if neg then nan else ⟨if fn = 5 then 0 else inf, 0⟩
      | 4 => ⟨if neg then minus 0 else 0, 0⟩
      | 7 | 9 => ⟨if neg then minus one else one, 0⟩
      | 8 => ⟨if neg then 0 else one, 0⟩
      | 10 | 11 => ⟨if neg then minus 0 else inf, 0⟩
      | _ => nan)
  | .fin neg 0 _ _ =>
    let signed (c : Nat) := if neg then minus c else c
    some (match fn with
      | 0 | 1 | 13 => ⟨one, 0⟩
      | 2 | 3 => ⟨minus inf, fDZ⟩
      | 4 | 5 => ⟨signed inf, fDZ⟩
      | 8 => ⟨0x3F000000, 0⟩
      | _ => ⟨signed 0, 0⟩)
  | .fin neg m e _ =>
    if (fn = 2 ∨ fn = 3) ∧ ¬ neg ∧ cmpNum x (.fin false 1 0 false) = .eq then some ⟨0, 0⟩
    else if neg && [2, 3, 5, 6].contains fn then some nan
    else
      let _ := (m, e)
      none

/-- x compared with an integer over 2^12. -/
def leOver (x : Num) (v : Int) : Bool := cmpNum x (overNum v 12) != .gt

/-- The closed-form segment of Table 7.5 in which a finite input lies. -/
def sfClosed (fn : Nat) (x : Num) : Option Num :=
  let a := x.abs
  let sgn1 : Num := .fin x.neg? 1 0 false
  let at' (k : Int) : Bool := leOver x (4096 * k)
  let small : Bool := leOver a 1
  match fn with
  | 0 => if at' (-150) then some Num.zero else if !at' 128 then some (.inf false) else none
  | 1 => if at' (-104) then some Num.zero else if !at' 89 then some (.inf false) else none
  | 7 => if small then some x else if !leOver a (4096 * 8) then some sgn1 else none
  | 8 =>
    if at' (-16) then some (mulNum (sfE x) (addNum false (.fin false 1 0 false) (sfE x).negate).1).1
    else if !at' 16 then some (.fin false 1 0 false) else none
  | 9 => if small then some (mulNum x sfErfSlope).1 else if !leOver a (4096 * 4) then some sgn1 else none
  | 10 => if at' (-16) then some (.fin true 0 0 false) else if !at' 16 then some x else none
  | 11 => if at' (-88) then some (.fin true 0 0 false) else if at' (-16) then some (mulNum x (sfE x)).1 else if !at' 16 then some x else none
  | 12 => if small then some x else none
  | 13 => if small then some (.fin false 1 0 false) else none
  | _ => none

/-- The exact combine step of Table 7.5. -/
def sfCombine (fn : Nat) (x p v1 : Num) (n : Int) : Num :=
  let signed (y : Num) : Num := if x.neg? then y.negate else y
  match fn with
  | 0 | 1 | 6 => scaleWide p n
  | 2 => (addNum false (Num.ofInt n) p).1
  | 3 => (mulNum (addNum false (Num.ofInt n) p).1 sfLn2).1
  | 4 => signed (scaleWide p (-n))
  | 5 => scaleWide p (-n)
  | 7 | 9 => signed p
  | 12 => signed (match n with
    | 0 => p
    | 1 => v1
    | 2 => p.negate
    | _ => v1.negate)
  | 13 => match n with
    | 0 => v1
    | 1 => p.negate
    | 2 => v1.negate
    | _ => p
  | _ => p

/-- The value that EXACT mode rounds once for an input that Table 7.6 does not list (R246). -/
def sfExactNum (fn : Nat) (x : Num) : Num :=
  match sfClosed fn x with
  | some y => y
  | none =>
    match (sfKind fn).reduce x with
    | some d =>
      let row := sfRow fn d.r
      sfCombine fn x (sfPoly row (sfDegree fn) 0 d.f) (if 12 ≤ fn then sfPoly row 3 4 d.f else Num.zero) d.n
    | none => Num.zero

/-- A special value in a destination type. -/
def sfDeliver (t : Nat) (r : Res) : Res := ⟨((fpFormat t).round .rne false false 0 (toNum 0 r.code)).code, r.flags⟩

/-- The EXACT result for a code of a type: every result that is not fixed sets NX, and OF or UF from its final rounding (R247). -/
def sfExact (fn t code : Nat) : Res :=
  let x := toNum t code
  match sfSpecial fn x with
  | some r => sfDeliver t r
  | none =>
    let r := (fpFormat t).round .rne false false 0 (sfExactNum fn x)
    ⟨r.code, r.flags ||| fNX⟩

/-! ### BOUNDED mode (R249) -/

/-- The real function's value at an input in a cell segment, as a value. -/
def sfReal (fn : Nat) (x : Num) : Num :=
  let (v, k) := x.over
  let fx := fxDyadic v k
  let ax := fxDyadic v.natAbs k
  let signed (y : Fx) : Fx := if v < 0 then -y else y
  let pow (y : Fx) : Num :=
    let n := y / fxOne
    (fxNum (fxExp (fxMul (y - n * fxOne) fxLn2))).scale n
  let m := match x with
    | .fin _ m _ _ => m
    | _ => 1
  let e := match x with
    | .fin _ _ e _ => e
    | _ => 0
  let l := Nat.log2 m
  let log2 : Fx := ((l : Int) + e) * fxOne + fxDiv (fxLn (fxDyadic m l)) fxLn2
  match fn with
  | 0 => pow fx
  | 1 => pow (fxDiv fx fxLn2)
  | 2 => fxNum log2
  | 3 => fxNum (fxMul log2 fxLn2)
  | 4 => (divNum (.fin false 1 0 false) x).1
  | 5 => (sqrtNum (divNum (.fin false 1 0 false) x).1).1
  | 6 => (sqrtNum x).1
  | 7 => fxNum (signed (fxTanh ax))
  | 8 => fxNum (fxSigma fx)
  | 9 => fxNum (signed (fxErf ax (fxMul ax ax)))
  | 10 => fxNum (fxMul fx (fxPhi fx))
  | 11 => fxNum (fxMul fx (fxSigma fx))
  | _ =>
    match (sfKind 12).reduce x with
    | some d =>
      let y := (mulNum x.abs sfTwoOverPi).1.over
      let (sn, cs) := fxSinCos (fxMul (fxDyadic (y.1 % ((2 ^ y.2 : Nat) : Int)) y.2) (fxPi / 2))
      let q := if fn = 13 then (d.n + 1) % 4 else d.n
      let w := match q with
        | 0 => sn
        | 1 => cs
        | 2 => -sn
        | _ => -cs
      fxNum (if fn = 12 then signed w else w)
    | none => Num.zero

/-- The exponent of one unit in the last place of a type at a value. -/
def ulpExp (t : Nat) (x : Num) : Int :=
  let f := fpFormat t
  let low : Int := 1 - (f.bias : Int) - f.m
  match x with
  | .fin _ m e _ => if m = 0 then low else
      let u := (Nat.log2 m : Int) + e - f.m
      if u < low then low else u
  | _ => low

/-- Table 7.7's bound in units in the last place. -/
def sfUlps (fn t : Nat) : Nat :=
  if t ≠ 0 then 1
  else match fn with
    | 4 | 5 | 6 => 1
    | 0 | 1 | 2 | 3 => 2
    | 7 | 8 | 9 => 3
    | _ => 4

/-- Table 7.7's absolute bound, as a power of two, where one applies. -/
def sfAbsolute (fn t : Nat) (x : Num) : Option Int :=
  if 10 ≤ fn then some (-23)
  else if t = 0 ∧ (fn = 2 ∨ fn = 3) ∧ cmpNum x (.fin false 1 (-1) false) ≠ .lt ∧ cmpNum x (.fin false 1 1 false) = .lt then some (-22)
  else none

/-- Table 7.7's bound on the error at an input whose real value has one unit in the last place 2^u. -/
def sfError (fn t : Nat) (x : Num) (u : Int) : Num :=
  let e : Num := .fin false (sfUlps fn t) u false
  match sfAbsolute fn t x with
  | some k => if cmpNum e (.fin false 1 k false) = .lt then .fin false 1 k false else e
  | none => e

/-- The greater of two values. -/
def maxNum (x y : Num) : Num := if cmpNum x y = .lt then y else x

/-- The smaller of two values. -/
def minNum (x y : Num) : Num := if cmpNum x y = .gt then y else x

/-- The least magnitude that a result of a monotone implementation may have at an input of real magnitude r with error e: just below a power of two the bound is that
of the smaller binade, and results at greater inputs are no smaller. -/
def sfLeast (fn t : Nat) (x r e : Num) : Num :=
  let below := match r with
    | .fin _ m k _ =>
      let top : Num := .fin false 1 ((Nat.log2 m : Int) + k) false
      (addNum false top (sfError fn t x (ulpExp t top - 1)).negate).1
    | _ => r
  maxNum (addNum false r e.negate).1 below

/-- The greatest magnitude: below the end at 2 of the absolute bound of log, results are no greater than those from 2 on. -/
def sfGreatest (fn t : Nat) (x r e : Num) : Num :=
  let y := (addNum false r e).1
  if fn = 3 ∧ (sfAbsolute fn t x).isSome then
    let two := sfReal 3 (.fin false 1 1 false)
    minNum y (addNum false two (.fin false (sfUlps 3 t) (ulpExp t two) false)).1
  else y

/-- The place of a code in the order of values. -/
def codeKey (t c : Nat) : Nat :=
  let h := 2 ^ (tyBits t - 1)
  if c < h then h + c else 2 * h - 1 - c

/-- The code at a place. -/
def keyCode (t k : Nat) : Nat :=
  let h := 2 ^ (tyBits t - 1)
  if k < h then 2 * h - 1 - k else k - h

/-- The seam below the cells of a function, and whether its results end at 1 above them (R248). -/
def sfSeam (fn : Nat) : Option (Num × Bool) :=
  match fn with
  | 0 => some (overNum (-150) 0, false)
  | 1 => some (overNum (-104) 0, false)
  | 7 | 9 => some (overNum 1 12, true)
  | 8 => some (overNum (-16) 0, true)
  | _ => none

/-- The places of the least and the greatest result that Table 7.7 allows at an input in a cell segment, between the values at its seams. EXACT results are among
them (R249). -/
def sfRange (fn t : Nat) (x : Num) : Nat × Nat :=
  let real := sfReal fn x
  let round (mode : RMode) (y : Num) : Nat := ((fpFormat t).round mode false false 0 y).code
  let e := sfError fn t x (ulpExp t real)
  let low := sfLeast fn t x real.abs e
  let high := sfGreatest fn t x real.abs e
  let (least, greatest) := match sfSeam fn with
    | some (y, one) => (maxNum low (toNum t (sfExact fn t (round .rne y)).code), if one then minNum high (.fin false 1 0 false) else high)
    | none => (low, high)
  let exact := codeKey t (sfExact fn t (round .rne x)).code
  let key (mode : RMode) (y : Num) : Nat := codeKey t (round mode y)
  if real.neg? then (min exact (key .rup greatest.negate), max exact (key .rdn least.negate)) else (min exact (key .rup least), max exact (key .rdn greatest))

/-- The implementation's value at an input in a cell segment: what Config.sfBounded proposes, cut to the bounds. -/
def sfProposed (fn t code : Nat) : Nat :=
  let r := sfRange fn t (toNum t code)
  max r.1 (min r.2 (codeKey t (Config.sfBounded fn t code % 2 ^ tyBits t)))

/-- The half turn of sin or cos in which an input lies, rising with the input; 0 in the segment nearest zero and for the other functions. -/
def sfPiece (fn : Nat) (x : Num) : Int :=
  if fn < 12 ∨ (sfClosed fn x).isSome then 0
  else
    let y := (mulNum x.abs sfTwoOverPi).1.over
    let q := (y.1 / ((2 ^ y.2 : Nat) : Int) + if fn = 12 then 1 else 0) / 2 + 1
    if x.neg? then -q else q

/-- The function falls with its input there (R248). -/
def sfFalls (fn : Nat) (x : Num) : Bool :=
  let q := (sfPiece fn x).natAbs
  if fn = 12 then q % 2 = 0 else if fn = 13 then (q % 2 = 1) != x.neg? else fn = 4 || fn = 5

/-- The values of a monotone function between two that it has, found by halving: `f` gives the value at a place between two values. -/
def monotoneAt (f : Nat → Nat → Nat → Nat) : Nat → Nat → Nat → Nat → Nat → Nat
  | 0, a, u, v, _ => f a u v
  | n + 1, a, u, v, k =>
    let m := a + 2 ^ n
    let y := f m u v
    if k = m then y else if k < m then monotoneAt f n a u y k else monotoneAt f n m y v k

/-- The value at place m of a function that rises along a piece: fixed values stand, a cell takes the implementation's value between its neighbours', and what
belongs to no place of the piece bounds nothing. -/
def sfBetween (fn t : Nat) (p : Int) (falls : Bool) (m u v : Nat) : Nat :=
  let h := 2 ^ (tyBits t - 1)
  let code := keyCode t m
  let x := toNum t code
  let side (k : Nat) : Nat := max u (min v (if falls then 2 * h - 1 - k else k))
  match x with
  | .fin _ _ _ _ =>
    let q := sfPiece fn x
    if q < p then u else if p < q then v
    else match sfSpecial fn x, sfClosed fn x with
      | none, none => side (sfProposed fn t code)
      | _, _ =>
        let r := sfExact fn t code
        if (toNum t r.code).isNan then (if m < h then u else v) else side (codeKey t r.code)
  | _ => if m < h then u else v

/-- The BOUNDED result (R243, R248, R249): special inputs and closed-form segments as in EXACT mode; in a cell segment the implementation's value within the
bounds, which keeps the function monotone where R248 promises it: functions 4, 5, 12 and 13 on each side of 0, the others over their whole domain (DESIGN CHOICE,
log entry 18). -/
def sfBoundedRes (fn t code : Nat) : Res :=
  let x := toNum t code
  let exact := sfExact fn t code
  match sfSpecial fn x, sfClosed fn x with
  | none, none =>
    let n := tyBits t
    let falls := sfFalls fn x
    let halves := [4, 5, 12, 13].contains fn
    let key :=
      if fn = 10 ∨ fn = 11 then sfProposed fn t code
      else
        let y := monotoneAt (sfBetween fn t (sfPiece fn x) falls) (if halves then n - 1 else n) (if halves && !x.neg? then 2 ^ (n - 1) else 0) 0 (2 ^ n - 1) (codeKey t code)
        if falls then 2 ^ n - 1 - y else y
    let c := keyCode t key
    if c = exact.code then exact else ⟨c, fNX ||| flagIf (c / 2 ^ (fpFormat t).m % 2 ^ (fpFormat t).e == 0) fUF⟩
  | _, _ => exact

/-- A built-in function on a code of a type (R243). -/
def sfBuiltin (exact : Bool) (fn t code : Nat) : Res := if exact then sfExact fn t code else sfBoundedRes fn t code

end Sys2Proof.Machine
end

