-- ==== Sys2Proof/Machine/Seeds.lean ====
section
/-! DEFINITION. Drawing the seed of an instruction that rounds stochastically (R61 to R66): the draw with its log access, which is a scalar access of
the hart, and the seed that an instruction keeps until it retires. -/

namespace Sys2Proof.Machine

/-- Why no seed is drawn: a failed check, or a gate before the log record that is not open. -/
inductive SeedStop where
  | cause (c : Cause)
  | gate (p : Place)
  deriving DecidableEq, Repr

/-- The place of the log record, once its checks and gates are passed (R63). -/
def State.seedLog (s : State) (k : AKind) : Except SeedStop Place :=
  match s.probe s.hart.csr.srlog 16 16 k with
  | .error c => .error (.cause c)
  | .ok p => if s.gate p = .opened then .ok p else .error (.gate p)

/-- Write a seed to its log record. At the register window a 16-byte store is no register access (R423): the supervisor's counts as malformed where it hits a record
window (R338), and any other is discarded. -/
def State.logSeed (s : State) (p : Place) (d : Seed) : State :=
  match p.reg with
  | some off => if s.isSup then s.shortWrite off 16 d.key else s
  | none => s.storeNum 0 p.loc s.hart.csr.srlog 16 (d.key.toNat + 2 ^ 64 * d.stream.toNat) none

/-- Read a seed from its log record; the register window reads zero (R423). -/
def State.loggedSeed (s : State) (p : Place) : Seed :=
  let x := if p.reg.isSome then 0 else s.loadNum p.loc 16
  ⟨BitVec.ofNat 64 x, BitVec.ofNat 64 (x / 2 ^ 64), 0⟩

/-- Draw a seed; `advance` is what COUNTER mode adds to RNGCTR (R61 to R66). A fault is raised before anything commits. -/
def State.drawSeed (s : State) (advance : Nat) : Except SeedStop (Seed × State) :=
  let fresh := Config.noise s.free
  let noise : Seed := ⟨BitVec.ofNat 64 fresh.toNat, BitVec.ofNat 64 (fresh.toNat / 2 ^ 64), 0⟩
  let nsfail := (s.die (dieOf s.hart.id)).nsfail
  match s.hart.srmodeNow with
  | 0 => if nsfail then .error (.cause .illegalOperand) else .ok (noise, { s with free := s.free + 1 })
  | 1 =>
    if nsfail then .error (.cause .illegalOperand)
    else (s.seedLog .write).map fun p =>
      (noise, (({ s with free := s.free + 1 }.cachePage s.hart.csr.srlog).logSeed p noise).onHart Hart.bumpSrlog)
  | 2 => (s.seedLog .read).map fun p => (s.loggedSeed p, (s.cachePage s.hart.csr.srlog).onHart Hart.bumpSrlog)
  | _ => .ok (⟨s.hart.csr.rngkey, s.hart.csr.rngstream, s.hart.csr.rngctr⟩, s.onHart fun h => h.bumpRngctr advance)

/-- The seed that belongs to the instruction at the pc, which has trapped after drawing it and starts again at its VSTART (R65). -/
def Hart.ownSeed (h : Hart) : Option Seed :=
  match h.seed with
  | some k => if k.pc = h.pc ∧ k.elem = h.csr.vstart.toNat % 2 ^ 32 then some ⟨k.key, k.stream, k.base⟩ else none
  | none => none

/-- The seed of an instruction when its mode is SR and its operation can round (R61): the one it has, or a new one. A handler's instruction draws its own, and the seed
of the instruction that has trapped stays with that one (R65). -/
def State.seedFor (s : State) (mode : RMode) (draws : Bool) (advance : Nat) : Except SeedStop (Seed × State) :=
  if mode = .sr ∧ draws ∧ 0 < advance then
    if s.isSup then s.drawSeed advance else
    match s.hart.ownSeed with
    | some d => .ok (d, s.onHart fun h => { h with seed := none })
    | none => (s.onHart fun h => { h with seed := none }).drawSeed advance
  else .ok (Seed.none, s)

/-- An instruction stops before its seed is drawn: SRLOG's address is TRAPVAL (R63). -/
def State.seedStop (s : State) (i : Instr) : SeedStop → State
  | .cause c => s.raise i c s.hart.csr.srlog 0
  | .gate p => s.passGates i [p] id

/-- Draw the seed of an instruction, or stop (R61 to R63). The log access comes after every earlier access of the hart (DESIGN CHOICE, log entry 7). -/
def State.withSeed (s : State) (i : Instr) (mode : RMode) (draws : Bool) (advance : Nat) (f : Seed → State → State) : State :=
  if s.unperformed && s.hart.srmodeNow != 3 && mode = .sr && draws then s.waits i
  else match s.seedFor mode draws advance with
    | .error x => s.seedStop i x
    | .ok (d, t) => f d t

/-- An instruction that has drawn a seed, `s` before it and `t` after it, keeps the seed when it has trapped part-way: its restart after the TRET uses it
again (R65). -/
def State.keepSeed (s : State) (mode : RMode) (draws : Bool) (d : Seed) (t : State) : State :=
  if mode = .sr ∧ draws ∧ s.hart.level = .app ∧ t.hart.level = .sup then
    t.onHart fun h => { h with seed := some ⟨s.hart.pc, h.csr.vstart.toNat % 2 ^ 32, d.key, d.stream, d.base⟩ }
  else t

end Sys2Proof.Machine
end

