-- ==== Sys2Proof/Machine/Registers.lean ====
section
/-! DEFINITION. The register window (R422 to R424): one read and one write over the blocks of BAR0, and the steps that are register writes. -/

namespace Sys2Proof.Machine

/-! ### Pre-emption requests (R360, R361) -/

/-- A PREEMPT becomes pending on a bound hart whose freeze has not begun; a request merges with a pending one, reason 1 before reason 2 (DEDUCED, log entry 47). -/
def State.requestPreempt (s : State) (id : Nat) (reason : BitVec 8) : State :=
  match s.hartById id with
  | some h =>
    if h.bound && h.freeze == .none then
      (s.updHart id fun h => { h with preempt := match h.preempt with
        | some r => some (if reason.toNat < r.toNat then reason else r)
        | none => some reason }).due [.preempt id]
    else s
  | none => s

/-- R360: a write of PREEMPTREQ that names a hart. -/
def execPreemptreq (hart : Nat) (s : State) : Out := .next (s.requestPreempt hart 1)

/-- R378: a hart's lane-reclaim deadline expires. -/
def execLaneReclaimDeadline (hart : Nat) (s : State) : Out :=
  match s.hartById hart with
  | some h => .next (if h.grant.deadlineOn then (s.updHart hart fun h => { h with grant := { h.grant with deadlineOn := false } }).requestPreempt hart 2 else s)
  | none => .next s

/-! ### The launch register block -/

/-- Write a register of the launch block (Tables 13.1, 13.4 and 14.2). -/
def State.writeLaunch (s : State) (off : Nat) (v : Word) : State :=
  let n := v.toNat
  if off < 0x1000 then
    match off % 0x40 with
    | 0x00 => s.updQueue (off / 0x40) fun q => { q with weight := if n % 16 = 0 then 1 else n % 16, prio := bitsOf n 6 4, opened := bitOf n 8, devpush := bitOf n 9 }
    | 0x08 => s.updQueue (off / 0x40) fun q => { q with own := BitVec.ofNat 32 n }
    | _ => s
  else if 0x10000 ≤ off ∧ off < 0x50000 then s.windowStore ((off - 0x10000) / 0x1000) (off % 0x1000) (leBytes 8 n)
  else if 0x80000 ≤ off ∧ off < 0xC0000 then s.writeCtx ((off - 0x80000) / 64) (off % 64 / 8) v
  else match off with
    | 0x100000 => match s.ownHart (n % 2 ^ 17) with
      | some h => nextState (execPreemptreq h s) s
      | none => s
    | 0x100008 => (s.setLaunch fun l => { l with cntHart := n % 2 ^ 17, cntEnable := bitOf n 32 }).due (if s.launch.notices.isEmpty then [] else [.noticeDelivery])
    | 0x100018 => s.writeTrvreset n
    | 0x100020 => s.setTrivet fun t => { t with trvdata := v }
    | 0x100028 => s.writeTrvset n
    | _ => s

/-! ### BAR0 (Table 18.1) -/

/-- Read a register by its BAR0 offset; reserved ranges read zero. -/
def State.regRead (s : State) (off : Nat) : Word :=
  BitVec.ofNat 64 (
    if off % 8 ≠ 0 then 0
    else if off < 0x10000 then s.readMgmt off
    else if 0x200000 ≤ off ∧ off < 0x400000 then s.readLaunch (off - 0x200000)
    else if 0x400000 ≤ off ∧ off < 0x410000 then s.readMig (off - 0x400000)
    else if 0x800000 ≤ off ∧ off < 0x1000000 then s.readLadle (off - 0x800000)
    else if 0x1000000 ≤ off ∧ off < 0x1080000 then s.readNoc ((off - 0x1000000) / 0x10000) (off % 0x10000)
    else if 0x1100000 ≤ off ∧ off < 0x1110000 then s.readFabric (off - 0x1100000)
    else 0)

/-- Write a register by its BAR0 offset; writes to reserved ranges are discarded, and one that is not aligned is no register access. -/
def State.regWrite (s : State) (off : Nat) (v : Word) : State :=
  if off % 8 ≠ 0 then s.shortWrite off 8 v
  else if off < 0x10000 then s.writeMgmt off v
  else if 0x200000 ≤ off ∧ off < 0x400000 then s.writeLaunch (off - 0x200000) v
  else if 0x400000 ≤ off ∧ off < 0x410000 then s.writeMig (off - 0x400000) v
  else if 0x800000 ≤ off ∧ off < 0x1000000 then s.writeLadle (off - 0x800000) v
  else if 0x1000000 ≤ off ∧ off < 0x1080000 then
    (if off % 0x10000 = 0 then nextState (execNocarb ((off - 0x1000000) / 0x10000) v s) s else s)
  else if 0x1100000 ≤ off ∧ off < 0x1100200 then nextState (execRouteWrite ((off - 0x1100000) / 8) v s) s
  else s

/-- R423: a register write of the host, performed at the hub. -/
def execRegisterWrite (off : Nat) (val : Word) (s : State) : Out := .next (if s.bar0Open then s.regWrite off val else s)

end Sys2Proof.Machine
end

