-- ==== Sys2Proof/Machine/ScalarMem.lean ====
section
/-! DEFINITION. Scalar loads, stores, atomics (R156 to R159) and cache control (R95 to R97, R160). -/

namespace Sys2Proof.Machine

/-- Register the translation of an address and pass the gates of its place, once the checks of R88 hold; a failure traps (R89). -/
def State.scalarAccess (s : State) (i : Instr) (va : Word) (size align : Nat) (k : AKind) (f : State → Place → State) : State :=
  match s.probe va size align k with
  | .error c => s.accessTrap i c va
  | .ok p => (s.cachePage va).passGates i [p] fun t => f t p

/-- A register read of n bytes at the window: an aligned 8-byte access of the supervisor; any other reads zero (R423, R424). An application cannot reach the
registers: its accesses are such others (DEDUCED, log entry 67). -/
def State.windowRead (s : State) (off n : Nat) : Word := if n = 8 ∧ s.isSup = true then s.regRead off else 0

/-- A store of n bytes at the window: an aligned 8-byte store of the supervisor writes a register. A shorter one to a queue's record window is a write that the
queue counts as malformed (R338); any other is discarded (R423). -/
def State.windowWrite (s : State) (off n : Nat) (v : Word) : State :=
  if s.isSup = false then s else if n = 8 then s.regWrite off v else s.shortWrite off n v

/-- A load of n bytes: read at once, or queued under the relaxed policy, to bind later (R363, DESIGN CHOICE, log entry 7). A register access of the window acts
as an acquire and a release (R424). -/
def State.scalarRead (s : State) (i : Instr) (rd : XReg) (va : Word) (n : Nat) (signed : Bool) (acquire : Option (BitVec 3)) : State :=
  s.scalarAccess i va n n .read fun t p =>
    match p.reg with
    | some off => t.afterEarlier i fun u => u.ret rd (u.windowRead off n)
    | none => if t.relaxed then (t.queueLoad p.loc va rd n signed acquire).adv 4 else t.ret rd (extendBytes signed n (t.loadNum p.loc n))

/-- The load of n bytes at an address (R156). -/
def State.scalarLoad (s : State) (i : Instr) (rd : XReg) (va : Word) (n : Nat) (signed : Bool) : State := s.scalarRead i rd va n signed none

/-- The store of the n low bytes of a value (R156), a release at a scope for STREL (R158). -/
def State.scalarStore (s : State) (i : Instr) (va : Word) (n : Nat) (v : Word) (release : Option (BitVec 3)) : State :=
  s.scalarAccess i va n n .write fun t p =>
    match p.reg with
    | some off => t.afterEarlier i fun u => (u.windowWrite off n v).adv 4
    | none => (t.storeNum 0 p.loc va n v.toNat release).adv 4

/-- The address of a load or store: rs1 + sext(imm14) (R156). -/
def State.memAddr (s : State) (rs1 : XReg) (imm : BitVec 14) : Word := s.rx rs1 + imm.signExtend 64

/-- The bytes of an ew code 1 to 4. -/
def ewBytes (ew : BitVec 3) : Nat := 2 ^ (ew.toNat - 1)

/-- R156: LD_I8. -/
def execLdI8 (rd rs1 : XReg) (imm : BitVec 14) (s : State) : Out :=
  .next (s.scalarLoad (.ldI8 rd rs1 imm) rd (s.memAddr rs1 imm) 1 true)

/-- R156: LD_N8. -/
def execLdN8 (rd rs1 : XReg) (imm : BitVec 14) (s : State) : Out :=
  .next (s.scalarLoad (.ldN8 rd rs1 imm) rd (s.memAddr rs1 imm) 1 false)

/-- R156: LD_I16. -/
def execLdI16 (rd rs1 : XReg) (imm : BitVec 14) (s : State) : Out :=
  .next (s.scalarLoad (.ldI16 rd rs1 imm) rd (s.memAddr rs1 imm) 2 true)

/-- R156: LD_N16. -/
def execLdN16 (rd rs1 : XReg) (imm : BitVec 14) (s : State) : Out :=
  .next (s.scalarLoad (.ldN16 rd rs1 imm) rd (s.memAddr rs1 imm) 2 false)

/-- R156: LD_I32. -/
def execLdI32 (rd rs1 : XReg) (imm : BitVec 14) (s : State) : Out :=
  .next (s.scalarLoad (.ldI32 rd rs1 imm) rd (s.memAddr rs1 imm) 4 true)

/-- R156: LD_N32. -/
def execLdN32 (rd rs1 : XReg) (imm : BitVec 14) (s : State) : Out :=
  .next (s.scalarLoad (.ldN32 rd rs1 imm) rd (s.memAddr rs1 imm) 4 false)

/-- R156: LD_I64. -/
def execLdI64 (rd rs1 : XReg) (imm : BitVec 14) (s : State) : Out :=
  .next (s.scalarLoad (.ldI64 rd rs1 imm) rd (s.memAddr rs1 imm) 8 true)

/-- R156: ST_8. -/
def execSt8 (rs rs1 : XReg) (imm : BitVec 14) (s : State) : Out :=
  .next (s.scalarStore (.st8 rs rs1 imm) (s.memAddr rs1 imm) 1 (s.rx rs) none)

/-- R156: ST_16. -/
def execSt16 (rs rs1 : XReg) (imm : BitVec 14) (s : State) : Out :=
  .next (s.scalarStore (.st16 rs rs1 imm) (s.memAddr rs1 imm) 2 (s.rx rs) none)

/-- R156: ST_32. -/
def execSt32 (rs rs1 : XReg) (imm : BitVec 14) (s : State) : Out :=
  .next (s.scalarStore (.st32 rs rs1 imm) (s.memAddr rs1 imm) 4 (s.rx rs) none)

/-- R156: ST_64. -/
def execSt64 (rs rs1 : XReg) (imm : BitVec 14) (s : State) : Out :=
  .next (s.scalarStore (.st64 rs rs1 imm) (s.memAddr rs1 imm) 8 (s.rx rs) none)

/-- R158: LDACQ, an acquire: it binds before any later access; the value is zero-extended. ew 0 raises ILLEGAL_OPERAND. -/
def execLdacq (rd rs1 : XReg) (ew scope : BitVec 3) (s : State) : Out :=
  let i := Instr.ldacq rd rs1 ew scope
  .next (s.guardOperand i (ew != 0) fun s => s.scalarRead i rd (s.rx rs1) (ewBytes ew) false (some scope))

/-- R158: STREL, a release: it becomes visible after every earlier access. ew 0 raises ILLEGAL_OPERAND. -/
def execStrel (rs rs1 : XReg) (ew scope : BitVec 3) (s : State) : Out :=
  let i := Instr.strel rs rs1 ew scope
  .next (s.guardOperand i (ew != 0) fun s => s.scalarStore i (s.rx rs1) (ewBytes ew) (s.rx rs) (some scope))

/-- AMO (R159): the aligned word, which must be writable, is read, combined and written in one step; at the register window it writes zero to rd and does
nothing else (R423). It waits for a tag and for room in its target's duplicate table (R370, R371). Under the relaxed policy it is queued with the order that its
ord names (R103, DESIGN CHOICE, log entry 7). -/
def State.amo (s : State) (i : Instr) (op : AmoOp) (rd rs1 rs2 : XReg) (ord : BitVec 2) (scope : BitVec 3) : State :=
  if s.tagsFull 1 then s.waits i
  else s.scalarAccess i (s.rx rs1) 8 8 .write fun t p =>
    match p.reg with
    | some _ => t.afterEarlier i fun u => u.ret rd 0
    | none =>
      if t.relaxed then
        ((t.enqueue { t.newAccess 0 p.loc (s.rx rs1) (.amo rd op.code (s.rx rs2) (s.rx rd)) with
          release := ordRelease ord, acquire := ordAcquire ord, scope := scope, tag := s.hart.tags.value }).takeTags 1).adv 4
      else if t.tableFull (dupSlice p.loc) 1 then t.waits i
      else
        let (m, old) := amoMem t.mem p.loc op (s.rx rs2) (s.rx rd)
        (({ t with mem := m } : State).tagged (dupSlice p.loc) old).ret rd old

/-- R159: AMO_ADD. -/
def execAmoAdd (rd rs1 rs2 : XReg) (ord : BitVec 2) (scope : BitVec 3) (s : State) : Out :=
  .next (s.amo (.amoAdd rd rs1 rs2 ord scope) .add rd rs1 rs2 ord scope)

/-- R159: AMO_AND. -/
def execAmoAnd (rd rs1 rs2 : XReg) (ord : BitVec 2) (scope : BitVec 3) (s : State) : Out :=
  .next (s.amo (.amoAnd rd rs1 rs2 ord scope) .and rd rs1 rs2 ord scope)

/-- R159: AMO_OR. -/
def execAmoOr (rd rs1 rs2 : XReg) (ord : BitVec 2) (scope : BitVec 3) (s : State) : Out :=
  .next (s.amo (.amoOr rd rs1 rs2 ord scope) .or rd rs1 rs2 ord scope)

/-- R159: AMO_XOR. -/
def execAmoXor (rd rs1 rs2 : XReg) (ord : BitVec 2) (scope : BitVec 3) (s : State) : Out :=
  .next (s.amo (.amoXor rd rs1 rs2 ord scope) .xor rd rs1 rs2 ord scope)

/-- R159: AMO_MIN. -/
def execAmoMin (rd rs1 rs2 : XReg) (ord : BitVec 2) (scope : BitVec 3) (s : State) : Out :=
  .next (s.amo (.amoMin rd rs1 rs2 ord scope) .min rd rs1 rs2 ord scope)

/-- R159: AMO_MAX. -/
def execAmoMax (rd rs1 rs2 : XReg) (ord : BitVec 2) (scope : BitVec 3) (s : State) : Out :=
  .next (s.amo (.amoMax rd rs1 rs2 ord scope) .max rd rs1 rs2 ord scope)

/-- R159: AMO_SWAP. -/
def execAmoSwap (rd rs1 rs2 : XReg) (ord : BitVec 2) (scope : BitVec 3) (s : State) : Out :=
  .next (s.amo (.amoSwap rd rs1 rs2 ord scope) .swap rd rs1 rs2 ord scope)

/-- R159: AMO_CAS. -/
def execAmoCas (rd rs1 rs2 : XReg) (ord : BitVec 2) (scope : BitVec 3) (s : State) : Out :=
  .next (s.amo (.amoCas rd rs1 rs2 ord scope) .cas rd rs1 rs2 ord scope)

/-! ### Cache control -/

/-- R160: PREFETCH affects residency only; it never faults and writes 0 (DEDUCED, log entry 62). -/
def execPrefetch (st rs1 : XReg) (level : BitVec 2) (s : State) : Out :=
  let _ := (rs1, level)
  .next (s.ret st 0)

/-- The pin level of a level code on a hart's die: 0 the LLC, die + 1 its cache ways. -/
def pinLevel (level : BitVec 2) (die : Nat) : Nat := if level = 0 then 0 else die + 1

/-- The cache ways of a die's slices (R84): a way held by any context's DSM allocation is no cache way, so status 3 and the size c of a die's set follow from the
split of all contexts of the die (DEDUCED, log entry 73). -/
def State.cacheWays (s : State) (die : Nat) : Nat := 24 - (s.die die).dsm.foldl (fun n p => n + p.2) 0

/-- The ways of the line's set that can hold pinned lines, and how many do (R96). The set of a line is not architected (DESIGN CHOICE, log entry 31). -/
def State.pinSet (s : State) (lv line : Nat) : Nat × Nat :=
  let set (l : Nat) : Nat := if lv = 0 then Config.llcSet l else Config.dieSet l
  (if lv = 0 then 15 else s.cacheWays (lv - 1) - 1, (s.pins.filter fun p => p.level == lv && set p.line == set line).length)

/-- The status of a PIN (R96). -/
def State.pinStatus (s : State) (lv line : Nat) (uncacheable : Bool) : Nat :=
  let ctx := s.hart.sup.ctxid
  let mine (p : Pin) : Bool := p.holders.any fun h => h.1 == ctx
  let charged := (s.pins.filter mine).length
  let (ways, used) := s.pinSet lv line
  if uncacheable || (lv != 0 && s.cacheWays (lv - 1) == 0) then 3
  else if s.pins.any fun p => p.level == lv && p.line == line && mine p then 0
  else if s.hart.sup.pinquota.toNat < 64 * (charged + 1) then 2
  else if ways ≤ used then 1
  else 0

/-- The pin of a line for the context and the launch of the hart (R96, R352). -/
def State.addPin (s : State) (lv line : Nat) : State :=
  let me := (s.hart.sup.ctxid, s.hart.job.launch)
  if s.pins.any fun p => p.level == lv && p.line == line then
    { s with pins := updWhere (fun p => p.level == lv && p.line == line) (fun p => { p with holders := if p.holders.contains me then p.holders else p.holders ++ [me] }) s.pins }
  else { s with pins := s.pins ++ [⟨lv, line, [me]⟩] }

/-- R160, R95, R96: PIN; level 2 raises ILLEGAL_OPERAND (R126). -/
def execPin (st rs1 : XReg) (level : BitVec 2) (s : State) : Out :=
  let i := Instr.pin st rs1 level
  .next (s.guardOperand i (level != 2) fun s => s.scalarAccess i (s.rx rs1) 1 1 .read fun t p =>
    let lv := pinLevel level (dieOf s.hart.id)
    let status := t.pinStatus lv (p.loc / 64) p.uncacheable
    (if status = 0 then t.addPin lv (p.loc / 64) else t).ret st (BitVec.ofNat 64 status))

/-- R160, R97: UNPIN. -/
def execUnpin (st rs1 : XReg) (level : BitVec 2) (s : State) : Out :=
  let i := Instr.unpin st rs1 level
  .next (s.guardOperand i (level != 2) fun s => s.scalarAccess i (s.rx rs1) 1 1 .read fun t p =>
    let lv := pinLevel level (dieOf s.hart.id)
    let ctx := s.hart.sup.ctxid
    let pins := updWhere (fun q : Pin => q.level == lv && q.line == p.loc / 64) (fun q => { q with holders := q.holders.filter fun x => x.1 != ctx }) t.pins
    ({ t with pins := pins.filter fun q => !q.holders.isEmpty } : State).ret st 0)

end Sys2Proof.Machine
end

