-- ==== Sys2Proof/Machine/System.lean ====
section
/-! DEFINITION. The SYS group but TRET (R166 to R171), HALT (R167), LAUNCH (R172, R173) and the privileged instructions that keep no record:
GENBUMP (R391) and LANECAP (R179). -/

namespace Sys2Proof.Machine

/-! ### ECALL, EBREAK and YIELD -/

/-- R166: ECALL traps with cause ECALL. -/
def execEcall (s : State) : Out := .next (s.trap (insnWord .ecall) { cause := .ecall, val := 0, elem := 0 })

/-- R166: EBREAK traps with cause BREAKPOINT. -/
def execEbreak (s : State) : Out := .next (s.trap (insnWord .ebreak) { cause := .breakpoint, val := 0, elem := 0 })

/-- R166: YIELD is a hint without architectural effect. -/
def execYield (s : State) : Out := .next (s.adv 4)

/-! ### FENCE and VLSYNC -/

/-- Engine commands of a hart are running (R102): their transfers are not done. -/
def State.enginesBusy (s : State) (h : Hart) : Bool :=
  s.streams.any (fun c => c.hart == h.id && c.post != .stalled) || (s.copiesOf h.id).any (fun c => c.post != .stalled) || !h.strips.isEmpty

/-- A FENCE of a hart still waits for an access or a command of its sets (R102): bit 0 loads, bit 1 stores, bit 2 engine commands. An atomic is of both. -/
def State.fenceWaits (s : State) (h : Hart) (sets : BitVec 3) : Bool :=
  (sets.getLsbD 0 && (s.outstanding h.id).any (·.reads)) || (sets.getLsbD 1 && (s.outstanding h.id).any (·.writes)) || (sets.getLsbD 2 && s.enginesBusy h)

/-- R102: FENCE. -/
def execFence (scope sets : BitVec 3) (s : State) : Out := .next (if s.fenceWaits s.hart sets then s.waits (.fence scope sets) else s.adv 4)

/-- R101: VLSYNC. -/
def execVlsync (s : State) : Out := .next (s.afterEarlier .vlsync fun t => t.adv 4)

/-- R102: the accesses that a hart's FENCE waits for have completed. -/
def execFenceComplete (hart : Nat) (s : State) : Out :=
  .next (s.asHart hart fun t => match t.hart.wait with
    | some (.fence scope sets) => if t.fenceWaits t.hart sets then t.waits (.fence scope sets) else t.adv 4
    | _ => t)

/-- R101: the accesses that a hart's VLSYNC waits for have been performed. -/
def execVlsyncComplete (hart : Nat) (s : State) : Out :=
  .next (s.asHart hart fun t => match t.hart.wait with
    | some .vlsync => t.afterEarlier .vlsync fun u => u.adv 4
    | _ => t)

/-! ### HALT -/

/-- Work that a HALT waits for (R167 step 2). Streams, copies and appends stay until their event has been posted (R171). -/
def State.haltWaits (s : State) : Bool :=
  s.pipeBusy || !(s.outstanding s.hart.id).isEmpty || s.streams.any (fun c => c.hart == s.hart.id) || !(s.copiesOf s.hart.id).isEmpty || !s.hart.strips.isEmpty || s.appends.any (fun a => a.hart == s.hart.id) || s.trains.any (fun t => t.hart == s.hart.id && !t.orphan)

/-- A hart as HALT leaves it: its lanes are zeroed and freed, its queue and its handle table discarded; x registers, CSRs and the mode stay (R167, R293, R294). -/
def Hart.halted (h : Hart) : Hart :=
  { Hart.blank h.id with level := h.level, pc := h.pc, x := h.x, sx := h.sx, csr := h.csr, sup := h.sup, vec := { Vec.zero with matrix := h.vec.matrix, ew := h.vec.ew },
                         tags := h.tags, job := h.job }

/-- What the DSM allocations of a context held that have ended since a state (R349). -/
def State.endedCells (s before : State) (ctx : Nat) : List Host.Cell :=
  (List.range 8).flatMap fun d => if Sparse.get 0 (before.die d).dsm ctx ≠ 0 ∧ Sparse.get 0 (s.die d).dsm ctx = 0 then before.dsmCells ctx d else []

/-- Steps 3 to 5 of R167: segments are released, the hart is unbound, and its rank in the gang has halted. -/
def State.finishHalt (s : State) : State :=
  let h := s.hart
  let ctx := h.sup.ctxid.toNat
  let g := h.job.gang
  let s1 := ((s.releaseSegments h.id).dropQueue h.id).dropHarts fun k => k.id == h.id
  let s2 := (s1.endDsm ctx).setLaunch fun l => { l with
    gangs := updWhere (fun x => x.id == g) (fun x => { x with halted := x.halted ++ [h.csr.gangrank.toNat] }) l.gangs }
  let s3 : State := { s2 with ended := (s2.ended.filter fun e => e.hart.id != h.id) ++ [⟨h.halted, s2.endedCells s1 ctx⟩] }
  let done := match s3.gang g with
    | some x => x.allHalted
    | none => false
  (s3.due (if done then [.gangComplete g] else [])).schedule

/-- HALT once nothing is outstanding, or a wait. -/
def State.halt (s : State) : State := if s.haltWaits then s.waits .halt else s.finishHalt

/-- R167: HALT; at supervisor level it raises ILLEGAL_OPERAND (R146). -/
def execHalt (s : State) : Out := .next (if s.isSup then s.illegalOperand .halt else s.halt)

/-- R167: the work that a hart's HALT waits for is done. -/
def execHaltComplete (hart : Nat) (s : State) : Out :=
  match s.hartById hart with
  | none => .next s
  | some h =>
    if h.wait = some .halt then
      let t := (s.swapTo hart).halt
      .next (if t.hart.bound then t.swapTo s.hart.id else if s.hart.id = hart then t else
        match t.others.find? fun k => k.id == s.hart.id with
        | some k => { t with hart := k, others := t.others.filter fun k => k.id != s.hart.id }
        | none => t)
    else .next s

/-! ### Events -/

/-- Take the oldest record out of the queue: what the freed slot lets post is due (R171), and rd receives the count before the pop. -/
def State.popEvent (s : State) (rd : XReg) : State :=
  let q := s.hart.events
  ((s.onHart fun h => { h with events := { h.events with recs := q.recs.drop 1 } }).due
    (if q.held.isSome || !q.stalled.isEmpty then [.eventStallRelease s.hart.id] else [])).ret rd (BitVec.ofNat 64 q.recs.length)

/-- Store the oldest record at rs1, remove it and give the count before the pop (R169, R170). An empty queue decides first: then nothing is checked of the
address (DEDUCED, log entry 68). -/
def State.evpop (s : State) (i : Instr) (rd rs1 : XReg) : State :=
  match s.hart.events.recs with
  | [] => s.ret rd 0
  | e :: _ =>
    s.scalarAccess i (s.rx rs1) 16 16 .write fun t p =>
      let (d0, d1) := e.dws
      match p.reg with
      | some off => t.afterEarlier i fun u => (u.windowWrite off 16 (BitVec.ofNat 64 d0)).popEvent rd
      | none => (t.storeNum 0 p.loc (s.rx rs1) 16 (d0 + 2 ^ 64 * d1) none).popEvent rd

/-- R169: EVPOP. -/
def execEvpop (rd rs1 : XReg) (s : State) : Out := .next (s.evpop (.evpop rd rs1) rd rs1)

/-- EVWAIT: a wait on the empty queue, else as EVPOP. -/
def State.evwait (s : State) (rd rs1 : XReg) : State :=
  if s.hart.events.recs.isEmpty then s.waits (.evwait rd rs1) else s.evpop (.evwait rd rs1) rd rs1

/-- R169: EVWAIT. -/
def execEvwait (rd rs1 : XReg) (s : State) : Out := .next (s.evwait rd rs1)

/-- R169: a record has entered the queue of a waiting EVWAIT. -/
def execEvwaitWake (hart : Nat) (s : State) : Out :=
  .next (s.asHart hart fun t => match t.hart.wait with
    | some (.evwait rd rs1) => t.evwait rd rs1
    | _ => t)

/-- R171: a slot of a hart's queue is free, and a held record or a stalled producer posts. -/
def execEventStallRelease (hart : Nat) (s : State) : Out := .next (s.releaseStall hart)

/-! ### LAUNCH -/

/-- R172, R173: LAUNCH reads the record as a scalar load, is a release, and offers the record to queue rs2. -/
def execLaunch (rd rs1 rs2 : XReg) (s : State) : Out :=
  let i := Instr.launch rd rs1 rs2
  let q := (s.rx rs2).toNat
  .next (s.scalarAccess i (s.rx rs1) 64 64 .read fun t p =>
    t.afterEarlier i fun u =>
      if 64 ≤ q then u.ret rd 3
      else
        let b := if p.reg.isSome then List.replicate 64 0 else Memory.bytes u.mem p.loc 64
        let (st, v) := u.offer q (parseRecord b (some ⟨s.hart.sup.ctxid, s.hart.tags.issuer, s.rx rs1⟩)) true
        v.ret rd (BitVec.ofNat 64 st))

/-! ### Privileged instructions -/

/-- An instruction of MAJ 0x34: at application level it raises ILLEGAL_INSTRUCTION (R115, R177). -/
def State.privileged (s : State) (i : Instr) (f : State → State) : State := if s.isSup then f s else s.illegalInstruction i

/-- LANECAP's status (Table 5.7) and effect (R179, R188): a cap below the target's grant starts its deadline (DEDUCED, log entry 51). -/
def State.lanecap (s : State) (target cap : Nat) : Nat × State :=
  match (if target < 2 ^ 17 then s.ownHart target else none).bind s.hartById with
  | none => (1, s)
  | some h =>
    if !h.bound then (1, s)
    else if cap < 1 ∨ 8 < cap then (2, s)
    else (0, s.updHart h.id fun h => { h with grant := { h.grant with cap := cap, deadlineOn := h.grant.deadlineOn || decide (cap < octetCount h.vec.octets) } })

/-- R179: LANECAP. -/
def execLanecap (rd rs1 rs2 : XReg) (s : State) : Out :=
  .next (s.privileged (.lanecap rd rs1 rs2) fun s =>
    let (st, t) := s.lanecap (s.rx rs1).toNat (s.rx rs2).toNat
    t.ret rd (BitVec.ofNat 64 st))

/-- The cores on which a hart is bound: the others acknowledge a generation at once (DEDUCED, log entry 52). -/
def State.busyCores (s : State) : List Nat := ((s.harts.filter (·.bound)).map fun h => h.id / 4).eraseDups

/-- Raise an ASID's generation (R391 step 2); a wrap flushes its translations (R179). -/
def State.raiseGeneration (s : State) (asid : BitVec 16) : State :=
  let g := Sparse.get (0 : BitVec 12) s.gens asid.toNat + 1
  { s with gens := Sparse.set 0 s.gens asid.toNat g
           tlb := if g = 0 then s.tlb.filter fun t => t.asid != asid else s.tlb }

/-- GENBUMP (R391): it waits for the hart's earlier stores, raises the generation, and completes when every core has acknowledged. -/
def State.genbump (s : State) (i : Instr) (rd : XReg) (asid : BitVec 16) : State :=
  match s.bumps.find? fun b => b.hart == s.hart.id with
  | some b =>
    if b.cores.isEmpty then ({ s with bumps := s.bumps.filter fun b => b.hart != s.hart.id } : State).ret rd ((Sparse.get (0 : BitVec 12) s.gens asid.toNat).setWidth 64)
    else s.waits i
  | none =>
    if (s.outstanding s.hart.id).any (·.writes) then s.waits i
    else
      let cores := s.busyCores
      (({ (s.raiseGeneration asid) with bumps := s.bumps ++ [⟨s.hart.id, asid, cores⟩] } : State).due (cores.map fun c => .genbumpAck asid.toNat c)).waits i

/-- R391, R179: GENBUMP; rs1[63:16] must be zero. -/
def execGenbump (rd rs1 : XReg) (s : State) : Out :=
  let i := Instr.genbump rd rs1
  .next (s.privileged i fun s => s.guardOperand i (decide ((s.rx rs1).toNat < 2 ^ 16)) fun s => s.genbump i rd ((s.rx rs1).setWidth 16))

/-- Work on a core that was translated under an older generation of an ASID and is neither performed nor recorded (R391): accesses and appends of its harts,
streams and copy commands, and the copies that the hub has posted for the ASID. -/
def State.translatedWork (s : State) (asid : BitVec 16) (core : Nat) : Bool :=
  let live (id : Nat) : Bool := id / 4 == core && s.harts.any fun h => h.id == id && h.freeze != .frozen
  s.accesses.any (fun a => live a.hart && !a.performed) || s.streams.any (fun c => live c.hart && c.asid == asid) ||
  s.appends.any (fun a => live a.hart && a.post == .due) ||
  s.dies.toList.any fun d => d.copies.toList.any fun q => q.any fun c => c.asid == asid && (c.ladle || live c.hart)

/-- R391: a core acknowledges a generation. -/
def execGenbumpAck (asid core : Nat) (s : State) : Out :=
  .next (if s.translatedWork (BitVec.ofNat 16 asid) core then s
    else { s with bumps := s.bumps.map fun b => if b.asid.toNat = asid then { b with cores := b.cores.filter (· != core) } else b })

end Sys2Proof.Machine
end

