-- ==== Sys2Proof/Machine/Operands.lean ====
section
/-! DEFINITION. The operands of vector instructions: how elements lie in registers (R17, R180 to R183), masks, tails and VSTART (R193), and the
conditions under which a vector instruction executes at all (R24, R41, R146, R183). -/

namespace Sys2Proof.Machine

/-! ### Tags and positions -/

/-- The type code of a tag. -/
def tagType (tag : BitVec 8) : Nat := tag.toNat % 32

/-- The register is spread. -/
def tagSpread (tag : BitVec 8) : Bool := tag.getLsbD 5

/-- The register is a crumb plane. -/
def tagCrumb (tag : BitVec 8) : Bool := tag.getLsbD 6

/-- A tag of a type and a layout, role 0 (Table 6.1). -/
def mkTag (ty : Nat) (spread : Bool) : BitVec 8 := BitVec.ofNat 8 (ty % 32 + if spread then 32 else 0)

/-- The tag of the crumb plane of a nibble plane's tag. -/
def crumbTag (tag : BitVec 8) : BitVec 8 := tag ||| 0x40

/-- The other layout of a tag. -/
def flipLayout (tag : BitVec 8) : BitVec 8 := tag ^^^ 0x20

/-- A tag that may exist in a register (R180). -/
def tagLegal (tag : BitVec 8) : Bool := !tag.getLsbD 7 && decide (tagType tag < 20) && (!tagCrumb tag || isSix (tagType tag))

/-- Bits that an element takes in a register of a tag: a nibble plane has 4, a crumb plane 2 (R182). -/
def tagBits (tag : BitVec 8) : Nat := if tagCrumb tag then 2 else if isSix (tagType tag) then 4 else tyBits (tagType tag)

/-- The width in bits of an ew code (Table 4.5). -/
def ewBits (ew : BitVec 3) : Nat := 4 * 2 ^ ew.toNat

/-- The current element width in bits (R181). -/
def Hart.ebits (h : Hart) : Nat := ewBits h.vec.ew

/-- The bit where element i begins (R17, R182): packed elements lie end to end; a spread lane of 512 bits holds 512/e elements. -/
def elemPos (tag : BitVec 8) (e i : Nat) : Nat :=
  if tagSpread tag then i / (512 / e) * 512 + i % (512 / e) * tagBits tag else i * tagBits tag

/-- The code of element i of a register. -/
def regElem (x : VBits) (tag : BitVec 8) (e i : Nat) : Nat := x.toNat / 2 ^ elemPos tag e i % 2 ^ tagBits tag

/-- A register image that holds the codes of a list from element i on, and zero elsewhere: tail and padding (R182, R193). -/
def packFrom (tag : BitVec 8) (e i : Nat) : List Nat → Nat
  | [] => 0
  | c :: t => c % 2 ^ tagBits tag * 2 ^ elemPos tag e i + packFrom tag e (i + 1) t

/-- A register image of a list of codes. -/
def packElems (tag : BitVec 8) (e : Nat) (l : List Nat) : VBits := BitVec.ofNat 32768 (packFrom tag e 0 l)

/-- The capacity of an operand (R183). -/
def Hart.capacity (h : Hart) (tag : BitVec 8) : Nat := h.lanes * 512 / (if tagSpread tag then h.ebits else tagBits tag)

/-- VL. -/
def Hart.vl (h : Hart) : Nat := h.csr.vl.toNat

/-- The first element that is not done: VSTART[31:0]. -/
def Hart.vs (h : Hart) : Nat := h.csr.vstart.toNat % 2 ^ 32

/-- An operand or result as tagged is accepted (R183): VL within its capacity, and a spread element no wider than e. -/
def Hart.fits (h : Hart) (tag : BitVec 8) : Bool :=
  decide (h.vl ≤ h.capacity tag) && (!tagSpread tag || decide (tagBits tag ≤ h.ebits))

/-- Element i of a register as tagged. -/
def Hart.elem (h : Hart) (r : VReg) (i : Nat) : Nat := regElem (h.rv r) (h.tagOf r) h.ebits i

/-- Element i of a register read under a given tag. -/
def Hart.elemAs (h : Hart) (r : VReg) (tag : BitVec 8) (i : Nat) : Nat := regElem (h.rv r) tag h.ebits i

/-- Element i of a six-bit source: the crumb of the next register above its nibble (R32, R206). -/
def Hart.elemSix (h : Hart) (r : VReg) (i : Nat) : Nat := h.elem (r + 1) i * 16 + h.elem r i

/-- Bit i of the governing mask. -/
def Hart.active (h : Hart) (m : MReg) (i : Nat) : Bool := m == 0 || (h.rm m).getLsbD i

/-! ### Classes of types (R194) -/

/-- F64, F32, BF16 and F16. -/
def tyFA (t : Nat) : Bool := [14, 0, 1, 2].contains t

/-- I8, N8, I16, N16, I32, N32, I64 and N64. -/
def tyIN (t : Nat) : Bool := [8, 9, 10, 18, 11, 19, 16, 17].contains t

/-- Every type but E3M2 and E2M3. -/
def tyBW (t : Nat) : Bool := !isSix t

/-! ### When a vector instruction executes -/

/-- The array of the hart's core is lent (R41) (DEDUCED, log entry 26). -/
def State.lent (s : State) : Bool := s.myCore.borrower.isSome

/-- A stream of the hart owns a mask register as its chunk mask until it completes (R277). -/
def State.maskOwned (s : State) (m : MReg) : Bool := m != 0 && s.streams.any fun c => c.hart == s.hart.id && c.mask == m && c.post != .stalled

/-- A mask register may be written: not m0 (R15), not owned by a stream (R277). -/
def State.maskWritable (s : State) (m : MReg) : Bool := m != 0 && !s.maskOwned m

/-- An instruction of the vector mode with its legality condition (R24, R41, R146): it raises ILLEGAL_OPERAND, waits while the core's array
is lent, or has its effect. -/
def State.vectorOp (s : State) (i : Instr) (ok : Bool) (f : State → State) : State :=
  if s.isSup || s.hart.vec.matrix || !ok then s.illegalOperand i
  else if s.lent then s.waits i
  else f s

/-! ### Elementwise results (R193) -/

/-- What becomes of element i of the destination: kept, zeroed, or computed. -/
def Hart.slot (h : Hart) (m : MReg) (z : Bool) (i : Nat) (old : Nat) (op : Nat → Res) : Res :=
  if i < h.vs then ⟨old, 0⟩
  else if h.active m i then op i
  else ⟨if z then 0 else old, 0⟩

/-- The elements below VL of the destination under its result tag. -/
def Hart.slots (h : Hart) (vd : VReg) (tag : BitVec 8) (m : MReg) (z : Bool) (op : Nat → Res) : List Res :=
  (List.range h.vl).map fun i => h.slot m z i (h.elemAs vd tag i) op

/-- The union of the flags of a list of results (R71). -/
def unionFlags (l : List Res) : Flags := l.foldl (fun f r => f ||| r.flags) 0

/-- Write a register and its tag. -/
def Hart.setVec (h : Hart) (vd : VReg) (tag : BitVec 8) (x : VBits) : Hart := (h.wv vd x).setTag vd tag

/-- VSTART[31:0] = 0, TRIM kept (R193) (DEDUCED, log entry 22). -/
def Hart.clearVstart (h : Hart) : Hart := { h with csr := { h.csr with vstart := h.csr.vstart &&& 0x8000000000000000 } }

/-- Write a list of results to a register under a tag, with their flags. -/
def Hart.putResults (h : Hart) (vd : VReg) (tag : BitVec 8) (l : List Res) : Hart :=
  let h1 := h.setVec vd tag (packElems tag h.ebits (l.map (·.code)))
  { h1 with csr := { h1.csr with fflags := h1.csr.fflags ||| unionFlags l } }

/-- The whole effect of an elementwise instruction on its hart (R193). -/
def Hart.elementwise (h : Hart) (vd : VReg) (tag : BitVec 8) (m : MReg) (z : Bool) (op : Nat → Res) : Hart :=
  (h.putResults vd tag (h.slots vd tag m z op)).clearVstart

/-- An elementwise instruction that draws a seed when its mode is SR (R61, R193). -/
def State.elementwise (s : State) (i : Instr) (vd : VReg) (tag : BitVec 8) (m : MReg) (z : Bool) (mode : RMode) (draws : Bool)
    (op : RMode → Nat → Nat → Res) : State :=
  s.withSeed i mode draws s.hart.vl fun d t => (t.onHart fun h => h.elementwise vd tag m z fun k => op mode (d.rnd16 k) k).adv 4

end Sys2Proof.Machine
end

