-- ==== Sys2Proof/Machine/VectorArith.lean ====
section
/-! DEFINITION. Elementwise vector instructions (R193 to R201, R203): arithmetic, logic, shifts, their scalar and immediate forms, compares,
merge and block scaling. -/

namespace Sys2Proof.Machine

/-- The operations of Table 6.2. -/
inductive VOp where
  | add
  | sub
  | mul
  | mulh
  | div
  | fma
  | fms
  | fnma
  | min
  | max
  | adds
  | subs
  | and
  | or
  | xor
  | sll
  | srl
  | sra
  | sqrt
  | abs
  | neg
  | mov
  deriving DecidableEq, Repr

/-- The types that an operation accepts (Table 6.2). -/
def VOp.accepts (op : VOp) (t : Nat) : Bool :=
  match op with
  | .add | .sub | .mul | .div | .min | .max | .abs | .neg => tyFA t || tyIN t
  | .mulh | .adds | .subs | .sll | .srl | .sra => tyIN t
  | .fma | .fms | .fnma | .sqrt => tyFA t
  | .and | .or | .xor => tyBW t
  | .mov => true

/-- The operation rounds a floating-point result, so it draws a seed under SR (R61). -/
def VOp.rounds (op : VOp) (t : Nat) : Bool :=
  isFloat t && (match op with
    | .add | .sub | .mul | .div | .fma | .fms | .fnma | .sqrt => true
    | _ => false)

/-- The operation reads the old element of vd as its addend (R128). -/
def VOp.addend : VOp → Bool
  | .fma | .fms | .fnma => true
  | _ => false

/-- Shift a w-bit element by an unsigned count (R197); `a` may be a whole scalar register (R198) (DEDUCED, log entry 25). -/
def shiftElem (op : VOp) (w a n : Nat) : Nat :=
  match op with
  | .sll => if w ≤ n then 0 else a * 2 ^ n % 2 ^ w
  | .srl => if w ≤ n then 0 else a / 2 ^ n % 2 ^ w
  | _ => ((BitVec.ofNat w a).sshiftRight (if w ≤ n then w else n)).toNat

/-- An integer operation on codes of a type (R197). -/
def VOp.int (op : VOp) (t a b : Nat) : Res :=
  let w := tyBits t
  let x := intOf t a
  let y := intOf t b
  let sat (v : Int) : Res := let (u, c) := clampInt t v; ⟨intCode t u, flagIf c fSAT⟩
  match op with
  | .add => ⟨intCode t (x + y), 0⟩
  | .sub => ⟨intCode t (x - y), 0⟩
  | .mul => ⟨intCode t (x * y), 0⟩
  | .mulh => ⟨intCode t (x * y / (2 ^ w : Nat)), 0⟩
  | .div => ⟨if y = 0 then 2 ^ w - 1 else intCode t (Int.tdiv x y), 0⟩
  | .min => ⟨if y < x then b else a, 0⟩
  | .max => ⟨if x < y then b else a, 0⟩
  | .adds => sat (x + y)
  | .subs => sat (x - y)
  | .and => ⟨a &&& b, 0⟩
  | .or => ⟨a ||| b, 0⟩
  | .xor => ⟨a ^^^ b, 0⟩
  | .sll | .srl | .sra => ⟨shiftElem op w a b, 0⟩
  | .abs => ⟨intCode t x.natAbs, 0⟩
  | .neg => ⟨intCode t (-x), 0⟩
  | .fma | .fms | .fnma | .sqrt | .mov => ⟨a, 0⟩

/-- A sign operation: a NaN gives the canonical NaN; no flag (R196). -/
def signElem (t a : Nat) (clear : Bool) : Res :=
  let f := fpFormat t
  let sb := 2 ^ (f.e + f.m)
  if (toNum t a).isNan then ⟨f.nanCode, 0⟩ else ⟨if clear then a % sb else if sb ≤ a % (2 * sb) then a % sb else a % sb + sb, 0⟩

/-- A floating-point operation on codes of a type (R196). -/
def VOp.float (op : VOp) (t : Nat) (mode : RMode) (rnd16 a b c : Nat) : Res :=
  match op with
  | .add => arithRes t 0 mode rnd16 a b
  | .sub => arithRes t 1 mode rnd16 a b
  | .mul => arithRes t 2 mode rnd16 a b
  | .div => arithRes t 3 mode rnd16 a b
  | .fma => fmaRes t mode rnd16 (toNum t a) (toNum t b) (toNum t c)
  | .fms => fmaRes t mode rnd16 (toNum t a) (toNum t b) (toNum t c).negate
  | .fnma => fmaRes t mode rnd16 (toNum t a).negate (toNum t b) (toNum t c)
  | .min => ⟨minMaxCode t false a b, 0⟩
  | .max => ⟨minMaxCode t true a b, 0⟩
  | .sqrt => sqrtRes t mode rnd16 a
  | .abs => signElem t a true
  | .neg => signElem t a false
  | .and => ⟨a &&& b, 0⟩
  | .or => ⟨a ||| b, 0⟩
  | .xor => ⟨a ^^^ b, 0⟩
  | .mulh | .adds | .subs | .sll | .srl | .sra | .mov => ⟨a, 0⟩

/-- An operation on codes of a type: a, b and the old element c of vd. -/
def VOp.eval (op : VOp) (t : Nat) (mode : RMode) (rnd16 a b c : Nat) : Res :=
  match op with
  | .mov => ⟨a, 0⟩
  | .and | .or | .xor => op.int t a b
  | _ => if isFloat t then op.float t mode rnd16 a b c else op.int t a b

/-- The conditions on the tags of an operation's vector sources: va's tag fits, the others equal it, and its type is accepted (R183, R184, R194) (DEDUCED, log entry 23). -/
def Hart.opLegal (h : Hart) (op : VOp) (va : VReg) (others : List VReg) : Bool :=
  h.fits (h.tagOf va) && others.all (fun r => h.tagOf r == h.tagOf va) && op.accepts (tagType (h.tagOf va))

/-- An elementwise operation whose second operand is given per element (R193, R195, R198, R199). -/
def State.vectorArith (s : State) (i : Instr) (op : VOp) (vd va : VReg) (others : List VReg) (m : MReg) (z swap : Bool) (b : Nat → Nat) : State :=
  let h := s.hart
  let tag := h.tagOf va
  let t := tagType tag
  s.vectorOp i (h.opLegal op va (if op.addend then vd :: others else others)) fun s =>
    s.elementwise i vd tag m z s.frmMode (op.rounds t) fun mode r k =>
      if swap then op.eval t mode r (b k) (h.elem va k) (h.elem vd k) else op.eval t mode r (h.elem va k) (b k) (h.elem vd k)

/-- A V3 form. -/
def State.vv (s : State) (i : Instr) (op : VOp) (vd va vb : VReg) (m : MReg) (z : Bool) : State :=
  s.vectorArith i op vd va [vb] m z false fun k => s.hart.elem vb k

/-- A unary sub-op of MAJ 0x58. -/
def State.vunary (s : State) (i : Instr) (op : VOp) (vd va : VReg) (m : MReg) (z : Bool) : State :=
  s.vectorArith i op vd va [] m z false fun _ => 0

/-- The scalar operand x of a VX form: all of xs for a shift, else its low bits read as va's type (R198). -/
def State.scalarOperand (s : State) (op : VOp) (va : VReg) (xs : XReg) : Nat :=
  match op with
  | .sll | .srl | .sra => (s.rx xs).toNat
  | _ => (s.rx xs).toNat % 2 ^ tyBits (tagType (s.hart.tagOf va))

/-- A VX form. -/
def State.vx (s : State) (i : Instr) (op : VOp) (vd va : VReg) (xs : XReg) (sw : Bool) (m : MReg) (z : Bool) : State :=
  s.vectorArith i op vd va [] m z sw fun _ => s.scalarOperand op va xs

/-- The immediate of a VI form: signed for VADDI and VANDI, unsigned for the shifts (R199). -/
def State.immOperand (s : State) (op : VOp) (va : VReg) (imm : BitVec 6) : Nat :=
  match op with
  | .sll | .srl | .sra => imm.toNat
  | _ => (imm.signExtend (tyBits (tagType (s.hart.tagOf va)))).toNat

/-- A VI form; VADDI takes integer types only (R199). -/
def State.vi (s : State) (i : Instr) (op : VOp) (vd va : VReg) (imm : BitVec 6) (m : MReg) (z : Bool) : State :=
  if op = .add ∧ tyIN (tagType (s.hart.tagOf va)) = false then s.vectorOp i false id
  else s.vectorArith i op vd va [] m z false fun _ => s.immOperand op va imm

/-- R195: VADD. -/
def execVadd (vd va vb : VReg) (m : MReg) (ca cb z : Bool) (s : State) : Out :=
  .next (s.vv (.vadd vd va vb m ca cb z) .add vd va vb m z)

/-- R195: VSUB. -/
def execVsub (vd va vb : VReg) (m : MReg) (ca cb z : Bool) (s : State) : Out :=
  .next (s.vv (.vsub vd va vb m ca cb z) .sub vd va vb m z)

/-- R195: VMUL. -/
def execVmul (vd va vb : VReg) (m : MReg) (ca cb z : Bool) (s : State) : Out :=
  .next (s.vv (.vmul vd va vb m ca cb z) .mul vd va vb m z)

/-- R195: VMULH. -/
def execVmulh (vd va vb : VReg) (m : MReg) (ca cb z : Bool) (s : State) : Out :=
  .next (s.vv (.vmulh vd va vb m ca cb z) .mulh vd va vb m z)

/-- R195: VDIV. -/
def execVdiv (vd va vb : VReg) (m : MReg) (ca cb z : Bool) (s : State) : Out :=
  .next (s.vv (.vdiv vd va vb m ca cb z) .div vd va vb m z)

/-- R195: VFMA. -/
def execVfma (vd va vb : VReg) (m : MReg) (ca cb z : Bool) (s : State) : Out :=
  .next (s.vv (.vfma vd va vb m ca cb z) .fma vd va vb m z)

/-- R195: VFMS. -/
def execVfms (vd va vb : VReg) (m : MReg) (ca cb z : Bool) (s : State) : Out :=
  .next (s.vv (.vfms vd va vb m ca cb z) .fms vd va vb m z)

/-- R195: VFNMA. -/
def execVfnma (vd va vb : VReg) (m : MReg) (ca cb z : Bool) (s : State) : Out :=
  .next (s.vv (.vfnma vd va vb m ca cb z) .fnma vd va vb m z)

/-- R195: VMIN. -/
def execVmin (vd va vb : VReg) (m : MReg) (ca cb z : Bool) (s : State) : Out :=
  .next (s.vv (.vmin vd va vb m ca cb z) .min vd va vb m z)

/-- R195: VMAX. -/
def execVmax (vd va vb : VReg) (m : MReg) (ca cb z : Bool) (s : State) : Out :=
  .next (s.vv (.vmax vd va vb m ca cb z) .max vd va vb m z)

/-- R195: VADDS. -/
def execVadds (vd va vb : VReg) (m : MReg) (ca cb z : Bool) (s : State) : Out :=
  .next (s.vv (.vadds vd va vb m ca cb z) .adds vd va vb m z)

/-- R195: VSUBS. -/
def execVsubs (vd va vb : VReg) (m : MReg) (ca cb z : Bool) (s : State) : Out :=
  .next (s.vv (.vsubs vd va vb m ca cb z) .subs vd va vb m z)

/-- R195: VAND. -/
def execVand (vd va vb : VReg) (m : MReg) (ca cb z : Bool) (s : State) : Out :=
  .next (s.vv (.vand vd va vb m ca cb z) .and vd va vb m z)

/-- R195: VOR. -/
def execVor (vd va vb : VReg) (m : MReg) (ca cb z : Bool) (s : State) : Out :=
  .next (s.vv (.vor vd va vb m ca cb z) .or vd va vb m z)

/-- R195: VXOR. -/
def execVxor (vd va vb : VReg) (m : MReg) (ca cb z : Bool) (s : State) : Out :=
  .next (s.vv (.vxor vd va vb m ca cb z) .xor vd va vb m z)

/-- R195: VSLL. -/
def execVsll (vd va vb : VReg) (m : MReg) (ca cb z : Bool) (s : State) : Out :=
  .next (s.vv (.vsll vd va vb m ca cb z) .sll vd va vb m z)

/-- R195: VSRL. -/
def execVsrl (vd va vb : VReg) (m : MReg) (ca cb z : Bool) (s : State) : Out :=
  .next (s.vv (.vsrl vd va vb m ca cb z) .srl vd va vb m z)

/-- R195: VSRA. -/
def execVsra (vd va vb : VReg) (m : MReg) (ca cb z : Bool) (s : State) : Out :=
  .next (s.vv (.vsra vd va vb m ca cb z) .sra vd va vb m z)

/-- R195: VSQRT. -/
def execVsqrt (vd va : VReg) (m : MReg) (ca z : Bool) (s : State) : Out :=
  .next (s.vunary (.vsqrt vd va m ca z) .sqrt vd va m z)

/-- R195: VABS. -/
def execVabs (vd va : VReg) (m : MReg) (ca z : Bool) (s : State) : Out :=
  .next (s.vunary (.vabs vd va m ca z) .abs vd va m z)

/-- R195: VNEG. -/
def execVneg (vd va : VReg) (m : MReg) (ca z : Bool) (s : State) : Out :=
  .next (s.vunary (.vneg vd va m ca z) .neg vd va m z)

/-- R195: VMOV. -/
def execVmov (vd va : VReg) (m : MReg) (ca z : Bool) (s : State) : Out :=
  .next (s.vunary (.vmov vd va m ca z) .mov vd va m z)

/-- R198: VADD_X. -/
def execVaddX (vd va : VReg) (xs : XReg) (sw : Bool) (m : MReg) (ca z : Bool) (s : State) : Out :=
  .next (s.vx (.vaddX vd va xs sw m ca z) .add vd va xs sw m z)

/-- R198: VSUB_X. -/
def execVsubX (vd va : VReg) (xs : XReg) (sw : Bool) (m : MReg) (ca z : Bool) (s : State) : Out :=
  .next (s.vx (.vsubX vd va xs sw m ca z) .sub vd va xs sw m z)

/-- R198: VMUL_X. -/
def execVmulX (vd va : VReg) (xs : XReg) (sw : Bool) (m : MReg) (ca z : Bool) (s : State) : Out :=
  .next (s.vx (.vmulX vd va xs sw m ca z) .mul vd va xs sw m z)

/-- R198: VFMA_X. -/
def execVfmaX (vd va : VReg) (xs : XReg) (sw : Bool) (m : MReg) (ca z : Bool) (s : State) : Out :=
  .next (s.vx (.vfmaX vd va xs sw m ca z) .fma vd va xs sw m z)

/-- R198: VMIN_X. -/
def execVminX (vd va : VReg) (xs : XReg) (sw : Bool) (m : MReg) (ca z : Bool) (s : State) : Out :=
  .next (s.vx (.vminX vd va xs sw m ca z) .min vd va xs sw m z)

/-- R198: VMAX_X. -/
def execVmaxX (vd va : VReg) (xs : XReg) (sw : Bool) (m : MReg) (ca z : Bool) (s : State) : Out :=
  .next (s.vx (.vmaxX vd va xs sw m ca z) .max vd va xs sw m z)

/-- R198: VAND_X. -/
def execVandX (vd va : VReg) (xs : XReg) (sw : Bool) (m : MReg) (ca z : Bool) (s : State) : Out :=
  .next (s.vx (.vandX vd va xs sw m ca z) .and vd va xs sw m z)

/-- R198: VOR_X. -/
def execVorX (vd va : VReg) (xs : XReg) (sw : Bool) (m : MReg) (ca z : Bool) (s : State) : Out :=
  .next (s.vx (.vorX vd va xs sw m ca z) .or vd va xs sw m z)

/-- R198: VXOR_X. -/
def execVxorX (vd va : VReg) (xs : XReg) (sw : Bool) (m : MReg) (ca z : Bool) (s : State) : Out :=
  .next (s.vx (.vxorX vd va xs sw m ca z) .xor vd va xs sw m z)

/-- R198: VSLL_X. -/
def execVsllX (vd va : VReg) (xs : XReg) (sw : Bool) (m : MReg) (ca z : Bool) (s : State) : Out :=
  .next (s.vx (.vsllX vd va xs sw m ca z) .sll vd va xs sw m z)

/-- R198: VSRL_X. -/
def execVsrlX (vd va : VReg) (xs : XReg) (sw : Bool) (m : MReg) (ca z : Bool) (s : State) : Out :=
  .next (s.vx (.vsrlX vd va xs sw m ca z) .srl vd va xs sw m z)

/-- R198: VSRA_X. -/
def execVsraX (vd va : VReg) (xs : XReg) (sw : Bool) (m : MReg) (ca z : Bool) (s : State) : Out :=
  .next (s.vx (.vsraX vd va xs sw m ca z) .sra vd va xs sw m z)

/-- R199: VADDI. -/
def execVaddi (vd va : VReg) (imm : BitVec 6) (m : MReg) (ca z : Bool) (s : State) : Out :=
  .next (s.vi (.vaddi vd va imm m ca z) .add vd va imm m z)

/-- R199: VANDI. -/
def execVandi (vd va : VReg) (imm : BitVec 6) (m : MReg) (ca z : Bool) (s : State) : Out :=
  .next (s.vi (.vandi vd va imm m ca z) .and vd va imm m z)

/-- R199: VSLLI. -/
def execVslli (vd va : VReg) (imm : BitVec 6) (m : MReg) (ca z : Bool) (s : State) : Out :=
  .next (s.vi (.vslli vd va imm m ca z) .sll vd va imm m z)

/-- R199: VSRLI. -/
def execVsrli (vd va : VReg) (imm : BitVec 6) (m : MReg) (ca z : Bool) (s : State) : Out :=
  .next (s.vi (.vsrli vd va imm m ca z) .srl vd va imm m z)

/-- R199: VSRAI. -/
def execVsrai (vd va : VReg) (imm : BitVec 6) (m : MReg) (ca z : Bool) (s : State) : Out :=
  .next (s.vi (.vsrai vd va imm m ca z) .sra vd va imm m z)

/-! ### Compares and merge -/

/-- The mask that a compare writes (R200): active bits hold the condition; bits at or above VL are zero. -/
def Hart.maskResult (h : Hart) (old : MBits) (m : MReg) (z : Bool) (f : Nat → Bool) : MBits :=
  BitVec.ofNat 8192 ((List.range h.vl).foldl (fun acc i =>
    acc + if (if i < h.vs then old.getLsbD i else if h.active m i then f i else !z && old.getLsbD i) then 2 ^ i else 0) 0)

/-- A compare against an operand given per element (R200). -/
def State.vectorCompare (s : State) (i : Instr) (md : MReg) (cond : BitVec 3) (va : VReg) (others : List VReg) (m : MReg) (z swap : Bool) (b : Nat → Nat) : State :=
  let h := s.hart
  let t := tagType (h.tagOf va)
  s.vectorOp i (s.maskWritable md && h.opLegal .add va others) fun s =>
    (s.onHart fun h' => (h'.wm md (h'.maskResult (h'.rm md) m z fun k =>
      let x := toNum t (h.elem va k)
      let y := toNum t (b k)
      if swap then condNum cond.toNat y x else condNum cond.toNat x y)).clearVstart).adv 4

/-- R200: VCMP. -/
def execVcmp (md : MReg) (cond : BitVec 3) (va vb : VReg) (m : MReg) (ca cb z : Bool) (s : State) : Out :=
  .next (s.vectorCompare (.vcmp md cond va vb m ca cb z) md cond va [vb] m z false fun k => s.hart.elem vb k)

/-- R198, R200: VCMP_X. -/
def execVcmpX (md : MReg) (cond : BitVec 3) (va : VReg) (xs : XReg) (sw : Bool) (m : MReg) (ca z : Bool) (s : State) : Out :=
  .next (s.vectorCompare (.vcmpX md cond va xs sw m ca z) md cond va [] m z sw fun _ => s.scalarOperand .add va xs)

/-- R201: VMERGE: va where the mask is 1, vb elsewhere; the mask selects and does not govern. -/
def execVmerge (vd va vb : VReg) (m : MReg) (ca cb : Bool) (s : State) : Out :=
  let h := s.hart
  .next (s.vectorOp (.vmerge vd va vb m ca cb) (h.opLegal .and va [vb]) fun s =>
    s.elementwise (.vmerge vd va vb m ca cb) vd (h.tagOf va) 0 false .rne false fun _ _ k =>
      ⟨if h.active m k then h.elem va k else h.elem vb k, 0⟩)

/-! ### Block scaling -/

/-- The lane that holds element i of a register. -/
def Hart.laneOf (h : Hart) (tag : BitVec 8) (i : Nat) : Nat := elemPos tag h.ebits i / 512

/-- One element times its lane's scale (R203). -/
def scaleElem (t : Nat) (mode : RMode) (rnd16 a sc : Nat) : Res :=
  if sc = 255 then ⟨(fpFormat t).nanCode, fSN⟩ else (fpFormat t).round mode false false rnd16 ((toNum t a).scale ((sc : Int) - 127))

/-- R203: VMULSC; the scale of a lane is byte 0 of vb's slice there (DEDUCED, log entry 23). -/
def execVmulsc (vd va vb : VReg) (m : MReg) (ca cb z : Bool) (s : State) : Out :=
  let h := s.hart
  let tag := h.tagOf va
  let t := tagType tag
  .next (s.vectorOp (.vmulsc vd va vb m ca cb z) (h.fits tag && [0, 1, 2].contains t && tagType (h.tagOf vb) == 13) fun s =>
    s.elementwise (.vmulsc vd va vb m ca cb z) vd tag m z s.frmMode true fun mode r k =>
      scaleElem t mode r (h.elem va k) ((h.rv vb).toNat / 2 ^ (512 * h.laneOf tag k) % 256))

end Sys2Proof.Machine
end

