-- ==== Sys2Proof/Machine/VectorControl.lean ====
section
/-! DEFINITION. VSETVL and lane grants (R187 to R190), tags (R191), the modes (R22 to R25, R192) and the mask group (R202). -/

namespace Sys2Proof.Machine

/-! ### Lane grants -/

/-- Vector instructions of the current hart have not completed (R22, R187). -/
def State.vectorBusy (s : State) : Bool :=
  s.pipeBusy || (s.outstanding s.hart.id).any (fun a => a.side != 0) || !s.hart.strips.isEmpty || s.appends.any (fun a => a.hart == s.hart.id) ||
  s.trains.any fun t => t.hart == s.hart.id && !t.orphan

/-- The octets after a decision with a target (R188, R190): the highest are dropped, or free ones above the highest are added, lowest first. -/
def State.decideGrant (s : State) (target : Nat) : BitVec 8 :=
  let have' := s.hart.vec.octets
  let n := octetCount have'
  if target < n then lowestOctets have' (max target 1)
  else
    let free := s.freeOctets (dieOf s.hart.id) (coreOf s.hart.id)
    let above := (List.range 8).foldl (fun (o : BitVec 8) i => if free.getLsbD i && decide (have'.toNat < 2 ^ i) then o ||| (1 <<< i) else o) 0
    have' ||| lowestOctets above (target - n)

/-- The target of the grant decision: octets_max, the cap, and no growth without LANEPOL.GROW (R188, R353). -/
def Hart.grantTarget (h : Hart) : Nat :=
  let t := min h.grant.octMax h.grant.cap
  if h.sup.grow then t else min t (octetCount h.vec.octets)

/-- Keep the state of the lanes below L (R189): the bits of registers, masks and accumulator columns beyond are lost, and read zero. -/
def Vec.clip (v : Vec) (lanes : Nat) : Vec :=
  { v with v := v.v.map fun x => lowBits x (512 * lanes), m := v.m.map fun x => lowBits x (128 * lanes), acc := lowBits v.acc (2048 * lanes) }

/-- Take a grant (R189): the contents follow, and a kind 5 record is posted when the grant changes. -/
def Hart.takeGrant (h : Hart) (o : BitVec 8) : Hart :=
  let n := octetCount o
  let old := octetCount h.vec.octets
  if o = h.vec.octets then h
  else { h with
    vec := { (h.vec.clip (8 * min n old)) with octets := o }
    events := h.events.grantChange n old }

/-- The strip that VSETVL sets under its grant (R187). -/
def Hart.setStrip (h : Hart) (ew : BitVec 3) (req : Nat) : Hart :=
  { h with vec := { h.vec with ew := ew }, csr := { h.csr with vl := BitVec.ofNat 64 (min req (h.lanes * 512 / ewBits ew)), vstart := 0 } }

/-- A decision that meets the cap stops the deadline (R188, R378), and the octets are held until the change (R187). -/
def Hart.decideOn (h : Hart) (o : BitVec 8) : Hart :=
  { h with grant := { h.grant with decided := some o, deadlineOn := h.grant.deadlineOn && decide (h.grant.cap < octetCount o) } }

/-- VSETVL in vector mode decides its grant once, at decode, and takes it when earlier vector instructions have completed. Octets that it frees may be what the
selected gang waits for (R347). -/
def State.vsetvl (s : State) (i : Instr) (rd rs1 : XReg) (ew : BitVec 3) : State :=
  let req := (s.rx rs1).toNat
  if s.hart.vec.matrix then
    let t := s.onHart fun h => h.setStrip ew req
    t.ret rd t.hart.csr.vl
  else
    let o := s.hart.grant.decided.getD (s.decideGrant s.hart.grantTarget)
    let s1 := s.onHart fun h => h.decideOn o
    if o != s.hart.vec.octets && s.vectorBusy then s1.waits i
    else
      let t := (s1.onHart fun h => (({ h with grant := { h.grant with decided := none } } : Hart).takeGrant o).setStrip ew req).due
        (if octetCount o < octetCount s.hart.vec.octets ∧ s.launch.selected.isSome then [.bindGang] else [])
      t.ret rd t.hart.csr.vl

/-- R187, R188: VSETVL; at supervisor level it raises ILLEGAL_OPERAND (R146). -/
def execVsetvl (rd rs1 : XReg) (ew : BitVec 3) (s : State) : Out :=
  let i := Instr.vsetvl rd rs1 ew
  .next (s.guardOperand i (!s.isSup) fun s => s.vsetvl i rd rs1 ew)

/-- R187, R189: the vector instructions before a waiting VSETVL have completed, and its grant changes. -/
def execGrantChange (hart : Nat) (s : State) : Out :=
  .next (s.asHart hart fun t => match t.hart.wait with
    | some (.vsetvl rd rs1 ew) => t.vsetvl (.vsetvl rd rs1 ew) rd rs1 ew
    | _ => t)

/-! ### Tags -/

/-- R191: VSETTAG; a value that R180 forbids raises ILLEGAL_OPERAND. -/
def execVsettag (v : VReg) (rs1 : XReg) (s : State) : Out :=
  let tag := (s.rx rs1).setWidth 8
  .next (s.guardOperand (.vsettag v rs1) (!s.isSup && tagLegal tag) fun s => (s.onHart fun h => (h.setTag v tag).clearVstart).adv 4)

/-- R191, R89: VGETTAG. -/
def execVgettag (rd : XReg) (v : VReg) (s : State) : Out :=
  .next (s.guardOperand (.vgettag rd v) (!s.isSup) fun s => (s.onHart Hart.clearVstart).ret rd ((s.hart.tagOf v).setWidth 64))

/-! ### Modes -/

/-- Switch the granted lanes (R22); leaving matrix mode releases the segments (R42), and entering it leaves no B tile in place (R314). VSTART is 0 then (R89). -/
def State.switchMode (s : State) (matrix : Bool) : State :=
  ((if matrix || s.hart.lenders.isEmpty then s else s.releaseSegments s.hart.id).onHart fun h => { h.clearVstart with vec := { h.vec with matrix := matrix, tile := none } }).adv 4

/-- A mode change waits for earlier vector instructions (R22), and while the core's array is lent (R41) (DEDUCED, log entry 26). -/
def State.mode (s : State) (i : Instr) (matrix : Bool) : State := if s.lent || s.vectorBusy then s.waits i else s.switchMode matrix

/-- R22, R192: MODE.V. -/
def execModeV (s : State) : Out := .next (s.guardOperand .modeV (!s.isSup) fun s => s.mode .modeV false)

/-- R22, R192: MODE.M. -/
def execModeM (s : State) : Out := .next (s.guardOperand .modeM (!s.isSup) fun s => s.mode .modeM true)

/-- R22, R23: a waiting mode change finds the earlier vector instructions finished, and switches. -/
def execModeSwitch (hart : Nat) (s : State) : Out :=
  .next (s.asHart hart fun t => match t.hart.wait with
    | some .modeV => t.mode .modeV false
    | some .modeM => t.mode .modeM true
    | _ => t)

/-! ### The mask group (R202) -/

/-- The bits below VL of a mask. -/
def Hart.liveMask (h : Hart) (m : MReg) : MBits := lowBits (h.rm m) h.vl

/-- Write a mask below VL and clear it above; VSTART[31:0] becomes 0 (R89) (DEDUCED, log entry 22). -/
def State.maskWrite (s : State) (i : Instr) (md : MReg) (x : MBits) : State :=
  s.vectorOp i (s.maskWritable md) fun s => (s.onHart fun h => (h.wm md (lowBits x h.vl)).clearVstart).adv 4

/-- R202: MAND. -/
def execMand (md ma mb : MReg) (s : State) : Out := .next (s.maskWrite (.mand md ma mb) md (s.hart.rm ma &&& s.hart.rm mb))

/-- R202: MOR. -/
def execMor (md ma mb : MReg) (s : State) : Out := .next (s.maskWrite (.mor md ma mb) md (s.hart.rm ma ||| s.hart.rm mb))

/-- R202: MXOR. -/
def execMxor (md ma mb : MReg) (s : State) : Out := .next (s.maskWrite (.mxor md ma mb) md (s.hart.rm ma ^^^ s.hart.rm mb))

/-- R202: MANDN. -/
def execMandn (md ma mb : MReg) (s : State) : Out := .next (s.maskWrite (.mandn md ma mb) md (s.hart.rm ma &&& ~~~ s.hart.rm mb))

/-- R202: MSET. -/
def execMset (md : MReg) (s : State) : Out := .next (s.maskWrite (.mset md) md (BitVec.allOnes 8192))

/-- The set bits of a mask below n. -/
def popBelow (x : MBits) (n : Nat) : Nat := ((List.range n).filter fun i => x.getLsbD i).length

/-- R202: MPOPC. -/
def execMpopc (x : XReg) (ma : MReg) (s : State) : Out :=
  .next (s.vectorOp (.mpopc x ma) true fun s => (s.onHart Hart.clearVstart).ret x (BitVec.ofNat 64 (popBelow (s.hart.liveMask ma) (min s.hart.vl 8192))))

/-- The lowest set bit below n. -/
def firstBelow (x : MBits) (n : Nat) : Option Nat := (List.range n).find? fun i => x.getLsbD i

/-- R202: MFIRST. -/
def execMfirst (x : XReg) (ma : MReg) (s : State) : Out :=
  .next (s.vectorOp (.mfirst x ma) true fun s => (s.onHart Hart.clearVstart).ret x (match firstBelow (s.hart.liveMask ma) (min s.hart.vl 8192) with
    | some i => BitVec.ofNat 64 i
    | none => BitVec.allOnes 64))

end Sys2Proof.Machine
end

