-- ==== Sys2Proof/Machine/VectorMove.lean ====
section
/-! DEFINITION. Conversions and layout changes (R204 to R207), the cross-lane permutes (R208 to R212), the scalar moves (R213) and VRNG (R214). -/

namespace Sys2Proof.Machine

/-! ### VCVT -/

/-- The register after a register; v0 after v63, which every use excludes. -/
def nextReg (r : VReg) : VReg := r + 1

/-- A six-bit pair: two spread planes of one type, the nibbles first (R206); `spread` as the entry asks. -/
def Hart.sixPair (h : Hart) (va : VReg) : Bool := va != 63 && h.tagOf (nextReg va) == crumbTag (h.tagOf va)

/-- A pair of types that VCVT converts (R205). -/
def cvtTypes (src dst : Nat) : Bool :=
  decide (dst < 20) && src != 15 && dst != 15 && !(src == 13 && isInt dst) && !(dst == 13 && isInt src)

/-- The conversion draws a seed under SR (R61, R205). -/
def cvtDraws (src dst : Nat) : Bool := !(isInt src && isInt dst) && dst != 13 && !convExact src dst

/-- The width in bits of a target's nibble plane or whole element. -/
def cvtBits (dst : Nat) : Nat := if isSix dst then 4 else tyBits dst

/-- The same size and no six-bit type: the layout stays (R204). -/
def Hart.cvtKeeps (h : Hart) (va : VReg) (dst : Nat) : Bool :=
  let tag := h.tagOf va
  tagBits tag == cvtBits dst && !isSix (tagType tag) && !isSix dst

/-- The result tag of a conversion (R204, R206). -/
def Hart.cvtTag (h : Hart) (va : VReg) (dst : Nat) : BitVec 8 :=
  mkTag dst (if h.cvtKeeps va dst then tagSpread (h.tagOf va) else isSix dst || decide (cvtBits dst < h.ebits))

/-- The conditions of a conversion (R183, R204 to R206). -/
def Hart.cvtLegal (h : Hart) (vd va : VReg) (dst : Nat) : Bool :=
  let tag := h.tagOf va
  let src := tagType tag
  cvtTypes src dst && !tagCrumb tag && (!isSix src || (tagSpread tag && h.sixPair va)) && (!isSix dst || vd != 63) &&
  (h.cvtKeeps va dst || ((tagSpread tag || tagBits tag == h.ebits) && decide (cvtBits dst ≤ h.ebits))) &&
  h.fits tag && h.fits (h.cvtTag va dst)

/-- A source element, its two planes joined for a six-bit type. -/
def Hart.cvtSource (h : Hart) (va : VReg) (i : Nat) : Nat := if isSix (tagType (h.tagOf va)) then h.elemSix va i else h.elem va i

/-- Write a six-bit result: the nibble plane to vd, the crumb plane to the next register (R206). -/
def Hart.putPlanes (h : Hart) (vd : VReg) (tag : BitVec 8) (l : List Res) : Hart :=
  (h.putResults vd tag (l.map fun r => ⟨r.code % 16, r.flags⟩)).setVec (nextReg vd) (crumbTag tag)
    (packElems (crumbTag tag) h.ebits (l.map fun r => r.code / 16))

/-- A conversion's effect on its hart. -/
def Hart.convert (h : Hart) (vd va : VReg) (dst : Nat) (m : MReg) (z : Bool) (mode : RMode) (rnd : Nat → Nat) : Hart :=
  let src := tagType (h.tagOf va)
  let tag := h.cvtTag va dst
  let op (i : Nat) : Res := convertRes src dst mode false (rnd i) (h.cvtSource va i)
  if isSix dst then
    (h.putPlanes vd tag ((List.range h.vl).map fun i =>
      h.slot m z i (h.elemAs (nextReg vd) (crumbTag tag) i * 16 + h.elemAs vd tag i) op)).clearVstart
  else h.elementwise vd tag m z op

/-- R204 to R206: VCVT; `sr` selects SR over FRM. -/
def execVcvt (vd va : VReg) (ty : BitVec 5) (sr : Bool) (m : MReg) (ca z : Bool) (s : State) : Out :=
  let i := Instr.vcvt vd va ty sr m ca z
  let dst := ty.toNat
  let mode := if sr then RMode.sr else s.frmMode
  .next (s.vectorOp i (s.hart.cvtLegal vd va dst) fun s =>
    s.withSeed i mode (cvtDraws (tagType (s.hart.tagOf va)) dst) s.hart.vl fun d t =>
      (t.onHart fun h => h.convert vd va dst m z mode fun k => d.rnd16 k).adv 4)

/-! ### Cross-lane permutes -/

/-- The elements below VL of a cross-lane result (R208): computed, kept or zeroed; `keep` names positions that stay whatever z holds. -/
def Hart.permuted (h : Hart) (vd : VReg) (tag : BitVec 8) (m : MReg) (z : Bool) (keep : Nat → Bool) (f : Nat → Nat) : List Nat :=
  (List.range h.vl).map fun i =>
    if keep i then h.elemAs vd tag i
    else if h.active m i then f i
    else if z then 0 else h.elemAs vd tag i

/-- Write a list of codes to a register under a tag. -/
def Hart.putCodes (h : Hart) (vd : VReg) (tag : BitVec 8) (l : List Nat) : Hart := (h.setVec vd tag (packElems tag h.ebits l)).clearVstart

/-- A cross-lane instruction: its legality with R183's, then every source is read before any result is written. -/
def State.crossLane (s : State) (i : Instr) (ok : Bool) (vd : VReg) (tag : BitVec 8) (m : MReg) (z : Bool) (keep : Nat → Bool) (f : Nat → Nat) : State :=
  s.vectorOp i (ok && s.hart.fits tag) fun s => (s.onHart fun h => h.putCodes vd tag (h.permuted vd tag m z keep f)).adv 4

/-- No position is kept. -/
def keepNone (_ : Nat) : Bool := false

/-- A source that a permute accepts: it fits and is not six-bit (R183, R208). -/
def Hart.permSource (h : Hart) (va : VReg) : Bool := h.fits (h.tagOf va) && tyBW (tagType (h.tagOf va))

/-- va's type, packed. -/
def Hart.packedTag (h : Hart) (va : VReg) : BitVec 8 := mkTag (tagType (h.tagOf va)) false

/-- R207: VRESHUF: the other layout, type and role kept. -/
def execVreshuf (vd va : VReg) (m : MReg) (ca z : Bool) (s : State) : Out :=
  let h := s.hart
  let tag := flipLayout (h.tagOf va)
  .next (s.crossLane (.vreshuf vd va m ca z) (vd != va && decide (tagBits tag ≤ h.ebits) && h.fits (h.tagOf va)) vd tag m z keepNone fun i => h.elem va i)

/-- R209: VPERM: a gather within a register; an index beyond va's capacity gives 0. -/
def execVperm (vd va vb : VReg) (m : MReg) (ca cb z : Bool) (s : State) : Out :=
  let h := s.hart
  let c := h.capacity (h.tagOf va)
  .next (s.crossLane (.vperm vd va vb m ca cb z) (h.permSource va && h.permSource vb && [9, 18, 19].contains (tagType (h.tagOf vb))) vd (h.packedTag va) m z
    keepNone fun i => if h.elem vb i < c then h.elem va (h.elem vb i) else 0)

/-- A pair of registers with equal tags (R210). -/
def Hart.pairSource (h : Hart) (va : VReg) : Bool := va != 63 && h.permSource va && h.tagOf (nextReg va) == h.tagOf va

/-- Element k of va or of the register after it. -/
def Hart.pairElem (h : Hart) (va : VReg) (second : Bool) (k : Nat) : Nat := if second then h.elem (nextReg va) k else h.elem va k

/-- R210: VZIP_LO. -/
def execVzipLo (vd va : VReg) (m : MReg) (ca z : Bool) (s : State) : Out :=
  let h := s.hart
  .next (s.crossLane (.vzipLo vd va m ca z) (h.pairSource va) vd (h.packedTag va) m z keepNone fun i => h.pairElem va (i % 2 == 1) (i / 2))

/-- R210: VZIP_HI. -/
def execVzipHi (vd va : VReg) (m : MReg) (ca z : Bool) (s : State) : Out :=
  let h := s.hart
  .next (s.crossLane (.vzipHi vd va m ca z) (h.pairSource va) vd (h.packedTag va) m z keepNone fun i =>
    h.pairElem va (i % 2 == 1) (h.capacity (h.tagOf va) / 2 + i / 2))

/-- Element k of va's C elements followed by the next register's. -/
def Hart.queueElem (h : Hart) (va : VReg) (k : Nat) : Nat :=
  let c := h.capacity (h.tagOf va)
  if k < c then h.elem va k else h.elem (nextReg va) (k - c)

/-- R210: VUNZIP_EVEN. -/
def execVunzipEven (vd va : VReg) (m : MReg) (ca z : Bool) (s : State) : Out :=
  let h := s.hart
  .next (s.crossLane (.vunzipEven vd va m ca z) (h.pairSource va) vd (h.packedTag va) m z keepNone fun i => h.queueElem va (2 * i))

/-- R210: VUNZIP_ODD. -/
def execVunzipOdd (vd va : VReg) (m : MReg) (ca z : Bool) (s : State) : Out :=
  let h := s.hart
  .next (s.crossLane (.vunzipOdd vd va m ca z) (h.pairSource va) vd (h.packedTag va) m z keepNone fun i => h.queueElem va (2 * i + 1))

/-- R211: VSLIDEUP; positions below the count keep their old value whatever z holds. -/
def execVslideup (vd va : VReg) (imm : BitVec 6) (m : MReg) (ca z : Bool) (s : State) : Out :=
  let h := s.hart
  let k := imm.toNat
  .next (s.crossLane (.vslideup vd va imm m ca z) (vd != va && h.permSource va) vd (h.packedTag va) m z (fun i => decide (i < k)) fun i => h.elem va (i - k))

/-- R211: VSLIDEDN. -/
def execVslidedn (vd va : VReg) (imm : BitVec 6) (m : MReg) (ca z : Bool) (s : State) : Out :=
  let h := s.hart
  let k := imm.toNat
  .next (s.crossLane (.vslidedn vd va imm m ca z) (h.permSource va) vd (h.packedTag va) m z keepNone fun i => if i + k < h.vl then h.elem va (i + k) else 0)

/-- A register with its lanes moved k places around the ring of L lanes. -/
def ringMove (x : VBits) (lanes k : Nat) : VBits :=
  let n := 512 * (k % lanes)
  let v := x.toNat % 2 ^ (512 * lanes)
  BitVec.ofNat 32768 ((v * 2 ^ n + v / 2 ^ (512 * lanes - n)) % 2 ^ (512 * lanes))

/-- R211: VRING: lane j receives the slice of lane j - k; a packed source of any role. -/
def execVring (vd va : VReg) (imm : BitVec 6) (m : MReg) (ca z : Bool) (s : State) : Out :=
  let h := s.hart
  let tag := h.tagOf va
  .next (s.crossLane (.vring vd va imm m ca z) (!tagSpread tag) vd tag m z keepNone fun i => regElem (ringMove (h.rv va) h.lanes imm.toNat) tag h.ebits i)

/-- R212: VCOMPRESS: the active elements in index order, then zeros. -/
def execVcompress (vd va : VReg) (m : MReg) (ca : Bool) (s : State) : Out :=
  let h := s.hart
  .next (s.vectorOp (.vcompress vd va m ca) (vd != va && h.permSource va && h.fits (h.packedTag va)) fun s =>
    (s.onHart fun h => h.putCodes vd (h.packedTag va) (((List.range h.vl).filter fun i => h.active m i).map fun i => h.elem va i)).adv 4)

/-- The number of active positions below i. -/
def Hart.activeBelow (h : Hart) (m : MReg) (i : Nat) : Nat := ((List.range i).filter fun k => h.active m k).length

/-- R212: VEXPAND: the j-th active position receives element j. -/
def execVexpand (vd va : VReg) (m : MReg) (ca z : Bool) (s : State) : Out :=
  let h := s.hart
  .next (s.crossLane (.vexpand vd va m ca z) (h.permSource va) vd (h.packedTag va) m z keepNone fun i => h.elem va (h.activeBelow m i))

/-- The N type of the current width (R212). -/
def Hart.iotaType (h : Hart) : Nat :=
  match h.vec.ew.toNat with
  | 1 => 9
  | 2 => 18
  | 3 => 19
  | _ => 17

/-- R212: VIOTA; a width of 4 bits raises ILLEGAL_OPERAND. It has no va, and its chain bit ca may hold either value, since R136 assembles an omitted chain
bit as 1 (DEDUCED, log entry 64). -/
def execViota (vd : VReg) (m : MReg) (ca z : Bool) (s : State) : Out :=
  let h := s.hart
  .next (s.crossLane (.viota vd m ca z) (h.vec.ew != 0) vd (mkTag h.iotaType false) m z keepNone fun i => h.activeBelow m i)

/-! ### Scalar moves (R213) -/

/-- R213: VBCAST, elementwise; the tag of vd is unchanged. Its bit sw is reserved and 0 (Table 4.1). -/
def execVbcast (vd : VReg) (xs : XReg) (sw : Bool) (m : MReg) (z : Bool) (s : State) : Out :=
  let h := s.hart
  let tag := h.tagOf vd
  .next (s.vectorOp (.vbcast vd xs sw m z) (h.permSource vd) fun s =>
    s.elementwise (.vbcast vd xs sw m z) vd tag m z .rne false fun _ _ _ => ⟨(s.rx xs).toNat % 2 ^ tagBits tag, 0⟩)

/-- The value of a code in a scalar register: sign-extended for I types, else zero-extended (R213, R144). -/
def moveOut (t code : Nat) : Word := if [8, 10, 11, 12, 16].contains t then BitVec.ofInt 64 (intOf t code) else BitVec.ofNat 64 code

/-- R213: VMVX. Its bit sw is reserved and 0. -/
def execVmvx (xs : XReg) (va : VReg) (xi : XReg) (sw ca : Bool) (s : State) : Out :=
  .next (s.vectorOp (.vmvx xs va xi sw ca) (s.hart.permSource va) fun s =>
    let h := s.hart
    let k := (s.rx xi).toNat
    (s.onHart Hart.clearVstart).ret xs (if k < h.capacity (h.tagOf va) then moveOut (tagType (h.tagOf va)) (h.elem va k) else 0))

/-- R213: VXMV: only one element changes. Its bit sw is reserved and 0. -/
def execVxmv (vd : VReg) (xs xi : XReg) (sw : Bool) (s : State) : Out :=
  .next (s.vectorOp (.vxmv vd xs xi sw) (s.hart.permSource vd) fun s =>
    let k := (s.rx xi).toNat
    (s.onHart fun h =>
      let tag := h.tagOf vd
      (if k < h.capacity tag then h.wv vd (putBits (h.rv vd) (elemPos tag h.ebits k) (tagBits tag) (s.rx xs).toNat) else h).clearVstart).adv 4)

/-! ### VRNG (R68, R214) -/

/-- VRNG: every element below VL takes its counter value; masked-off ones merge or zero (DEDUCED, log entry 22). -/
def State.vrng (s : State) (i : Instr) (vd : VReg) (ty : Nat) (m : MReg) (z : Bool) (form : Word → Nat) : State :=
  let h := s.hart
  let tag := mkTag ty false
  s.vectorOp i (h.fits tag) fun s =>
    (s.onHart fun h => (h.putCodes vd tag (h.permuted vd tag m z keepNone fun k =>
      form (mix64 h.csr.rngkey h.csr.rngstream (h.csr.rngctr + BitVec.ofNat 64 k)))).bumpRngctr h.vl).adv 4

/-- R214: VRNG_N32. -/
def execVrngN32 (vd : VReg) (m : MReg) (z : Bool) (s : State) : Out := .next (s.vrng (.vrngN32 vd m z) vd 19 m z fun w => w.toNat % 2 ^ 32)

/-- R214: VRNG_N64. -/
def execVrngN64 (vd : VReg) (m : MReg) (z : Bool) (s : State) : Out := .next (s.vrng (.vrngN64 vd m z) vd 17 m z fun w => w.toNat)

/-- R214: VRNG_F32: (w >> 40) × 2^-24, exact. -/
def execVrngF32 (vd : VReg) (m : MReg) (z : Bool) (s : State) : Out :=
  .next (s.vrng (.vrngF32 vd m z) vd 0 m z fun w => ((fpFormat 0).round .rne false false 0 (.fin false (w.toNat / 2 ^ 40) (-24) false)).code)

end Sys2Proof.Machine
end

