-- ==== Sys2Proof/Machine/VectorSf.lean ====
section
/-! DEFINITION. The special-function instructions (R242 to R251): VSF with its loaded micro-programs, and the step instructions. -/

namespace Sys2Proof.Machine

/-! ### Loaded images (R251, R428) -/

/-- The kind of an image. -/
def SfImage.sfKind (g : SfImage) : SfKind :=
  let κ := toNum 14 g.kappa.toNat
  match g.kind with
  | 1 => .exp κ g.b
  | 2 => .log g.b
  | 3 => .root g.b
  | 4 => .lin g.b (if g.abs then none else some (toNum 0 g.x0.toNat)) g.rows
  | _ => .trig κ g.b

/-- The function that a number names: built in, or an image of the core. -/
inductive SfSource where
  | builtin (fn : Nat)
  | image (g : SfImage)
  deriving DecidableEq, Repr

/-- The image installed in a slot of the hart's core. -/
def State.sfSlot (s : State) (fn : Nat) : Option SfImage := (s.myCore.slots.find? fun p => p.1 == fn).map (·.2)

/-- The function that fn names, none where VSF raises ILLEGAL_OPERAND (R128, R242). -/
def State.sfSource (s : State) (fn : Nat) : Option SfSource :=
  if fn ≤ 13 then some (.builtin fn) else if 32 ≤ fn then (s.sfSlot fn).map .image else none

/-- The reduction kind of a function. -/
def SfSource.kind : SfSource → SfKind
  | .builtin fn => Sys2Proof.Machine.sfKind fn
  | .image g => g.sfKind

/-- An entry of a function's table; +0 outside it (Table 7.8). -/
def SfSource.entry (src : SfSource) (row col : Nat) : Nat :=
  match src with
  | .builtin fn => (sfRow fn row).getD col 0
  | .image g => if row < g.rows ∧ col < 8 then (g.table.getD (8 * row + col) 0).toNat else 0

/-- What VSFRR writes for an input: f, the index word, in which the row has bits [10:3], and n; the canonical NaN, 0 and 0 for an input without a cell (R250). -/
def SfSource.reduced (src : SfSource) (x : Num) : Nat × Nat × Nat :=
  match src.kind.reduce x with
  | none => (0x7FC00000, 0, 0)
  | some d =>
    let n : Int := if d.n < -(2 ^ 30 : Nat) then -(2 ^ 30 : Nat) else if (2 ^ 30 : Nat) < d.n then (2 ^ 30 : Nat) else d.n
    (d.f, 8 * (d.r % 256), intCode 11 n)

/-- rne_f32(va·2^vb), with vb held where every result is past the ends of F32. -/
def sfScale (a b : Nat) : Res :=
  let n := intOf 11 b
  (fpFormat 0).round .rne false false 0 ((toNum 0 a).scale (if n < -1024 then -1024 else if 1024 < n then 1024 else n))

/-- rne_f32(d·a + b). -/
def sfMulAdd (d a b : Nat) : Nat := (fmaRes 0 .rne 0 (toNum 0 d) (toNum 0 a) (toNum 0 b)).code

/-- The sequencer's private operands for one element: eight codes with their types, and the bits of m1 to m3 (R428). -/
structure SfPriv where
  v : List Nat
  ty : List Nat
  m : List Bool
  flags : Flags
  deriving DecidableEq, Repr

/-- A private register. -/
def SfPriv.rv (p : SfPriv) (r : VReg) : Nat := p.v.getD r.val 0

/-- Its type. -/
def SfPriv.rt (p : SfPriv) (r : VReg) : Nat := p.ty.getD r.val 0

/-- The governing bit of a mask register. -/
def SfPriv.on (p : SfPriv) (m : MReg) : Bool := m == 0 || p.m.getD (m.val - 1) false

/-- Write a private register under a mask and z. -/
def SfPriv.wr (p : SfPriv) (r : VReg) (t : Nat) (m : MReg) (z : Bool) (v : Nat) : SfPriv :=
  { p with v := p.v.set r.val (if p.on m then v else if z then 0 else p.rv r), ty := p.ty.set r.val t }

/-- One step word of an image (R428). A step's function number below 32 names a built-in function, any other the image itself (DEDUCED, log entry 19). -/
def SfPriv.step (g : SfImage) (p : SfPriv) (i : Instr) : SfPriv :=
  let src (fn : BitVec 6) : SfSource := if fn.toNat ≤ 13 then .builtin fn.toNat else .image g
  match i with
  | .vsfrr vd va fn m _ z =>
    let (f, idx, n) := (src fn).reduced (toNum 0 (p.rv va))
    ((p.wr vd 0 m z f).wr (vd + 1) 19 m z idx).wr (vd + 2) 11 m z n
  | .vsftab vd va fn m _ z => p.wr vd 0 m z ((src fn).entry (p.rv va / 8 % 256) (p.rv va % 8))
  | .vsfpoly vd va vb m _ _ z => p.wr vd 0 m z (sfMulAdd (p.rv vd) (p.rv va) (p.rv vb))
  | .vsfscl vd va vb m _ _ z =>
    let r := sfScale (p.rv va) (p.rv vb)
    { p.wr vd 0 m z r.code with flags := p.flags ||| flagIf (p.on m) 0x1FF &&& r.flags }
  | .vaddi vd va imm m _ z => p.wr vd (p.rt va) m z ((p.rv va + (imm.signExtend 32).toNat) % 2 ^ 32)
  | .vmerge vd va vb m _ _ => { p with v := p.v.set vd.val (if p.on m then p.rv va else p.rv vb), ty := p.ty.set vd.val (p.rt va) }
  | .vcmp md cond va vb m _ _ z =>
    let t := p.rt va
    let old := p.m.getD (md.val - 1) false
    { p with m := p.m.set (md.val - 1) (if p.on m then condNum cond.toNat (toNum t (p.rv va)) (toNum t (p.rv vb)) else !z && old) }
  | _ => p

/-- Run an image on an input value: the result value in v0, with the flags of its steps. R251 and R428 state what v0 holds at the start; v1 to v7 and m1 to m3 hold
free values there, of type F32 (DESIGN CHOICE, log entry 77). -/
def SfImage.run (g : SfImage) (x : Num) : Num × Flags :=
  let v0 := f32Round x
  let start : SfPriv := ⟨v0 :: (List.range 7).map (fun k => (Config.sfPrivate g.digest v0 (k + 1)).toNat), List.replicate 8 0, (List.range 3).map (fun k => Config.sfPredicate g.digest v0 (k + 1)), 0⟩
  let p := g.steps.foldl (fun p w => match decodeBytes (leBytes 4 w.toNat) with
    | .ok (i, _) => p.step g i
    | .error _ => p) start
  (toNum 0 (p.rv 0), p.flags)

/-- VSF on a code of a type (R242, R251). -/
def SfSource.apply (src : SfSource) (exact : Bool) (t code : Nat) : Res :=
  match src with
  | .builtin fn => sfBuiltin exact fn t code
  | .image g =>
    let (y, fl) := g.run (toNum t code)
    let r := (fpFormat t).round .rne false false 0 y
    ⟨r.code, r.flags ||| fl⟩

/-! ### Instructions -/

/-- F32, BF16 or F16. -/
def tySf (t : Nat) : Bool := [0, 1, 2].contains t

/-- R242: VSF. -/
def execVsf (vd va : VReg) (fn : BitVec 6) (m : MReg) (ca z : Bool) (s : State) : Out :=
  let h := s.hart
  let tag := h.tagOf va
  let i := Instr.vsf vd va fn m ca z
  .next (match s.sfSource fn.toNat with
    | none => s.vectorOp i false id
    | some src => s.vectorOp i (h.fits tag && tySf (tagType tag)) fun s =>
      s.elementwise i vd tag m z .rne false fun _ _ k => src.apply h.csr.exact (tagType tag) (h.elem va k))

/-- Write three results of one element each under one mask (Table 7.8). -/
def Hart.threeResults (h : Hart) (vd : VReg) (tag : Nat → BitVec 8) (m : MReg) (z : Bool) (f : Nat → Nat × Nat × Nat) : Hart :=
  let l := (List.range h.vl).map f
  let put (g : Hart) (r : VReg) (t : BitVec 8) (pick : Nat × Nat × Nat → Nat) : Hart :=
    g.putResults r t (h.slots r t m z fun k => ⟨pick (l.getD k (0, 0, 0)), 0⟩)
  (put (put (put h vd (tag 0) (·.1)) (vd + 1) (tag 19) (·.2.1)) (vd + 2) (tag 11) (·.2.2)).clearVstart

/-- R250: VSFRR; elements stay in their lanes, so the layout of the results follows R204 (DEDUCED, log entry 20). -/
def execVsfrr (vd va : VReg) (fn : BitVec 6) (m : MReg) (ca z : Bool) (s : State) : Out :=
  let h := s.hart
  let t := tagType (h.tagOf va)
  let i := Instr.vsfrr vd va fn m ca z
  .next (match s.sfSource fn.toNat with
    | none => s.vectorOp i false id
    | some src => s.vectorOp i (decide (vd.val ≤ 61) && tySf t && h.cvtLegal vd va 0) fun s =>
      (s.onHart fun h => h.threeResults vd (fun ty => mkTag ty (tagSpread (h.cvtTag va 0))) m z fun k => src.reduced (toNum t (h.elem va k))).adv 4)

/-- R250: VSFTAB. -/
def execVsftab (vd va : VReg) (fn : BitVec 6) (m : MReg) (ca z : Bool) (s : State) : Out :=
  let h := s.hart
  let tag := h.tagOf va
  let i := Instr.vsftab vd va fn m ca z
  .next (match s.sfSource fn.toNat with
    | none => s.vectorOp i false id
    | some src => s.vectorOp i (h.fits tag && tagType tag == 19) fun s =>
      s.elementwise i vd (mkTag 0 (tagSpread tag)) m z .rne false fun _ _ k => ⟨src.entry (h.elem va k / 8 % 256) (h.elem va k % 8), 0⟩)

/-- R250: VSFPOLY: rne_f32(vd × va + vb), no flags. -/
def execVsfpoly (vd va vb : VReg) (m : MReg) (ca cb z : Bool) (s : State) : Out :=
  let h := s.hart
  let tag := h.tagOf va
  let i := Instr.vsfpoly vd va vb m ca cb z
  .next (s.vectorOp i (h.fits tag && tagType tag == 0 && h.tagOf vb == tag && h.tagOf vd == tag) fun s =>
    s.elementwise i vd tag m z .rne false fun _ _ k => ⟨sfMulAdd (h.elem vd k) (h.elem va k) (h.elem vb k), 0⟩)

/-- R250: VSFSCL: rne_f32(va × 2^vb). -/
def execVsfscl (vd va vb : VReg) (m : MReg) (ca cb z : Bool) (s : State) : Out :=
  let h := s.hart
  let tag := h.tagOf va
  let i := Instr.vsfscl vd va vb m ca cb z
  .next (s.vectorOp i (h.fits tag && tagType tag == 0 && h.tagOf vb == mkTag 11 (tagSpread tag)) fun s =>
    s.elementwise i vd tag m z .rne false fun _ _ k => sfScale (h.elem va k) (h.elem vb k))

end Sys2Proof.Machine
end

