-- ==== Sys2Proof/Machine/VectorRow.lean ====
section
/-! DEFINITION. The row group (R75, R76, R215 to R219) and the soft maximum (R252 to R256). -/

namespace Sys2Proof.Machine

/-! ### Rows and blocks -/

/-- ROWLEN. -/
def Hart.rowlen (h : Hart) : Nat := h.csr.rowlen.toNat

/-- The number of whole rows (R215). -/
def Hart.rows (h : Hart) : Nat := h.vl / h.rowlen

/-- The row at which the instruction begins: rows before VSTART are finished (R76, R219). A VSTART inside a row counts as the start of that row, but for
sums (DEDUCED, log entry 71). -/
def Hart.firstRow (h : Hart) : Nat := h.vs / h.rowlen

/-- The conditions of R215 on rows whose results number one per row in a register of a tag. -/
def Hart.rowsLegal (h : Hart) (tag : BitVec 8) : Bool := decide (0 < h.rowlen) && decide (h.rows ≤ h.capacity tag)

/-- The accumulation format of a type (R75). -/
def accType (t : Nat) : Nat := if isInt t then (if isSigned t then 16 else 17) else if t = 14 then 14 else 0

/-- A value rounded RNE to an accumulation format; integers saturate and set SAT (R75). -/
def accRound (acc : Nat) (x : Num) : Res := deliver acc .rne false false 0 x

/-- One addition in an accumulation format: the flags of both operands go along. -/
def accAdd (acc : Nat) (a b : Res) : Res :=
  let (x, bad) := addNum false (toNum acc a.code) (toNum acc b.code)
  let r := accRound acc x
  ⟨r.code, r.flags ||| flagIf bad fNV ||| a.flags ||| b.flags⟩

/-- One level of the tree: pairs (2k, 2k+1). -/
def pairUp (acc : Nat) : List Res → List Res
  | a :: b :: t => accAdd acc a b :: pairUp acc t
  | l => l

/-- n levels of the tree. -/
def treeSum (acc : Nat) : Nat → List Res → Res
  | 0, l => l.headD ⟨0, 0⟩
  | n + 1, l => treeSum acc n (pairUp acc l)

/-- The sum of the block of 256 leaves that begins at an offset of a row of n elements; leaves beyond the row are +0. -/
def blockSum (acc : Nat) (leaf : Nat → Res) (n off : Nat) : Res :=
  treeSum acc 8 ((List.range 256).map fun k => if off + k < n then leaf (off + k) else ⟨0, 0⟩)

/-- Add blocks b0 to b1 - 1 of a row of n elements to a running sum, left to right (R75 step 4). -/
def blocksSum (acc : Nat) (leaf : Nat → Res) (n b0 b1 : Nat) (carry : Res) : Res :=
  (List.range (b1 - b0)).foldl (fun r b => accAdd acc r (blockSum acc leaf n (256 * (b0 + b)))) carry

/-- Add the blocks of a row of n elements from block b0 on to a running sum. -/
def rowSum (acc : Nat) (leaf : Nat → Res) (n b0 : Nat) (carry : Res) : Res := blocksSum acc leaf n b0 ((n + 255) / 256) carry

/-! ### VRSUM and VRSSQ -/

/-- A leaf: the element converted exactly, or its square rounded; +0 when inactive (R75 step 2, R216). -/
def Hart.leaf (h : Hart) (va : VReg) (m : MReg) (sq : Bool) (i : Nat) : Res :=
  let t := tagType (h.tagOf va)
  let acc := accType t
  if h.active m i then
    let x := toNum t (h.cvtSource va i)
    if sq then
      let (y, bad) := mulNum x x
      let r := accRound acc y
      ⟨r.code, r.flags ||| flagIf bad fNV⟩
    else accRound acc x
  else ⟨0, 0⟩

/-- The running sum of row q before its block b1, continued from RACC when VSTART lies behind the row's first block (R76). A VSTART inside a block counts as the
start of that block (DEDUCED, log entry 71). -/
def Hart.rowPart (h : Hart) (va : VReg) (m : MReg) (sq : Bool) (q b1 : Nat) : Res :=
  let acc := accType (tagType (h.tagOf va))
  let b0 := if q = h.firstRow then (h.vs - q * h.rowlen) / 256 else 0
  blocksSum acc (fun k => h.leaf va m sq (q * h.rowlen + k)) h.rowlen b0 b1 (if b0 = 0 then ⟨0, 0⟩ else ⟨h.csr.racc.toNat % 2 ^ tyBits acc, 0⟩)

/-- The sum of row q. -/
def Hart.rowResult (h : Hart) (va : VReg) (m : MReg) (sq : Bool) (q : Nat) : Res := h.rowPart va m sq q ((h.rowlen + 255) / 256)

/-- The types that VRSUM and VRSSQ accept (R216). -/
def tySum (t : Nat) : Bool := tyFA t || tyIN t || [12, 3, 4, 7, 5, 6].contains t

/-- The result tag of a sum. -/
def Hart.sumTag (h : Hart) (va : VReg) : BitVec 8 := mkTag (accType (tagType (h.tagOf va))) false

/-- The conditions of VRSUM and VRSSQ (R215, R216). -/
def Hart.sumLegal (h : Hart) (vd va : VReg) : Bool :=
  let tag := h.tagOf va
  let six := isSix (tagType tag)
  tySum (tagType tag) && !tagCrumb tag && h.fits tag && (!six || (h.sixPair va && vd != nextReg va)) && vd != va && h.rowsLegal (h.sumTag va)

/-- The effect of a sum of rows: one result per row, RACC at the last row's running sum (R75, R76). -/
def Hart.sumRows (h : Hart) (vd va : VReg) (m : MReg) (sq : Bool) : Hart :=
  let tag := h.sumTag va
  let l := (List.range h.rows).map fun q => if q < h.firstRow then ⟨h.elemAs vd tag q, 0⟩ else h.rowResult va m sq q
  let racc := if h.firstRow < h.rows then BitVec.ofNat 64 ((l.getLastD ⟨0, 0⟩).code) else h.csr.racc
  let g := (h.putResults vd tag l).clearVstart
  { g with csr := { g.csr with racc := racc } }

/-- R216: VRSUM. -/
def execVrsum (vd va : VReg) (m : MReg) (ca : Bool) (s : State) : Out :=
  .next (s.vectorOp (.vrsum vd va m ca) (s.hart.sumLegal vd va) fun s => (s.onHart fun h => h.sumRows vd va m false).adv 4)

/-- R216: VRSSQ. -/
def execVrssq (vd va : VReg) (m : MReg) (ca : Bool) (s : State) : Out :=
  .next (s.vectorOp (.vrssq vd va m ca) (s.hart.sumLegal vd va) fun s => (s.onHart fun h => h.sumRows vd va m true).adv 4)

/-! ### VRMAX and VRMIN -/

/-- The largest or smallest of a non-empty list of codes (R217). -/
def extreme (t : Nat) (max : Bool) (l : List Nat) : Nat :=
  match l with
  | [] => 0
  | c :: rest => rest.foldl (fun a b =>
      if isFloat t then minMaxCode t max a b
      else if (if max then decide (intOf t a < intOf t b) else decide (intOf t b < intOf t a)) then b else a) c

/-- The result of a row without an active element (R217). -/
def emptyExtreme (t : Nat) (max : Bool) : Nat :=
  if isFloat t then (fpFormat t).signBit max + (fpFormat t).infCode else intCode t (if max then intMin t else intMax t)

/-- The extreme of row q. -/
def Hart.rowExtreme (h : Hart) (va : VReg) (m : MReg) (max : Bool) (q : Nat) : Nat :=
  let t := tagType (h.tagOf va)
  let l := (((List.range h.rowlen).map (q * h.rowlen + ·)).filter fun i => h.active m i).map fun i => h.elem va i
  if l.any fun c => isFloat t && (toNum t c).isNan then (fpFormat t).nanCode else if l.isEmpty then emptyExtreme t max else extreme t max l

/-- The conditions of VRMAX and VRMIN. -/
def Hart.extremeLegal (h : Hart) (vd va : VReg) : Bool :=
  let t := tagType (h.tagOf va)
  (tyFA t || tyIN t) && h.fits (h.tagOf va) && vd != va && h.rowsLegal (h.packedTag va)

/-- The effect of a row extreme. -/
def Hart.extremeRows (h : Hart) (vd va : VReg) (m : MReg) (max : Bool) : Hart :=
  let tag := h.packedTag va
  h.putCodes vd tag ((List.range h.rows).map fun q => if q < h.firstRow then h.elemAs vd tag q else h.rowExtreme va m max q)

/-- R217: VRMAX. -/
def execVrmax (vd va : VReg) (m : MReg) (ca : Bool) (s : State) : Out :=
  .next (s.vectorOp (.vrmax vd va m ca) (s.hart.extremeLegal vd va) fun s => (s.onHart fun h => h.extremeRows vd va m true).adv 4)

/-- R217: VRMIN. -/
def execVrmin (vd va : VReg) (m : MReg) (ca : Bool) (s : State) : Out :=
  .next (s.vectorOp (.vrmin vd va m ca) (s.hart.extremeLegal vd va) fun s => (s.onHart fun h => h.extremeRows vd va m false).adv 4)

/-! ### Row results per element -/

/-- What a row instruction has decided for one row: the flags of its statistics, whether masked-off positions are zeroed whatever z holds, and
the result of each active element. -/
structure RowPlan where
  flags : Flags
  clear : Bool
  elem : RMode → Nat → Nat → Res

/-- The elements below VL of a row instruction's result (R218, R252): finished rows stay, positions outside the whole rows are zero. -/
def Hart.rowElems (h : Hart) (vd : VReg) (tag : BitVec 8) (m : MReg) (z : Bool) (mode : RMode) (rnd : Nat → Nat) (plan : Nat → RowPlan) : List Res :=
  ((List.range h.rows).flatMap fun q =>
    let old (i : Nat) : Res := ⟨h.elemAs vd tag i, 0⟩
    let l := (List.range h.rowlen).map (q * h.rowlen + ·)
    if q < h.firstRow then l.map old
    else
      let p := plan q
      l.zipIdx.map fun x =>
        let r := if h.active m x.1 then p.elem mode (rnd x.1) x.1 else if p.clear || z then ⟨0, 0⟩ else old x.1
        if x.2 = 0 then ⟨r.code, r.flags ||| p.flags⟩ else r) ++
  List.replicate (h.vl - h.rows * h.rowlen) ⟨0, 0⟩

/-- A row instruction that keeps va's tag and rounds its outputs by FRM. -/
def State.rowNorm (s : State) (i : Instr) (vd va : VReg) (m : MReg) (z : Bool) (ok : Nat → Bool) (plan : Hart → Nat → RowPlan) : State :=
  let tag := s.hart.tagOf va
  s.vectorOp i (ok (tagType tag) && s.hart.fits tag && s.hart.rowsLegal tag) fun s =>
    s.withSeed i s.frmMode true s.hart.vl fun d t =>
      (t.onHart fun h => (h.putResults vd tag (h.rowElems vd tag m z s.frmMode d.rnd16 (plan h))).clearVstart).adv 4

/-! ### VRNORM (R218) -/

/-- 1/√v to 100 bits or more, with the flags of the root and of the quotient. -/
def rsqrtNum (a : Num) : Num × Flags :=
  match a with
  | .fin false (m + 1) e _ =>
    let odd := (e % 2).toNat
    let m' := (m + 1) * 2 ^ odd
    let p := 110 + Nat.log2 m'
    let q := 2 ^ (2 * p) / m'
    let r := isqrt (Nat.log2 q / 2 + 1) q 0
    (.fin false r (-(p : Int) - (e - odd) / 2) (r * r * m' != 2 ^ (2 * p)), 0)
  | _ =>
    let (r, f1) := sqrtNum a
    let (q, f2) := divNum (.fin false 1 0 false) r
    (q, f1 ||| f2)

/-- A value divided by a count, rounded RNE to an accumulation format. -/
def accMean (acc : Nat) (s : Res) (n : Nat) : Res :=
  let (x, fl) := divNum (toNum acc s.code) (Num.ofInt n)
  let r := accRound acc x
  ⟨r.code, r.flags ||| fl ||| s.flags⟩

/-- The plan of a row of VRNORM. -/
def Hart.normPlan (h : Hart) (va : VReg) (m : MReg) (layer : Bool) (eps : Word) (q : Nat) : RowPlan :=
  let t := tagType (h.tagOf va)
  let acc := accType t
  let x (i : Nat) : Num := toNum t (h.elem va i)
  let base := q * h.rowlen
  let n := ((List.range h.rowlen).filter fun k => h.active m (base + k)).length
  if n = 0 then ⟨0, false, fun _ _ _ => ⟨0, 0⟩⟩
  else
    let leafOf (f : Nat → Res) (k : Nat) : Res := if h.active m (base + k) then f (base + k) else ⟨0, 0⟩
    let mu : Res := if layer then accMean acc (rowSum acc (leafOf fun i => accRound acc (x i)) h.rowlen 0 ⟨0, 0⟩) n else ⟨0, 0⟩
    let dev (rdn : Bool) (i : Nat) : Num × Flags :=
      if layer then
        let (d, bad) := addNum rdn (x i) (toNum acc mu.code).negate
        (d, flagIf bad fNV)
      else (x i, 0)
    let square (i : Nat) : Res :=
      let (d, f1) := dev false i
      let (y, bad) := mulNum d d
      let r := accRound acc y
      ⟨r.code, r.flags ||| f1 ||| flagIf bad fNV⟩
    let var := accMean acc (rowSum acc (leafOf square) h.rowlen 0 ⟨0, 0⟩) n
    let ve := accAdd acc var ⟨eps.toNat % 2 ^ tyBits acc, 0⟩
    let (y, f2) := rsqrtNum (toNum acc ve.code)
    let k := accRound acc y
    { flags := mu.flags ||| ve.flags ||| f2 ||| k.flags
      clear := false
      elem := fun mode rnd i =>
        let (d, f3) := dev (mode = .rdn) i
        let (y, bad) := mulNum d (toNum acc k.code)
        let r := (fpFormat t).round mode false false rnd y
        ⟨r.code, r.flags ||| f3 ||| flagIf bad fNV⟩ }

/-- R218: VRNORM_RMS; epsilon is in x31. -/
def execVrnormRms (vd va : VReg) (m : MReg) (ca z : Bool) (s : State) : Out :=
  .next (s.rowNorm (.vrnormRms vd va m ca z) vd va m z tyFA fun h => h.normPlan va m false (h.rx 31))

/-- R218: VRNORM_LAYER. -/
def execVrnormLayer (vd va : VReg) (m : MReg) (ca z : Bool) (s : State) : Out :=
  .next (s.rowNorm (.vrnormLayer vd va m ca z) vd va m z tyFA fun h => h.normPlan va m true (h.rx 31))

/-! ### Soft maximum (R252 to R256) -/

/-- A non-negative value in the wide format WF: a 24-bit significand and an exponent; a significand of 0 is +0 (R253). -/
structure Wf where
  m : Nat
  e : Int
  deriving DecidableEq, Repr

/-- Round a positive magnitude RNE to 24 significand bits. -/
def wfRound (m : Nat) (e : Int) : Wf :=
  if m = 0 then ⟨0, 0⟩
  else
    let k := Nat.log2 m - 23
    let r := if Nat.log2 m < 23 then m * 2 ^ (23 - Nat.log2 m) else (roundAt .rne 0 false m 0 false k).1
    let e' := if Nat.log2 m < 23 then e - ((23 - Nat.log2 m : Nat) : Int) else e + k
    if r = 2 ^ 24 then ⟨2 ^ 23, e' + 1⟩ else ⟨r, e'⟩

/-- A WF addition (R254); an addend below a quarter of the last place changes nothing. -/
def wfAdd (a b : Wf) : Wf :=
  if a.m = 0 then b
  else if b.m = 0 then a
  else
    let hi := if a.e < b.e then b else a
    let lo := if a.e < b.e then a else b
    if 64 < hi.e - lo.e then hi else wfRound (hi.m * 2 ^ (hi.e - lo.e).toNat + lo.m) lo.e

/-- One level of the WF tree. -/
def wfPairs : List Wf → List Wf
  | a :: b :: t => wfAdd a b :: wfPairs t
  | l => l

/-- n levels of the WF tree. -/
def wfTree : Nat → List Wf → Wf
  | 0, l => l.headD ⟨0, 0⟩
  | n + 1, l => wfTree n (wfPairs l)

/-- The row sum in the block order of R75. -/
def wfSum (leaf : Nat → Wf) (n : Nat) : Wf :=
  (List.range ((n + 255) / 256)).foldl (fun s b =>
    wfAdd s (wfTree 8 ((List.range 256).map fun k => if 256 * b + k < n then leaf (256 * b + k) else ⟨0, 0⟩))) ⟨0, 0⟩

/-- x compared with ±2^30. -/
def beyond30 (x : Num) : Bool := cmpNum x.abs (.fin false (2 ^ 30) 0 false) != .lt

/-- The exponential of an active element (R253). -/
def wfExp (x : Num) : Wf :=
  match (if beyond30 x then none else (sfKind 1).reduce x) with
  | none => ⟨0, 0⟩
  | some d => match sfPoly (sfRow 1 d.r) 3 0 d.f with
    | .fin _ m e _ => wfRound m (e + d.n)
    | _ => ⟨0, 0⟩

/-- The ratio of two WF values, its exponent held where every result is past the end of the destination. -/
def wfRatio (w s : Wf) : Num :=
  let d := w.e - s.e
  (divNum (.fin false w.m (if d < -512 then -512 else d) false) (.fin false s.m 0 false)).1

/-- The plan of a row of VSOFTMAX: the first case of R255 that applies. -/
def Hart.softPlan (h : Hart) (va : VReg) (m : MReg) (q : Nat) : RowPlan :=
  let t := tagType (h.tagOf va)
  let x (i : Nat) : Num := toNum t (h.elem va i)
  let base := q * h.rowlen
  let act := ((List.range h.rowlen).map (base + ·)).filter fun i => h.active m i
  let beyond (i : Nat) : Bool := !(x i).neg? && beyond30 (x i)
  let ovr := flagIf (act.any fun i => beyond30 (x i) && x i != .inf true && !(x i).isNan) fOVR
  if act.any fun i => (x i).isNan then ⟨fNV ||| ovr, false, fun _ _ _ => ⟨(fpFormat t).nanCode, 0⟩⟩
  else if act.isEmpty then ⟨fEMPTY, true, fun _ _ _ => ⟨0, 0⟩⟩
  else
    let k := (act.filter beyond).length
    if 0 < k then
      ⟨ovr, false, fun _ _ i => if beyond i then (fpFormat t).round .rne false false 0 (divNum (.fin false 1 0 false) (Num.ofInt k)).1 else ⟨0, 0⟩⟩
    else
      let w (i : Nat) : Wf := if h.active m i then wfExp (x i) else ⟨0, 0⟩
      let s := wfSum (fun j => w (base + j)) h.rowlen
      if s.m = 0 then ⟨fEMPTY ||| ovr, false, fun _ _ _ => ⟨0, 0⟩⟩
      else ⟨ovr, false, fun mode rnd i => (fpFormat t).round mode false false rnd (wfRatio (w i) s)⟩

/-- R252: VSOFTMAX. -/
def execVsoftmax (vd va : VReg) (m : MReg) (ca z : Bool) (s : State) : Out :=
  .next (s.rowNorm (.vsoftmax vd va m ca z) vd va m z tySf fun h => h.softPlan va m)

end Sys2Proof.Machine
end

