-- ==== Sys2Proof/Machine/VectorMem.lean ====
section
/-! DEFINITION. Vector memory instructions: the pre-probe and its outcomes (R88 to R94), loads and stores (R257 to R262) and VAMO (R263, R264). -/

namespace Sys2Proof.Machine

/-! ### The pre-probe (R91) -/

/-- Probe elements in ascending order: the places of those below the first that fails, and that one with its cause. -/
def State.probeElems (s : State) (addr : Nat → Word) (size : Nat) (k : AKind) : List Nat → List (Nat × Place) × Option (Nat × Cause)
  | [] => ([], none)
  | i :: t => match s.probe (addr i) size size k with
    | .error c => ([], some (i, c))
    | .ok p =>
      let r := State.probeElems s addr size k t
      ((i, p) :: r.1, r.2)

/-- What becomes of a vector memory instruction (R89, Table 3.3). -/
inductive Fate where
  | all
  | trimmed (k : Nat)
  | trapped (k : Nat) (c : Cause)
  deriving DecidableEq, Repr

/-- Window and alignment failures trim (R89). -/
def Cause.trims : Cause → Bool
  | .misaligned _ => true
  | .windowRange _ => true
  | _ => false

/-- The fate under the first failing element; `begun` says that an active element lies below it. -/
def fateOf (begun ff : Bool) : Option (Nat × Cause) → Fate
  | none => .all
  | some (k, c) => if begun && (ff || c.trims) then .trimmed k else .trapped k c

/-- VSTART and VL afterwards (R89, Table 3.3). -/
def Hart.finishMem (h : Hart) : Fate → Hart
  | .all => h.clearVstart
  | .trimmed k => { h with csr := { h.csr with vl := BitVec.ofNat 64 k, vstart := 0x8000000000000000 } }
  | .trapped k _ => { h with csr := { h.csr with vstart := (h.csr.vstart &&& 0x8000000000000000) ||| BitVec.ofNat 64 (k % 2 ^ 32) } }

/-- The end of a vector memory instruction of n bytes: it completes, or traps at its failing element. -/
def State.finishMem (s : State) (i : Instr) (n : Nat) (addr : Nat → Word) (f : Fate) : State :=
  let t := s.onHart fun h => h.finishMem f
  match f with
  | .trapped k c => t.raise i c (addr k) k
  | _ => t.adv n

/-- The active elements (R90). -/
def Hart.actives (h : Hart) (m : MReg) : List Nat := (List.range h.vl).filter fun i => decide (h.vs ≤ i) && h.active m i

/-- Remember the translations of the elements probed (R389), when caching is on. -/
def State.cacheElems (s : State) (addr : Nat → Word) (l : List (Nat × Place)) : State :=
  if s.caching then l.foldl (fun t p => t.cachePage (addr p.1)) s else s

/-- An instruction of which an element fails comes after every earlier access of the hart (DESIGN CHOICE, log entry 7). -/
def State.failWaits (s : State) (r : List (Nat × Place) × Option (Nat × Cause)) : Bool := s.relaxed && r.2.isSome && s.unperformed

/-- A vector memory instruction: the pre-probe, the gates of the places it reaches, its commit below the failing element, and its end. One that writes whole lines passes their
poison; `put` is the number of bytes that an element writes, 0 where it reads or writes less than a byte (R449). -/
def State.vectorMem (s : State) (i : Instr) (n : Nat) (act : List Nat) (addr : Nat → Word) (size : Nat) (k : AKind) (ff : Bool) (put : Nat)
    (commit : State → List (Nat × Place) → Fate → State) : State :=
  let r := s.probeElems addr size k act
  let f := fateOf (!r.1.isEmpty) ff r.2
  if s.failWaits r then s.waits i
  else if r.1.isEmpty && r.2.isSome then s.finishMem i n addr f
  else s.passGates i (r.1.map (·.2)) (fun t => (commit (t.cacheElems addr r.1) r.1 f).finishMem i n addr f) (fullLines (r.1.map fun p => (p.2.loc, put)))

/-- The element group in which element i of a register under a tag lies (R18): two beats of 32 bytes to each octet. -/
def elemGroup (tag : BitVec 8) (e i : Nat) : Nat := 2 * (elemPos tag e i / 4096) + elemPos tag e i % 512 / 256

/-- The octet side of element i of a register as tagged (R100). -/
def Hart.sideOf (h : Hart) (tag : BitVec 8) (i : Nat) : Nat := elemPos tag h.ebits i / 4096 + 1

/-! ### Element accesses in the octets' queues (R100, R107, DESIGN CHOICE, log entry 7) -/

/-- What the current hart keeps of an instruction with outstanding work. -/
def State.keep (s : State) (i : Instr) (a b c d : Word) : Kept :=
  { Kept.zero with order := s.nextOrder, pc := s.hart.pc, insn := BitVec.ofNat 64 (insnWord i), a := a, b := b, c := c, d := d }

/-- Put the element accesses of a vector instruction into the octets' queues, in index order; `kind` is that of its entry of an in-flight record (Table 14.4). -/
def State.queueGroup (s : State) (kind : Nat) (scope : BitVec 3) (tag : BitVec 24) (kept : Kept) (l : List (Nat × Access)) : State :=
  { s with
    accesses := s.accesses ++ l.map fun e => { e.2 with elem := some (s.nextOrder, e.1) }
    vgroups := s.vgroups ++ [⟨s.nextOrder, s.hart.id, kind, scope, tag, s.hart.vl, kept⟩]
    nextOrder := s.nextOrder + 1 }

/-! ### Loads (R259) -/

/-- A list of values by index, filled up by a function, n long from i on. -/
def fillFrom (old : Nat → Nat) (i : Nat) : Nat → List (Nat × Nat) → List Nat
  | 0, _ => []
  | n + 1, [] => old i :: fillFrom old (i + 1) n []
  | n + 1, (k, c) :: t => if k = i then c :: fillFrom old (i + 1) n t else old i :: fillFrom old (i + 1) n ((k, c) :: t)

/-- An element that is not loaded: kept below VSTART and where masked off without z, else zero. -/
def Hart.unloaded (h : Hart) (v : VReg) (tag : BitVec 8) (z : Bool) (i : Nat) : Nat := if z && decide (h.vs ≤ i) then 0 else h.elemAs v tag i

/-- The bits of a register after the elements below k have been loaded: what lies from k on stays (R92). -/
def Hart.loadedBelow (h : Hart) (v : VReg) (tag : BitVec 8) (z : Bool) (l : List (Nat × Nat)) (k : Nat) : VBits :=
  let p := elemPos tag h.ebits k
  BitVec.ofNat 32768 ((h.rv v).toNat / 2 ^ p * 2 ^ p + packFrom tag h.ebits 0 (fillFrom (h.unloaded v tag z) 0 k l))

/-- Write loaded elements: the whole register with a zero tail, or only what lies below the failing element (R90, R92). A load that traps leaves the tag: a register
that is also its index still holds indices when it starts again (DEDUCED, log entry 78). -/
def Hart.putLoaded (h : Hart) (v : VReg) (tag : BitVec 8) (z : Bool) (l : List (Nat × Nat)) : Fate → Hart
  | .all => h.setVec v tag (packElems tag h.ebits (fillFrom (h.unloaded v tag z) 0 h.vl l))
  | .trimmed k => h.setVec v tag (h.loadedBelow v tag z l k)
  | .trapped k _ => h.wv v (h.loadedBelow v tag z l k)

/-- The element that a load reads at a place: t bytes, or one nibble of a byte (R258); the register window reads zero (DEDUCED, log entry 50). -/
def State.loadElem (s : State) (tag : BitVec 8) (i : Nat) (p : Place) : Nat :=
  if p.reg.isSome then 0
  else if tagBits tag = 4 then s.loadNum p.loc 1 / 2 ^ (4 * (i % 2)) % 16 else s.loadNum p.loc (tagBits tag / 8)

/-- Bytes of an element's access. -/
def elemSize (tag : BitVec 8) : Nat := if tagBits tag = 4 then 1 else tagBits tag / 8

/-- The access of an element's load. -/
def State.elemLoad (s : State) (v : VReg) (tag : BitVec 8) (i loc : Nat) (va : Word) : Access :=
  { s.newAccess (s.hart.sideOf tag i) loc va (.vload v (elemPos tag s.hart.ebits i) (elemSize tag) (if tagBits tag = 4 then some (i % 2 == 1) else none)) with
    group := elemGroup tag s.hart.ebits i }

/-- The effect of a load on its register: every element is read, or, under the relaxed policy, an element that is read later keeps its value until it binds;
an acquire names its scope. -/
def State.putLoads (s : State) (v : VReg) (tag : BitVec 8) (z : Bool) (kept : Kept) (acquire : Option (BitVec 3)) (addr : Nat → Word) (l : List (Nat × Place))
    (fate : Fate) : State :=
  let later := l.filter fun p => p.2.reg.isNone
  if s.relaxed && fate == .all && !later.isEmpty then
    (s.queueGroup 1 (acquire.getD 0) 0 kept (later.map fun p => (p.1, { s.elemLoad v tag p.1 p.2.loc (addr p.1) with acquire := acquire.isSome, scope := acquire.getD 0 }))).onHart
      fun h => h.putLoaded v tag z (l.map fun p => (p.1, if p.2.reg.isSome then 0 else h.elemAs v tag p.1)) .all
  else
    let codes := l.map fun p => (p.1, s.loadElem tag p.1 p.2)
    s.onHart fun h => h.putLoaded v tag z codes fate

/-- A load or store in either mode (R24), with its operand conditions (Table 8.2, R146). -/
def State.memoryOp (s : State) (i : Instr) (ok : Bool) (f : State → State) : State := if s.isSup || !ok then s.illegalOperand i else f s

/-- A load of a register under a type code. -/
def State.vload (s : State) (i : Instr) (n : Nat) (v : VReg) (ty : Nat) (z : Bool) (m : MReg) (ff nibbles ok : Bool) (kept : Kept) (addr : Nat → Word) : State :=
  let tag := mkTag ty false
  s.memoryOp i (ok && decide (ty < 20) && (nibbles || tagBits tag != 4) && s.hart.fits tag) fun s =>
    s.vectorMem i n (s.hart.actives m) addr (elemSize tag) .read ff 0 fun t l fate => t.putLoads v tag z { kept with mask := s.hart.rm m } none addr l fate

/-- xb + i·t; a 4-bit element lies in byte floor(i/2) (R257, R258). -/
def State.unitAddr (s : State) (xb : XReg) (tag : BitVec 8) (i : Nat) : Word := s.rx xb + BitVec.ofNat 64 (i * tagBits tag / 8)

/-- xb + i × xs (R257). -/
def State.strideAddr (s : State) (xb xs : XReg) (i : Nat) : Word := s.rx xb + BitVec.ofNat 64 i * s.rx xs

/-- xb + off(i): the offset is an N32, N64 or I64 element of vi, modulo 2^64 (R257). -/
def State.indexAddr (s : State) (xb : XReg) (vi : VReg) (i : Nat) : Word := s.rx xb + BitVec.ofNat 64 (s.hart.elem vi i)

/-- An index register (R257): N32, N64 or I64, packed, with VL within its capacity. -/
def Hart.indexOk (h : Hart) (vi : VReg) : Bool := [0x13, 0x11, 0x10].contains (h.tagOf vi).toNat && h.fits (h.tagOf vi)

/-- R257, R259: VLD. -/
def execVld (v : VReg) (xb : XReg) (ty : BitVec 5) (z : Bool) (m : MReg) (s : State) : Out :=
  let i := Instr.vld v xb ty z m
  .next (s.vload i 4 v ty.toNat z m false true true (s.keep i (s.rx xb) 0 0 0) (s.unitAddr xb (mkTag ty.toNat false)))

/-- R257, Table 3.3: VLDFF, the first-fault form. -/
def execVldff (v : VReg) (xb : XReg) (ty : BitVec 5) (z : Bool) (m : MReg) (s : State) : Out :=
  let i := Instr.vldff v xb ty z m
  .next (s.vload i 4 v ty.toNat z m true true true (s.keep i (s.rx xb) 0 0 0) (s.unitAddr xb (mkTag ty.toNat false)))

/-- The address of a byte of the core's own VSP (R86). -/
def localVsp (off : Nat) : Word := 0xFF80000000000000 + BitVec.ofNat 64 off

/-- The handle that a register names: bits [63:5] are zero (R278). -/
def State.handleOf (s : State) (x : Word) : Option Handle := if x.toNat < 32 then some (s.hart.handles.get (Fin.ofNat 32 x.toNat)) else none

/-- The conditions of VLDM on its handle (R278). -/
def Handle.loadable (h : Handle) (m : MReg) (bits vl : Nat) : Bool :=
  (h.state == .full || (h.state == .filling && m != 0)) && decide (vl * bits ≤ 8 * h.size)

/-- R278: VLDM: element i is active when its chunk's bit is set; the buffer lies in the core's VSP, and its chunks are acquired at CORE scope
(R103, DEDUCED, log entry 37). -/
def execVldm (v : VReg) (xb : XReg) (ty : BitVec 5) (z : Bool) (m : MReg) (s : State) : Out :=
  let i := Instr.vldm v xb ty z m
  let tag := mkTag ty.toNat false
  let bits := tagBits tag
  let hd := (s.handleOf (s.rx xb)).getD ⟨0, 0, .free⟩
  .next (s.memoryOp i (decide (ty.toNat < 20) && s.hart.fits tag && (s.handleOf (s.rx xb)).isSome && hd.loadable m bits s.hart.vl) fun s =>
    let act := (List.range s.hart.vl).filter fun k => decide (s.hart.vs ≤ k) && s.hart.active m (k * bits / 4096)
    let place (k : Nat) : Place :=
      { loc := locVsp (dieOf s.hart.id) (coreOf s.hart.id) (hd.base + k * bits / 8), reg := none, uncacheable := true, pkg := none, home := none }
    let kept := { s.keep i (s.rx xb) 0 0 0 with mask := s.hart.rm m }
    ((s.putLoads v tag z kept (some 1) (fun k => localVsp (hd.base + k * bits / 8)) (act.map fun k => (k, place k)) .all).onHart Hart.clearVstart).adv 4)

/-- R257: VLDS. -/
def execVlds (v : VReg) (xb xs : XReg) (ty : BitVec 5) (m : MReg) (ff z : Bool) (qos : BitVec 2) (s : State) : Out :=
  let i := Instr.vlds v xb xs ty m ff z qos
  .next (s.vload i 8 v ty.toNat z m ff false true (s.keep i (s.rx xb) (s.rx xs) 0 0) (s.strideAddr xb xs))

/-- R257: VLDX. -/
def execVldx (v : VReg) (xb : XReg) (vi : VReg) (ty : BitVec 5) (m : MReg) (ca ff z : Bool) (qos : BitVec 2) (s : State) : Out :=
  let i := Instr.vldx v xb vi ty m ca ff z qos
  .next (s.vload i 8 v ty.toNat z m ff false (s.hart.indexOk vi) { s.keep i (s.rx xb) 0 0 0 with vi := s.hart.rv vi, viTag := s.hart.tagOf vi } (s.indexAddr xb vi))

/-! ### Stores (R260) -/

/-- One element of a vector store. -/
structure ElemStore where
  elem : Nat
  side : Nat
  group : Nat
  loc : Nat
  va : Word
  op : AccessOp
  deriving DecidableEq, Repr

/-- The lines that element stores write wholly. -/
def fullStores (l : List ElemStore) : List Nat := fullLines (l.map fun e => (e.loc, match e.op with | .store b => b.length | _ => 0))

/-- Element stores in index order: performed at once, or queued under the relaxed policy. -/
def State.storeElems (s : State) (kept : Kept) (l : List ElemStore) : State :=
  if s.relaxed && !l.isEmpty then
    s.queueGroup 2 0 0 kept (l.map fun e => (e.elem, { s.newAccess e.side e.loc e.va e.op with group := e.group, full := (fullStores l).contains (e.loc / 64) }))
  else { s with mem := l.foldl (fun m e => e.op.apply m e.loc) s.mem }

/-- What an element's store does: t bytes, or one nibble of its byte (R260). -/
def elemOp (tag : BitVec 8) (i code : Nat) : AccessOp :=
  if tagBits tag = 4 then .nibble (i % 2 == 1) (BitVec.ofNat 4 code) else .store (leBytes (tagBits tag / 8) code)

/-- A store of a register under its tag; an element at the register window has no effect. -/
def State.vstore (s : State) (i : Instr) (n : Nat) (v : VReg) (m : MReg) (ff nibbles ok : Bool) (kept : Kept) (addr : Nat → Word) : State :=
  let tag := s.hart.tagOf v
  s.memoryOp i (ok && !tagCrumb tag && (nibbles || tagBits tag != 4) && s.hart.fits tag) fun s =>
    s.vectorMem i n (s.hart.actives m) addr (elemSize tag) .write ff (tagBits tag / 8) fun t l _ =>
      t.storeElems { kept with va := s.hart.rv v, vaTag := tag, mask := s.hart.rm m }
        ((l.filter fun p => p.2.reg.isNone).map fun p => ⟨p.1, t.hart.sideOf tag p.1, elemGroup tag t.hart.ebits p.1, p.2.loc, addr p.1, elemOp tag p.1 (t.hart.elem v p.1)⟩)

/-- R257, R260: VST. -/
def execVst (v : VReg) (xb : XReg) (m : MReg) (ca : Bool) (s : State) : Out :=
  let i := Instr.vst v xb m ca
  .next (s.vstore i 4 v m false true true (s.keep i (s.rx xb) 0 0 0) (s.unitAddr xb (s.hart.tagOf v)))

/-- R257, Table 3.3: VSTFF, the first-fault form. -/
def execVstff (v : VReg) (xb : XReg) (m : MReg) (ca : Bool) (s : State) : Out :=
  let i := Instr.vstff v xb m ca
  .next (s.vstore i 4 v m true true true (s.keep i (s.rx xb) 0 0 0) (s.unitAddr xb (s.hart.tagOf v)))

/-- R257: VSTS. -/
def execVsts (v : VReg) (xb xs : XReg) (m : MReg) (ca ff : Bool) (qos : BitVec 2) (s : State) : Out :=
  let i := Instr.vsts v xb xs m ca ff qos
  .next (s.vstore i 8 v m ff false true (s.keep i (s.rx xb) (s.rx xs) 0 0) (s.strideAddr xb xs))

/-- R257: VSTX. -/
def execVstx (v : VReg) (xb : XReg) (vi : VReg) (m : MReg) (ca ff : Bool) (qos : BitVec 2) (s : State) : Out :=
  let i := Instr.vstx v xb vi m ca ff qos
  .next (s.vstore i 8 v m ff false (s.hart.indexOk vi) { s.keep i (s.rx xb) 0 0 0 with vi := s.hart.rv vi, viTag := s.hart.tagOf vi }
    (s.indexAddr xb vi))

/-! ### VAMO (R263, R264) -/

/-- The read-modify-writes of the elements in index order: memory, the old values, the flags. -/
def vamoRun (op : VamoOp) (t : Nat) (mode : RMode) (rnd x : Nat → Nat) : List (Nat × Place) → List Host.Cell → List Host.Cell × List (Nat × Nat) × Flags
  | [], m => (m, [], 0)
  | (i, p) :: l, m =>
    let n := tyBits t / 8
    if p.reg.isSome then
      let r := vamoRun op t mode rnd x l m
      (r.1, (i, 0) :: r.2.1, r.2.2)
    else
      let old := Memory.num m p.loc n
      let y := vamoRes op t mode (rnd i) old (x i)
      let r := vamoRun op t mode rnd x l (Memory.put m p.loc (leBytes n y.code))
      (r.1, (i, old) :: r.2.1, y.flags ||| r.2.2)

/-- The types that VAMO accepts (R264). -/
def tyAmo (t : Nat) : Bool := [11, 19, 16, 17, 0, 14].contains t

/-- The conditions of a VAMO (R264). -/
def Hart.vamoLegal (h : Hart) (v vi : VReg) (t : Nat) : Bool := tyAmo t && h.tagOf v == mkTag t false && vi != v && h.indexOk vi && h.fits (h.tagOf v)

/-- The duplicate tables of the slices that elements act at have room for them (R371). -/
def State.slicesFull (s : State) (locs : List Nat) : Bool := locs.any fun a => s.tableFull (dupSlice a) (locs.filter fun b => dupSlice b == dupSlice a).length

/-- What a VAMO names. -/
structure VamoArgs where
  op : VamoOp
  v : VReg
  xb : XReg
  vi : VReg
  ty : Nat
  m : MReg
  z : Bool
  ord : BitVec 2
  scope : BitVec 3
  deriving DecidableEq, Repr

/-- The elements of a VAMO act, one tag each, in index order (R107, R370, R371). -/
def State.vamoNow (s : State) (o : VamoArgs) (d : Seed) (l : List (Nat × Place)) (fate : Fate) : State :=
  let w := vamoRun o.op o.ty s.frmMode d.rnd16 (s.hart.elem o.v) l s.mem
  let t := ({ s with mem := w.1 }.onHart fun h => h.putLoaded o.v (mkTag o.ty false) o.z w.2.1 fate).orFlags w.2.2
  (l.zip w.2.1).foldl (fun u p => if p.1.2.reg.isSome then u.takeTags 1 else u.tagged (dupSlice p.1.2.loc) (BitVec.ofNat 64 p.2.2)) t

/-- The elements of a VAMO are queued with the order that its ord names (R103): each binds its old value later. -/
def State.vamoLater (s : State) (i : Instr) (o : VamoArgs) (d : Seed) (l : List (Nat × Place)) : State :=
  let h := s.hart
  let tag := mkTag o.ty false
  let mode := s.frmMode
  let kept : Kept := { s.keep i (s.rx o.xb) 0 (BitVec.ofNat 64 h.vs) d.base with
    key := d.key, stream := d.stream, mode := BitVec.ofNat 3 mode.code, va := h.rv o.v, vaTag := h.tagOf o.v, vi := h.rv o.vi, viTag := h.tagOf o.vi, mask := h.rm o.m }
  let one (p : (Nat × Place) × Nat) : Nat × Access :=
    let k := p.1.1
    (k, { s.newAccess (h.sideOf tag k) p.1.2.loc (s.indexAddr o.xb o.vi k)
        (.vamo o.v (elemPos tag h.ebits k) (tyBits o.ty / 8) o.op.code o.ty (BitVec.ofNat 3 mode.code) (d.rnd16 k) (h.elem o.v k)) with
      release := ordRelease o.ord, acquire := ordAcquire o.ord, scope := o.scope, tag := h.tags.value + BitVec.ofNat 24 p.2, group := elemGroup tag h.ebits k })
  ((s.queueGroup 3 o.scope h.tags.value kept (((l.zipIdx).filter fun p => p.1.2.reg.isNone).map one)).onHart
    fun h => h.putLoaded o.v tag o.z (l.map fun p => (p.1, if p.2.reg.isSome then 0 else h.elem o.v p.1)) .all).takeTags l.length

/-- VAMO, with one tag per active element (R370): its elements act at once, or are queued under the relaxed policy (DESIGN CHOICE, log entry 7). It waits for its
tags and, where it acts at once, for room in its targets' duplicate tables (R371). One that traps at its first active element has drawn no seed, or has the one it
drew before (R65). -/
def State.vamo (s : State) (i : Instr) (o : VamoArgs) : State :=
  s.memoryOp i (s.hart.vamoLegal o.v o.vi o.ty) fun s =>
    let act := s.hart.actives o.m
    let addr := s.indexAddr o.xb o.vi
    let n := tyBits o.ty / 8
    let draws := isFloat o.ty && o.op == .add
    let r := s.probeElems addr n .write act
    let run (d : Seed) (s : State) : State := s.vectorMem i 8 act addr n .write false 0 fun u l fate =>
      if u.relaxed && fate == .all && l.any fun p => p.2.reg.isNone then u.vamoLater i o d l else u.vamoNow o d l fate
    if s.tagsFull act.length || s.failWaits r || ((!s.relaxed || r.2.isSome) && s.slicesFull ((r.1.filter fun p => p.2.reg.isNone).map fun p => p.2.loc)) then s.waits i
    else if r.1.isEmpty && r.2.isSome then run Seed.none s
    else s.passGates i (r.1.map (·.2)) fun s => s.withSeed i s.frmMode draws s.hart.vl fun d t => t.keepSeed t.frmMode draws d (run d t)

/-- R263: VAMO_ADD. -/
def execVamoAdd (v : VReg) (xb : XReg) (vi : VReg) (ty : BitVec 5) (m : MReg) (ca z : Bool) (qos ord : BitVec 2) (scope : BitVec 3) (s : State) : Out :=
  .next (s.vamo (.vamoAdd v xb vi ty m ca z qos ord scope) ⟨.add, v, xb, vi, ty.toNat, m, z, ord, scope⟩)

/-- R263: VAMO_MIN. -/
def execVamoMin (v : VReg) (xb : XReg) (vi : VReg) (ty : BitVec 5) (m : MReg) (ca z : Bool) (qos ord : BitVec 2) (scope : BitVec 3) (s : State) : Out :=
  .next (s.vamo (.vamoMin v xb vi ty m ca z qos ord scope) ⟨.min, v, xb, vi, ty.toNat, m, z, ord, scope⟩)

/-- R263: VAMO_MAX. -/
def execVamoMax (v : VReg) (xb : XReg) (vi : VReg) (ty : BitVec 5) (m : MReg) (ca z : Bool) (qos ord : BitVec 2) (scope : BitVec 3) (s : State) : Out :=
  .next (s.vamo (.vamoMax v xb vi ty m ca z qos ord scope) ⟨.max, v, xb, vi, ty.toNat, m, z, ord, scope⟩)

/-- R263: VAMO_SWAP. -/
def execVamoSwap (v : VReg) (xb : XReg) (vi : VReg) (ty : BitVec 5) (m : MReg) (ca z : Bool) (qos ord : BitVec 2) (scope : BitVec 3) (s : State) : Out :=
  .next (s.vamo (.vamoSwap v xb vi ty m ca z qos ord scope) ⟨.swap, v, xb, vi, ty.toNat, m, z, ord, scope⟩)

end Sys2Proof.Machine
end

