-- ==== Sys2Proof/Machine/Matrix.lean ====
section
/-! DEFINITION. The matrix array: products (R27 to R36, R78, R79, R220 to R232), the accumulator (R233 to R236), MDRAINST (R237, R238),
chaining (R38 to R43, R239, R240) and the tile moves (R241). -/

namespace Sys2Proof.Machine

/-! ### Operands -/

/-- The parameters of an operand type (Table 7.1): d, bits of an element or of its nibble plane, K0, cpc. -/
structure MatPar where
  d : Nat
  bits : Nat
  k0 : Nat
  cpc : Nat
  deriving DecidableEq, Repr

/-- Table 7.1 by type code. -/
def matPar (t : Nat) : MatPar :=
  match t with
  | 0 => ⟨1, 32, 128, 2⟩
  | 1 | 2 => ⟨4, 16, 256, 4⟩
  | 3 | 4 | 8 | 15 => ⟨8, 8, 512, 8⟩
  | _ => ⟨16, 4, 1024, 16⟩

/-- An operand code of ta or tb (R121). -/
def matType (t : Nat) : Bool := decide (t ≤ 8) || t == 12 || t == 15

/-- An integer operand type (R222). -/
def matInt (t : Nat) : Bool := t == 8 || t == 12

/-- A result code (R121). -/
def tresOk (t : Nat) : Bool := [0, 1, 2, 3, 4, 7, 8, 11].contains t

/-- The type combinations of a product (R30, R121, R222). -/
def productTypes (ta tb tacc : Nat) (scaled : Bool) : Bool :=
  matType ta && matType tb && (ta == 0) == (tb == 0) && (matPar ta).d == (matPar tb).d && matInt ta == matInt tb &&
  (tacc == 0 || (tacc == 11 && matInt ta)) &&
  if scaled then [3, 4, 5, 6, 7, 15].contains ta && [3, 4, 5, 6, 7, 15].contains tb else ta != 15 && tb != 15

/-- Bits n from a position of a register. -/
def bitsAt (x : VBits) (pos n : Nat) : Nat := x.toNat / 2 ^ pos % 2 ^ n

/-- The register n places after another. -/
def regPlus (v : VReg) (n : Nat) : VReg := Fin.ofNat 64 (v.val + n)

/-- An operand element at a bit position of a plane, with its crumb for a six-bit type (R32). -/
def matElem (t : Nat) (plane : VBits) (pos : Nat) (crumbs : VBits) (cpos : Nat) : Num :=
  toNum t (if isSix t then bitsAt plane pos 4 + 16 * bitsAt crumbs cpos 2 else bitsAt plane pos (matPar t).bits)

/-- A(m, k) in WS mode with G segments (R225). -/
def Hart.wsA (h : Hart) (ta : Nat) (va : VReg) (g m k : Nat) : Num :=
  matElem ta (h.rv va) (4096 * g * m + k * (matPar ta).bits) (h.rv (nextReg va)) (2048 * g * m + 2 * k)

/-- B(k, j) in WS mode with G segments (R225). -/
def Hart.wsB (h : Hart) (tb : Nat) (vb : VReg) (g j k : Nat) : Num :=
  let p := k * (matPar tb).bits
  matElem tb (h.rv (regPlus vb (p / 512))) (512 * j + p % 512) (h.rv (regPlus vb (8 * g + k / 256))) (512 * j + 2 * (k % 256))

/-- A(r, k) in RS mode (R229). -/
def Hart.rsA (h : Hart) (ta : Nat) (va : VReg) (r k : Nat) : Num :=
  let q := matPar ta
  matElem ta (h.rv va) (4096 * (k / q.cpc) + 64 * r + k % q.cpc * q.bits) (h.rv (nextReg va)) (2048 * (k / q.cpc) + 32 * r + 2 * (k % q.cpc))

/-- B(k, j) in RS mode (R229). -/
def Hart.rsB (h : Hart) (tb : Nat) (vb : VReg) (j k : Nat) : Num :=
  let q := matPar tb
  matElem tb (h.rv vb) (512 * j + 64 * (k / q.cpc) + k % q.cpc * q.bits) (h.rv (nextReg vb)) (512 * j + 32 * (k / q.cpc) + 2 * (k % q.cpc))

/-! ### The sum of one PE and of a column (R78, R79) -/

/-- What a PE has seen of its products so far. -/
structure PeAcc where
  sum : Num
  nan : Bool
  pinf : Bool
  ninf : Bool
  nv : Bool
  deriving DecidableEq, Repr

/-- Add one product (DEDUCED, log entry 24). -/
def PeAcc.add (p : PeAcc) (a b : Num) : PeAcc :=
  match mulNum a b with
  | (.nan, bad) => { p with nan := true, nv := p.nv || bad }
  | (.inf true, _) => { p with ninf := true }
  | (.inf false, _) => { p with pinf := true }
  | (x, _) => { p with sum := (addNum false p.sum x).1 }

/-- pe_sum with its flags (R78, R226): `sc` holds the scales of the block, for MMAX. -/
def peSum (sc : Option (Nat × Nat)) (prods : List (Num × Num)) : Num × Flags :=
  match prods with
  | [] => (Num.zero, 0)
  | _ =>
    let p := prods.foldl (fun (p : PeAcc) x => p.add x.1 x.2) ⟨Num.zero, false, false, false, false⟩
    let badScale := sc.any fun x => x.1 == 255 || x.2 == 255
    let both := p.pinf && p.ninf
    let fl := flagIf (p.nv || both) fNV ||| flagIf badScale fSN
    if p.nan || badScale || both then (.nan, fl)
    else if p.pinf then (.inf false, fl)
    else if p.ninf then (.inf true, fl)
    else if p.sum.isZero then (Num.zero, fl)
    else match sc with
      | some (x, y) => (p.sum.scale ((x : Int) + y - 254), fl)
      | none => (p.sum, fl)

/-- round_tacc(s + pe_sum) (R79): F32 overflows to an infinity under every mode; I32 saturates. -/
def accStep (tacc : Nat) (mode : RMode) (rnd : Nat) (s : Nat) (pe : Num × Flags) : Res :=
  let (x, bad) := addNum (mode = .rdn) (toNum tacc s) pe.1
  let r := if tacc = 0 then (fpFormat 0).round mode false true rnd x else deliver tacc mode false false rnd x
  ⟨r.code, r.flags ||| flagIf bad fNV ||| pe.2⟩

/-- The k of each step of a column: by segment, pass and PE row in WS mode (R224). -/
def wsSteps (ta g : Nat) : List (List Nat) :=
  let q := matPar ta
  (List.range g).flatMap fun seg =>
    (List.range (if ta = 0 then 2 else 1)).flatMap fun pass =>
      (List.range 64).map fun r => if ta = 0 then [seg * q.k0 + 2 * r + pass] else (List.range q.d).map fun u => seg * q.k0 + q.d * r + u

/-- The k of each step in RS mode with KS k-steps (R229). -/
def rsSteps (ta ks : Nat) : List (List Nat) :=
  let q := matPar ta
  (List.range ks).flatMap fun t => if ta = 0 then [[2 * t], [2 * t + 1]] else [(List.range q.d).map fun u => t * q.d + u]

/-- One C element: its column's steps over the live elements in order (R79, R224, R226); `rnd t` is the random value of step t. -/
def sweep (tacc : Nat) (mode : RMode) (rnd : Nat → Nat) (mklen : Nat) (a b : Nat → Num) (sc : Nat → Option (Nat × Nat)) (steps : List (List Nat))
    (c : Nat) : Res :=
  (steps.foldl (fun (p : Nat × Res) ks =>
    let live := ks.filter fun k => decide (k < mklen)
    let pe := peSum (sc (live.headD 0 / 32)) (live.map fun k => (a k, b k))
    let r := accStep tacc mode (rnd p.1) p.2.code pe
    (p.1 + 1, ⟨r.code, p.2.flags ||| r.flags⟩)) (0, ⟨c, 0⟩)).2

/-! ### Products -/

/-- What a product instruction names. -/
structure Product where
  ta : Nat
  tb : Nat
  tacc : Nat
  va : VReg
  vb : VReg
  /-- The scale registers of MMAX. -/
  scales : Option (VReg × VReg)
  rnd : BitVec 3
  deriving DecidableEq, Repr

/-- The tag of a matrix operand: packed, role 0 or 1. -/
def planeTag (t : Nat) (crumb : Bool) : BitVec 8 := if crumb then crumbTag (mkTag t false) else mkTag t false

/-- The va operand: the group fits and carries its tags. -/
def Hart.aOk (h : Hart) (ta : Nat) (va : VReg) : Bool :=
  h.tagOf va == planeTag ta false && (!isSix ta || (decide (va.val < 63) && h.tagOf (nextReg va) == planeTag ta true))

/-- Registers of the B group in WS mode with G segments (R39). -/
def bRegs (tb g : Nat) : Nat := 8 * g + if isSix tb then 4 * g else 0

/-- MMAX scale registers carry E8M0, in either layout. -/
def Hart.scaleOk (h : Hart) (v : VReg) (n : Nat) : Bool :=
  decide (v.val + n ≤ 64) && (List.range n).all fun i => tagType (h.tagOf (regPlus v i)) == 13

/-- Segments, the own array among them. -/
def Hart.segmentCount (h : Hart) : Nat := 1 + h.lenders.length

/-- Scale slots of a row or column in WS mode (R227). -/
def wsSlots (ta g : Nat) : Nat := (matPar ta).k0 * g / 32

/-- The registers that a WS product reads. -/
def Product.wsSources (p : Product) (g : Nat) : List Nat :=
  [p.va.val] ++ (if isSix p.ta then [p.va.val + 1] else []) ++ (List.range (bRegs p.tb g)).map (· + p.vb.val) ++
  match p.scales with
  | some (x, y) => x.val :: (List.range ((wsSlots p.ta g + 63) / 64)).map (· + y.val)
  | none => []

/-- The checks of a WS product (Table 7.2). -/
def Hart.wsLegal (h : Hart) (p : Product) (vc : VReg) : Bool :=
  let g := h.segmentCount
  let mrows := h.csr.mrows.toNat
  productTypes p.ta p.tb p.tacc p.scales.isSome && p.vb.val % 8 == 0 && decide (p.vb.val + bRegs p.tb g ≤ 64) && h.aOk p.ta p.va &&
  ((List.range (bRegs p.tb g)).all fun i => h.tagOf (regPlus p.vb i) == planeTag p.tb (decide (8 * g ≤ i))) &&
  tagType (h.tagOf vc) == p.tacc &&
  (match p.scales with
    | some (x, y) => h.scaleOk x 1 && h.scaleOk y ((wsSlots p.ta g + 63) / 64)
    | none => true) &&
  !((p.wsSources g).contains vc.val) && decide (1 ≤ mrows) && decide (mrows ≤ h.lanes / (8 * g)) && decide (h.csr.mklen.toNat ≤ (matPar p.ta).k0 * g)

/-- The scales of row m, column j and block b in WS mode (R227). -/
def Hart.wsScale (h : Hart) (p : Product) (g m j b : Nat) : Option (Nat × Nat) :=
  p.scales.map fun (x, y) =>
    (bitsAt (h.rv x) (8 * (wsSlots p.ta g * m + b)) 8, bitsAt (h.rv (regPlus y (b / 64))) (512 * j + 8 * (b % 64)) 8)

/-- Word n of 32 bits of a register. -/
def wordAt (x : VBits) (n : Nat) : Nat := bitsAt x (32 * n) 32

/-- A register image of words, with 16 words to each lane. -/
def packWords (l : List Nat) : VBits := BitVec.ofNat 32768 (l.foldr (fun c acc => c % 2 ^ 32 + 2 ^ 32 * acc) 0)

/-- The C words of a WS product by element 16j + row: computed, or unchanged where the instruction names no row (R224). -/
def Hart.wsWords (h : Hart) (p : Product) (vc : VReg) (half : Bool) (mode : RMode) (rnd : Nat → Nat) : List Res :=
  let g := h.segmentCount
  let steps := wsSteps p.ta g
  let k := h.csr.mklen.toNat
  (List.range (16 * h.lanes)).map fun e =>
    let j := e / 16
    let row := e % 16
    let c := wordAt (h.rv vc) e
    let m := row - if half then 8 else 0
    if (half && decide (row < 8)) || decide (h.csr.mrows.toNat ≤ m) then ⟨c, 0⟩
    else sweep p.tacc mode (fun t => rnd (e * 2 ^ 16 + t)) k (h.wsA p.ta p.va g m) (h.wsB p.tb p.vb g j) (h.wsScale p g m j) steps c

/-- The tag of a converted tile: packed for 4-byte results, else spread (R228). -/
def tileTag (t : Nat) : BitVec 8 := mkTag t (tyBits t != 32)

/-- A tile of 16 rows: row m of column j at lane j, position m (R228); element e = 16j + m of the list. -/
def packTile (t : Nat) (l : List Res) : VBits :=
  BitVec.ofNat 32768 ((l.zipIdx).foldl (fun acc p => acc + p.1.code % 2 ^ tyBits t * 2 ^ (512 * (p.2 / 16) + p.2 % 16 * tyBits t)) 0)

/-- OR flags into a hart's FFLAGS. -/
def Hart.orFlags (h : Hart) (f : Flags) : Hart := { h with csr := { h.csr with fflags := h.csr.fflags ||| f } }

/-- A WS product on its hart: the accumulation, then finish (R224, R228). -/
def Hart.wsProduct (h : Hart) (p : Product) (vc : VReg) (half : Bool) (fin : Option (Nat × Bool)) (mode : RMode) (rnd : Nat → Nat) : Hart :=
  let words := h.wsWords p vc half mode rnd
  match fin with
  | none => (h.wv vc (packWords (words.map (·.code)))).orFlags (unionFlags words)
  | some (tres, sat) =>
    let tile := (words.zipIdx).map fun w => convertRes p.tacc tres mode sat (rnd (w.2 * 2 ^ 16 + 65535)) w.1.code
    (h.setVec vc (tileTag tres) (packTile tres tile)).orFlags (unionFlags words ||| unionFlags tile)

/-- A matrix instruction: it raises ILLEGAL_OPERAND in vector mode (R220), at supervisor level (R146), or when a check fails (DEDUCED, log entry 27); it waits
while the core's array is lent, unless it is a store (R41). -/
def State.matrixOp (s : State) (i : Instr) (store ok : Bool) (f : State → State) : State :=
  if s.isSup || !s.hart.vec.matrix || !ok then s.illegalOperand i
  else if s.lent && !store then s.waits i
  else f s

/-- The B tile of a product is in place (R314): the same first register and number of segments, and no register of the group written since its load. -/
def Hart.tileInPlace (h : Hart) (vb : VReg) (g : Nat) : Bool := h.vec.tile.any fun t => t.vb == vb && t.g == g

/-- A product loads its B tile unless it is in place (R314). -/
def Hart.loadTile (h : Hart) (p : Product) : Hart :=
  if h.tileInPlace p.vb h.segmentCount then h
  else { h with vec := { h.vec with tile := some ⟨p.vb, bRegs p.tb h.segmentCount, h.segmentCount⟩ } }

/-- A product can round (R61): one accumulated in I32 is exact, or saturates, until its conversion to a result type that does not hold every I32 (R79, DEDUCED, log
entry 27). -/
def Product.rounds (p : Product) (fin : Option Nat) : Bool := p.tacc != 11 || fin.any (cvtDraws p.tacc)

/-- A weight-stationary product (R224, R232). -/
def State.wsProduct (s : State) (i : Instr) (p : Product) (vc : VReg) (half fin : Bool) (tres : Nat) (sat : Bool) : State :=
  let mode := s.modeOf p.rnd
  s.matrixOp i false (s.hart.wsLegal p vc && (!fin || tresOk tres)) fun s =>
    s.withSeed i mode (p.rounds (if fin then some tres else none)) (2 ^ 16 * (16 * s.hart.lanes)) fun d t =>
      (t.onHart fun h => (h.wsProduct p vc half (if fin then some (tres, sat) else none) mode d.rnd16).loadTile p).adv 8

/-! ### The RS accumulator -/

/-- ACCT's type code. -/
def Hart.acct (h : Hart) : Nat := if h.vec.accI32 then 11 else 0

/-- Word (r, j) of the accumulator. -/
def Hart.accWord (h : Hart) (r j : Nat) : Nat := h.vec.acc.toNat / 2 ^ (32 * (64 * j + r)) % 2 ^ 32

/-- The accumulator with the words of a list, word (r, j) at place 64j + r; columns at or beyond L stay zero. -/
def Hart.setAcc (h : Hart) (l : List Nat) : Hart :=
  { h with vec := { h.vec with acc := BitVec.ofNat 131072 (l.foldr (fun c acc => c % 2 ^ 32 + 2 ^ 32 * acc) 0) } }

/-- KS (R36). -/
def Hart.ksteps (h : Hart) : Nat := min 8 (h.lanes / 8)

/-- The checks of an RS product (Table 7.2). -/
def Hart.rsLegal (h : Hart) (p : Product) : Bool :=
  productTypes p.ta p.tb p.tacc p.scales.isSome && h.aOk p.ta p.va && h.aOk p.tb p.vb &&
  (match p.scales with
    | some (x, y) => h.scaleOk x 1 && h.scaleOk y 1
    | none => true) &&
  h.lenders.isEmpty && p.tacc == h.acct && decide (h.csr.mklen.toNat ≤ h.ksteps * (matPar p.ta).cpc)

/-- The scales of row r, column j and block b in RS mode (R230). -/
def Hart.rsScale (h : Hart) (p : Product) (r j b : Nat) : Option (Nat × Nat) :=
  let nbr := (h.ksteps * (matPar p.ta).cpc + 31) / 32
  p.scales.map fun (x, y) => (bitsAt (h.rv x) (8 * (nbr * r + b)) 8, bitsAt (h.rv y) (512 * j + 8 * b) 8)

/-- An RS product on its hart (R229). -/
def Hart.rsProduct (h : Hart) (p : Product) (mode : RMode) (rnd : Nat → Nat) : Hart :=
  let steps := rsSteps p.ta h.ksteps
  let words := (List.range (64 * h.lanes)).map fun e =>
    let j := e / 64
    let r := e % 64
    sweep p.tacc mode (fun t => rnd (e * 2 ^ 16 + t)) h.csr.mklen.toNat (h.rsA p.ta p.va r) (h.rsB p.tb p.vb j) (h.rsScale p r j) steps (h.accWord r j)
  (h.setAcc (words.map (·.code))).orFlags (unionFlags words)

/-- A result-stationary product (R229, R232). -/
def State.rsProduct (s : State) (i : Instr) (p : Product) : State :=
  let mode := s.modeOf p.rnd
  s.matrixOp i false (s.hart.rsLegal p) fun s =>
    s.withSeed i mode (p.rounds none) (2 ^ 16 * (64 * s.hart.lanes)) fun d t => (t.onHart fun h => h.rsProduct p mode d.rnd16).adv 8

/-- R223, R224: MMA, weight-stationary. -/
def execMma (vc va vb : VReg) (ta tb tacc tres : BitVec 4) (fin half ca cb : Bool) (rnd : BitVec 3) (sat : Bool) (s : State) : Out :=
  .next (s.wsProduct (.mma vc va vb ta tb tacc tres fin half ca cb rnd sat) ⟨ta.toNat, tb.toNat, tacc.toNat, va, vb, none, rnd⟩ vc half fin tres.toNat sat)

/-- R223, R229: MMA, result-stationary. -/
def execMmaRs (va vb : VReg) (ta tb tacc tres : BitVec 4) (ca cb : Bool) (rnd : BitVec 3) (sat : Bool) (s : State) : Out :=
  .next (s.rsProduct (.mmaRs va vb ta tb tacc tres ca cb rnd sat) ⟨ta.toNat, tb.toNat, tacc.toNat, va, vb, none, rnd⟩)

/-- R223, R224, R227: MMAX, weight-stationary, with block scales. -/
def execMmax (vc va vb vsa vsb : VReg) (ta tb tacc tres : BitVec 4) (fin half ca cb : Bool) (rnd : BitVec 3) (sat : Bool) (s : State) : Out :=
  .next (s.wsProduct (.mmax vc va vb vsa vsb ta tb tacc tres fin half ca cb rnd sat) ⟨ta.toNat, tb.toNat, tacc.toNat, va, vb, some (vsa, vsb), rnd⟩
    vc half fin tres.toNat sat)

/-- R223, R229, R230: MMAX, result-stationary, with block scales. -/
def execMmaxRs (va vb vsa vsb : VReg) (ta tb tacc tres : BitVec 4) (ca cb : Bool) (rnd : BitVec 3) (sat : Bool) (s : State) : Out :=
  .next (s.rsProduct (.mmaxRs va vb vsa vsb ta tb tacc tres ca cb rnd sat) ⟨ta.toNat, tb.toNat, tacc.toNat, va, vb, some (vsa, vsb), rnd⟩)

/-- MDRAIN's tile: rows 16q to 16q + 15, converted without saturation (R234). -/
def Hart.drainTile (h : Hart) (q tres : Nat) (mode : RMode) (rnd : Nat → Nat) : List Res :=
  (List.range (16 * h.lanes)).map fun e => convertRes h.acct tres mode false (rnd (e * 2 ^ 16)) (h.accWord (16 * q + e % 16) (e / 16))

/-- R234: MDRAIN. -/
def execMdrain (v : VReg) (xs : XReg) (tres : BitVec 4) (rnd : BitVec 3) (s : State) : Out :=
  let i := Instr.mdrain v xs tres rnd
  let t := tres.toNat
  let mode := s.modeOf rnd
  let q := (s.rx xs).toNat
  .next (s.matrixOp i false (tresOk t && decide (q < 4)) fun s =>
    s.withSeed i mode (cvtDraws s.hart.acct t) (2 ^ 16 * (16 * s.hart.lanes)) fun d u =>
      (u.onHart fun h =>
        let tile := h.drainTile q t mode d.rnd16
        (h.setVec v (tileTag t) (packTile t tile)).orFlags (unionFlags tile)).adv 8)

/-- R235: MPRELOAD: raw words of v into rows 16q to 16q + 15. -/
def execMpreload (v : VReg) (xs : XReg) (s : State) : Out :=
  let q := (s.rx xs).toNat
  .next (s.matrixOp (.mpreload v xs) false (decide (q < 4) && tagType (s.hart.tagOf v) == s.hart.acct) fun s =>
    (s.onHart fun h => h.setAcc ((List.range (64 * h.lanes)).map fun e =>
      if e % 64 / 16 = q then wordAt (h.rv v) (16 * (e / 64) + e % 16) else h.accWord (e % 64) (e / 64))).adv 8)

/-- R236: MZERO. -/
def execMzero (tres : BitVec 4) (s : State) : Out :=
  .next (s.matrixOp (.mzero tres) false (tres == 0 || tres == 11) fun s =>
    (s.onHart fun h => { h with vec := { h.vec with acc := 0, accI32 := tres == 11 } }).adv 8)

/-! ### MDRAINST (R237, R238) -/

/-- The address of element e = r·L + j (R237). -/
def State.drainAddr (s : State) (xb xstride : XReg) (vi : VReg) (ix : Bool) (t e : Nat) : Word :=
  let r := e / s.hart.lanes
  let j := e % s.hart.lanes
  s.rx xb + (if ix then BitVec.ofNat 64 (s.hart.elem vi r) else BitVec.ofNat 64 r * s.rx xstride) + BitVec.ofNat 64 (j * tyBits t / 8)

/-- The lane that holds element e of the stored accumulator, as a side (R100, R238). -/
def Hart.drainSide (h : Hart) (e : Nat) : Nat := e % h.lanes / 8 + 1

/-- R237, R238: MDRAINST, a vector store of the accumulator. -/
def execMdrainst (xb xstride : XReg) (vi : VReg) (ix : Bool) (m : MReg) (tres : BitVec 4) (rnd : BitVec 3) (sat : Bool) (qos : BitVec 2) (s : State) : Out :=
  let i := Instr.mdrainst xb xstride vi ix m tres rnd sat qos
  let t := tres.toNat
  let h := s.hart
  let mode := s.modeOf rnd
  let draws := cvtDraws h.acct t
  let addr := s.drainAddr xb xstride vi ix t
  let ok := tresOk t && t != 7 && decide (h.vl ≤ 64 * h.lanes) && (!ix || [0x13, 0x11, 0x10].contains (h.tagOf vi).toNat)
  let r := s.probeElems addr (tyBits t / 8) .write (h.actives m)
  let run (d : Seed) (s : State) : State :=
    s.vectorMem i 8 (h.actives m) addr (tyBits t / 8) .write false (tyBits t / 8) fun u l _ =>
      let w := l.map fun p => (p, convertRes h.acct t mode sat (d.rnd16 p.1) (h.accWord (p.1 / h.lanes) (p.1 % h.lanes)))
      let kept : Kept := { u.keep i (s.rx xb) (s.rx xstride) 0 d.base with
        key := d.key, stream := d.stream, mode := BitVec.ofNat 3 mode.code, vi := h.rv vi, viTag := h.tagOf vi, mask := h.rm m }
      (u.storeElems kept ((w.filter fun x => x.1.2.reg.isNone).map fun x =>
        ⟨x.1.1, h.drainSide x.1.1, 2 * (h.drainSide x.1.1 - 1), x.1.2.loc, addr x.1.1, .store (leBytes (tyBits t / 8) x.2.code)⟩)).orFlags (unionFlags (w.map (·.2)))
  .next (s.matrixOp i true ok fun s =>
    if s.failWaits r then s.waits i
    else if r.1.isEmpty && r.2.isSome then run Seed.none s
    else s.passGates i (r.1.map (·.2)) (fun s => s.withSeed i mode draws h.vl fun d t => t.keepSeed mode draws d (run d t))
      (fullLines (r.1.map fun p => (p.2.loc, tyBits t / 8))))

/-! ### Chaining (R38 to R43, R239, R240) -/

/-- The distance of two numbers. -/
def distance (a b : Nat) : Nat := (a - b) + (b - a)

/-- Core `c` of die `d` is a neighbour of core `k` of die `e` (R38): the same stop, one hop away, or facing across a ring link. -/
def neighbours (d c e k : Nat) : Bool :=
  (d == e && c != k && decide (distance (c / 3 % 4) (k / 3 % 4) + distance (c / 12) (k / 12) ≤ 1)) ||
  (decide (12 ≤ c) && decide (c ≤ 14) && e == (d + 7) % 8 && k == c + 9) ||
  (decide (21 ≤ c) && decide (c ≤ 23) && e == (d + 1) % 8 && k + 9 == c)

/-- A core lends (R40): its driver allows it, nobody borrows it, and none of its harts is in matrix mode or waits on MODE.M. -/
def State.lendable (s : State) (die core : Nat) : Bool :=
  let c := s.core die core
  s.coreUsable die core && c.lend && c.borrower.isNone &&
  !(s.harts.any fun h => h.bound && dieOf h.id == die && coreOf h.id == core && (h.vec.matrix || h.wait == some .modeM))

/-- The cores that can lend to the current hart's core, lowest first (DESIGN CHOICE, log entry 11). -/
def State.lendersFor (s : State) : List Nat :=
  (List.range 8).flatMap fun d => ((List.range 48).filter fun c => neighbours (dieOf s.hart.id) (coreOf s.hart.id) d c && s.lendable d c).map (coreKey d)

/-- R239: MATTACH requests segments and never waits for a lender. -/
def execMattach (seg : BitVec 2) (s : State) : Out :=
  .next (s.matrixOp (.mattach seg) false s.hart.lenders.isEmpty fun s =>
    let l := s.lendersFor.take (min seg.toNat (min 3 (s.hart.lanes / 8 - 1)))
    ((l.foldl (fun t k => { t with cores := Sparse.upd Core.zero t.cores k fun c => { c with borrower := some s.hart.id } }) s).onHart
      fun h => { h with lenders := l }).adv 8)

/-- R240: MDETACH. -/
def execMdetach (s : State) : Out :=
  .next (s.matrixOp .mdetach false true fun s => (if s.hart.lenders.isEmpty then s else s.releaseSegments s.hart.id).adv 8)

/-! ### Tile moves (R241) -/

/-- The conditions of a VTMOV. -/
def State.tileOk (s : State) (vd va : VReg) (p : Nat) : Bool :=
  let tag := s.hart.tagOf va
  !s.isSup && s.hart.tagOf vd == tag && tag == mkTag (tagType tag) false && decide (8 ≤ tagBits tag) && vd != va && decide (p < 512 / tagBits tag)

/-- Move the L elements of a tile row: element p·L + n of a register and position p of lane n. -/
def Hart.tileMove (h : Hart) (vd va : VReg) (p : Nat) (toRow : Bool) : Hart :=
  let b := tagBits (h.tagOf va)
  h.wv vd ((List.range h.lanes).foldl (fun x n =>
    let inRow := (p * h.lanes + n) * b
    let inLane := 512 * n + p * b
    if toRow then putBits x inRow b (bitsAt (h.rv va) inLane b) else putBits x inLane b (bitsAt (h.rv va) inRow b)) (h.rv vd))

/-- A tile move, in either mode; it waits while the core's array is lent (R41). -/
def State.tile (s : State) (i : Instr) (vd va : VReg) (xi : XReg) (toRow : Bool) : State :=
  let p := (s.rx xi).toNat
  if !s.tileOk vd va p then s.illegalOperand i
  else if s.lent then s.waits i
  else (s.onHart fun h => h.tileMove vd va p toRow).adv 4

/-- R241: VTMOV_ROW. -/
def execVtmovRow (vd va : VReg) (xi : XReg) (ca : Bool) (s : State) : Out := .next (s.tile (.vtmovRow vd va xi ca) vd va xi true)

/-- R241: VTMOV_COL. -/
def execVtmovCol (vd va : VReg) (xi : XReg) (ca : Bool) (s : State) : Out := .next (s.tile (.vtmovCol vd va xi ca) vd va xi false)

end Sys2Proof.Machine
end

