-- ==== Sys2Proof/Machine/Queues.lean ====
section
/-! DEFINITION. Block quantisation (R265, R266), append queues (R267 to R269), expert routing and trains (R270 to R273, R403, R411). -/

namespace Sys2Proof.Machine

/-! ### VMXQ -/

/-- emax of a target type (R265). -/
def mxEmax (t : Nat) : Int :=
  match t with
  | 3 => 8
  | 4 => 15
  | 7 => 2
  | _ => 0

/-- The exponent of the leading bit of a finite value that is not zero. -/
def Num.log2 : Num → Int
  | .fin _ m e _ => (Nat.log2 m : Int) + e
  | _ => 0

/-- The scale of a block from its active values, and the flags of a block whose codes are all +0 (R265). -/
def mxScale (t : Nat) (xs : List Num) : Nat × Option Flags :=
  if xs.any fun x => x.isNan || x.isInf then (255, some fNV)
  else match xs.filter fun x => !x.isZero with
    | [] => (127, some 0)
    | x :: l =>
      let v := l.foldl (fun m y => max m y.log2) x.log2 - mxEmax t + 127
      ((if v < 0 then 0 else if 254 < v then 254 else v).toNat, none)

/-- The scale of block b. -/
def Hart.mxBlock (h : Hart) (va : VReg) (t : Nat) (m : MReg) (b : Nat) : Nat × Option Flags :=
  mxScale t (((List.range 32).filter fun k => decide (32 * b + k < h.vl) && h.active m (32 * b + k)).map fun k =>
    toNum (tagType (h.tagOf va)) (h.elem va (32 * b + k)))

/-- The code of element i under the scale of its block. -/
def Hart.mxCode (h : Hart) (va : VReg) (t : Nat) (m : MReg) (mode : RMode) (sat : Bool) (rnd : Nat → Nat) (i : Nat) : Res :=
  let (x, zero) := h.mxBlock va t m (i / 32)
  if !h.active m i then ⟨0, 0⟩
  else match zero with
    | some fl => ⟨0, fl⟩
    | none => deliver t mode sat true (rnd i) ((toNum (tagType (h.tagOf va)) (h.elem va i)).scale (127 - (x : Int)))

/-- The conditions of VMXQ (R265, R266). -/
def Hart.mxLegal (h : Hart) (vd vs va : VReg) (t : Nat) : Bool :=
  [3, 4, 7, 15].contains t && [0, 1, 2].contains (h.tagOf va).toNat && vd != vs && vd != va && vs != va && h.fits (h.tagOf va) &&
  h.fits (mkTag t false) && decide ((h.vl + 31) / 32 ≤ h.capacity 13)

/-- R265, R266: VMXQ; VSTART plays no part and becomes 0 (R89) (DEDUCED, log entry 22). -/
def execVmxq (vd vs va : VReg) (ty : BitVec 5) (m : MReg) (rnd : BitVec 3) (sat : Bool) (qos : BitVec 2) (s : State) : Out :=
  let i := Instr.vmxq vd vs va ty m rnd sat qos
  let t := ty.toNat
  let mode := s.modeOf rnd
  .next (s.vectorOp i (s.hart.mxLegal vd vs va t) fun s =>
    s.withSeed i mode true s.hart.vl fun d u =>
      (u.onHart fun h =>
        let codes := (List.range h.vl).map (h.mxCode va t m mode sat d.rnd16)
        let scales := (List.range ((h.vl + 31) / 32)).map fun b => (h.mxBlock va t m b).1
        (((h.setVec vd (mkTag t false) (packElems (mkTag t false) h.ebits (codes.map (·.code)))).setVec vs 13 (packElems 13 h.ebits scales)).orFlags
          (unionFlags codes)).clearVstart).adv 8)

/-! ### Queue descriptors (R267) -/

/-- The fields of a queue descriptor (Table 8.3). -/
structure QueueDesc where
  ring : Word
  cap : Nat
  ty : Nat
  claimed : Word
  committed : Word
  head : Word
  signalled : Word
  threshold : Nat
  owner : Nat
  errors : Word
  deriving DecidableEq, Repr

/-- Read a descriptor. The whole type byte is the code: one with a bit above the five of a type code set names no type (DESIGN CHOICE, log entry 81). -/
def parseDesc (b : List Byte) : QueueDesc :=
  { ring := BitVec.ofNat 64 (field b 0 8), cap := field b 8 4, ty := field b 0xC 1, claimed := BitVec.ofNat 64 (field b 0x10 8)
    committed := BitVec.ofNat 64 (field b 0x18 8), head := BitVec.ofNat 64 (field b 0x20 8), signalled := BitVec.ofNat 64 (field b 0x28 8)
    threshold := field b 0x30 4, owner := field b 0x34 4, errors := BitVec.ofNat 64 (field b 0x38 8) }

/-- The descriptor at a location. -/
def State.descAt (s : State) (loc : Nat) : QueueDesc := parseDesc (Memory.bytes s.mem loc 64)

/-- A capacity: a power of two from 16 to 2^30. -/
def capacityOk (c : Nat) : Bool := decide (16 ≤ c) && decide (c ≤ 2 ^ 30) && c == 2 ^ Nat.log2 c

/-- c more elements fit (R268). -/
def QueueDesc.room (d : QueueDesc) (c : Nat) : Bool := decide ((d.claimed + BitVec.ofNat 64 c - d.head).toNat ≤ d.cap)

/-- The address of slot k of the ring. -/
def QueueDesc.slot (d : QueueDesc) (k : Word) : Word := d.ring + BitVec.ofNat 64 (k.toNat % d.cap * inboxSize d.ty)

/-- The commit of a claimed range, then its event (R268, R170): `va` is the address of the descriptor. -/
def State.commitRange (s : State) (loc : Nat) (va : Word) (committed : Word) (p : Producer) : State :=
  let d := s.descAt loc
  let m1 := Memory.put s.mem (loc + 0x18) (leBytes 8 committed.toNat)
  if d.threshold ≠ 0 ∧ d.threshold ≤ (committed - d.signalled).toNat then
    let s1 : State := { s with mem := Memory.put m1 (loc + 0x28) (leBytes 8 committed.toNat) }
    match s1.ownHart (d.owner % 2 ^ 17) with
    | some h => s1.postEvent h { kind := 3, detail := 0, payload := va } p
    | none => s1
  else { s with mem := m1 }

/-! ### VAPPEND (R268, R269) -/

/-- Trains and appends of a hart that wait are tried again, and elements that wait at the hub. -/
def State.retryDues (s : State) (id : Nat) : List Due :=
  (List.range s.redirects.length).reverse.map .trainRedirect ++
  ((List.range s.appends.length).reverse.filterMap fun k => (s.appends[k]?).bind fun a => if a.hart = id then some (.vappendCommit k) else none) ++
  ((List.range s.trains.length).reverse.filterMap fun k => (s.trains[k]?).bind fun a =>
    if a.hart = id then some (if a.arrived then .trainAcknowledge k else .trainArrival k) else none)

/-- The entries of a committed append in the duplicate table of its descriptor's slice, one for each tag (R370, R371). -/
def State.noteAppend (s : State) (a : Append) : State :=
  (List.range a.count).foldl (fun t n => t.note (dupSlice a.desc) a.ctx a.issuer (a.tag + BitVec.ofNat 24 n) 0) s

/-- R268: an append commits when every earlier claim of its queue has. It waits while an earlier record of its hart has no room (R171) or its tags have none
(R371), or while a minor overflow holds the descriptor's page (R450), and stays until its own record has been posted. A poisoned descriptor kills its context (R449). -/
def execVappendCommit (k : Nat) (s : State) : Out :=
  match s.appends[k]? with
  | none => .next s
  | some a =>
    let me := Producer.append a.hart
    if a.post = .due ∧ (s.descAt a.desc).committed = a.first ∧ s.isStalled me = false ∧ s.tableFull (dupSlice a.desc) a.count = false then
      match s.arrivalGate a.desc false with
      | .opened =>
      let s0 := (s.noteAppend a).commitRange a.desc a.descVa (a.first + BitVec.ofNat 64 a.count) me
      let s1 : State := { s0 with appends := if s0.isStalled me then s.appends.set k { a with post := .stalled } else s.appends.eraseIdx k }
      .next (s1.due ((List.range s1.appends.length).reverse.filterMap fun j => (s1.appends[j]?).bind fun b => if b.desc = a.desc then some (.vappendCommit j) else none))
      | g => .next (s.stoppedAt a.ctx a.desc g)
    else .next s

/-- What an append writes: the values of va, or the indices (R268). -/
structure AppendOp where
  /-- The value register; none for the index form. -/
  va : Option VReg
  xq : XReg
  m : MReg
  rnd : BitVec 3
  sat : Bool
  deriving DecidableEq, Repr

/-- The type code of the values that an append converts; indices count as N64. -/
def AppendOp.srcType (o : AppendOp) (h : Hart) : Nat := match o.va with
  | some v => tagType (h.tagOf v)
  | none => 17

/-- The value form takes a register of 1, 2, 4 or 8 bytes (R269). -/
def AppendOp.legal (o : AppendOp) (h : Hart) : Bool := match o.va with
  | some v => !tagCrumb (h.tagOf v) && inboxSize (tagType (h.tagOf v)) != 0 && h.fits (h.tagOf v)
  | none => true

/-- The code of element i. -/
def AppendOp.source (o : AppendOp) (h : Hart) (i : Nat) : Nat := match o.va with
  | some v => h.elem v i
  | none => i

/-- The places of a ring's slots from t0 on for c elements, or the first address that fails. -/
def State.slotPlaces (s : State) (d : QueueDesc) (t0 : Word) (c : Nat) : Except (Cause × Word) (List Place) :=
  (List.range c).mapM fun n =>
    let va := d.slot (t0 + BitVec.ofNat 64 n)
    match s.probe va (inboxSize d.ty) (inboxSize d.ty) .write with
    | .ok p => .ok p
    | .error c => .error (c, va)

/-- The first address of a ring that fails the pre-probe: every page of it is checked (R268). -/
def State.ringFault (s : State) (d : QueueDesc) : Option (Cause × Word) :=
  match s.segments d.ring.toNat (d.cap * inboxSize d.ty) (inboxSize d.ty) .write with
  | .ok _ => none
  | .error (c, va) => some (c, BitVec.ofNat 64 va)

/-- Write codes of a type to places. -/
def putSlots (m : List Host.Cell) (size : Nat) (l : List (Place × Nat)) : List Host.Cell :=
  l.foldl (fun m p => if p.1.reg.isSome then m else Memory.put m p.1.loc (leBytes size p.2)) m

/-- The conversion of an append draws a seed under SR (R61). -/
def appendDraws (src dst : Nat) : Bool := !(isInt src && isInt dst) && dst != 13 && !convExact src dst

/-- The claim of a VAPPEND and its slot writes, at the places of its slots; its commit follows. -/
def State.claimSlots (s : State) (i : Instr) (o : AppendOp) (p : Place) (seed : Seed) (places : List Place) : State :=
  let h := s.hart
  let d := s.descAt p.loc
  let mode := s.modeOf o.rnd
  let act := h.actives o.m
  let codes := act.map fun k => convertRes (o.srcType h) d.ty mode (o.sat || o.va.isNone) (seed.rnd16 k) (o.source h k)
  let kept : Kept := { s.keep i (s.rx o.xq) h.csr.vl h.csr.vstart seed.base with
    key := seed.key, stream := seed.stream, mode := BitVec.ofNat 3 mode.code, mask := h.rm o.m
    va := match o.va with | some v => h.rv v | none => 0
    vaTag := match o.va with | some v => h.tagOf v | none => 0 }
  let m1 := putSlots s.mem (inboxSize d.ty) (places.zip (codes.map (·.code)))
  let t : State := { s with
    mem := Memory.put m1 (p.loc + 0x10) (leBytes 8 (d.claimed + BitVec.ofNat 64 act.length).toNat)
    nextOrder := s.nextOrder + 1
    appends := s.appends ++ [⟨h.id, h.sup.ctxid, h.tags.issuer, p.loc, s.rx o.xq, d.claimed, act.length, h.tags.value, .due, kept⟩] }
  (((t.takeTags act.length).orFlags (unionFlags codes)).onHart Hart.clearVstart).adv 8 |>.due [.vappendCommit s.appends.length]

/-- VAPPEND once its descriptor has been probed at a place: the claim with its slot writes, which pass the gates of their lines before the seed is drawn, or a wait for room. It draws its seed even when no element is
active (R61). An index that does not fit the type is clamped whatever sat holds (R268). -/
def State.appendAt (s : State) (i : Instr) (o : AppendOp) (p : Place) : State :=
  let h := s.hart
  let d := s.descAt p.loc
  let c := (h.actives o.m).length
  let draws := appendDraws (o.srcType h) d.ty
  if !capacityOk d.cap || inboxSize d.ty == 0 || decide (d.cap < c) then s.illegalOperand i
  else match s.ringFault d with
  | some (cause, a) => s.raise i cause a 0
  | none =>
    if c = 0 then s.withSeed i (s.modeOf o.rnd) draws h.vl fun _ t => (t.onHart Hart.clearVstart).adv 8
    else if !d.room c || s.tagsFull c || s.unperformed then s.waits i
    else match s.slotPlaces d d.claimed c with
      | .error (cause, a) => s.raise i cause a 0
      | .ok places => s.passGates i places (fun s => s.withSeed i (s.modeOf o.rnd) draws h.vl fun seed t => t.claimSlots i o p seed places)
          (fullLines (places.map fun q => (q.loc, inboxSize d.ty)))

/-- VAPPEND: its operand checks, and the pre-probe of the descriptor line, which it writes and reads (DEDUCED, log entry 33; DESIGN CHOICE, log entry 65). A descriptor in a
LOCAL-VSP or PEER-VSP window is taken as any other: R269 names no failure for it (DESIGN CHOICE, log entry 65). -/
def State.append (s : State) (i : Instr) (o : AppendOp) : State :=
  let va := s.rx o.xq
  s.memoryOp i (va.toNat % 64 == 0 && o.legal s.hart) fun s =>
    match s.probe va 64 64 .write, s.probe va 64 64 .read with
    | .error c, _ => s.raise i c va 0
    | .ok _, .error c => s.raise i c va 0
    | .ok p, .ok _ =>
      if p.reg.isSome then s.illegalOperand i
      else (s.cachePage va).passGates i [p] fun t => t.appendAt i o p

/-- R268, R269: VAPPEND of values. -/
def execVappend (va : VReg) (xq : XReg) (m : MReg) (rnd : BitVec 3) (sat : Bool) (qos : BitVec 2) (s : State) : Out :=
  .next (s.append (.vappend va xq m rnd sat qos) ⟨some va, xq, m, rnd, sat⟩)

/-- R268, R269: VAPPEND of indices. -/
def execVappendIdx (xq : XReg) (m : MReg) (rnd : BitVec 3) (sat : Bool) (qos : BitVec 2) (s : State) : Out :=
  .next (s.append (.vappendIdx xq m rnd sat qos) ⟨none, xq, m, rnd, sat⟩)

/-- R268: a hart's waiting VAPPEND finds room and claims its range. -/
def execVappendClaim (hart : Nat) (s : State) : Out :=
  .next (s.asHart hart fun t => match t.hart.wait with
    | some (.vappend va xq m rnd sat qos) => t.append (.vappend va xq m rnd sat qos) ⟨some va, xq, m, rnd, sat⟩
    | some (.vappendIdx xq m rnd sat qos) => t.append (.vappendIdx xq m rnd sat qos) ⟨none, xq, m, rnd, sat⟩
    | _ => t)

/-! ### VROUTE (R270, R271, R402, R403) -/

/-- The null handle. -/
def nullHandle : Nat := 0xFFFFFFFFFFFFFFFF

/-- A destination handle (Table 8.4). -/
def mkHandle (version : BitVec 32) (die replica expert : Nat) : Nat := version.toNat * 2 ^ 32 + die * 2 ^ 16 + replica * 2 ^ 12 + expert

/-- The replica that a token takes: by hash, or the one with the smallest in-flight count (R271). -/
def Expert.choose (x : Expert) (ids : List Nat) (e t : Nat) : Nat :=
  if x.mode = 1 then
    ids.foldl (fun best k => if (x.rep k).inflight < (x.rep best).inflight then k else best) (ids.headD 0)
  else ids.getD ((mix64 (BitVec.ofNat 64 e) 0 (BitVec.ofNat 64 t)).toNat % ids.length) 0

/-- Route one token on a die: the handle, and the state with its charge (R271, R402, R403). -/
def State.routeOne (s : State) (die e t : Nat) : Nat × State :=
  let k := s.die die
  let x := Sparse.get Expert.zero k.cache e
  let ids := x.eligibleAt k.version
  if 4096 ≤ e || ids.isEmpty then (nullHandle, s)
  else
    let r := x.choose ids e t
    let s1 := (s.setLadle fun l => { l with routed := l.routed + 1 }).updDie die fun d => { d with
      cache := Sparse.upd Expert.zero d.cache e fun x => x.updRep r fun q => { q with ifcur := q.ifcur + 1 }
      load := Sparse.upd 0 d.load e (· + 1) }
    (mkHandle k.version (s.fabric.pkgpos.toNat * 8 + (x.rep r).die.toNat) r e, s1.sendInflight [⟨die, e, r, k.version, true⟩])

/-- Route the active elements in ascending order: the handles by index, and the state. -/
def State.routeAll (s : State) (die : Nat) (tok : Nat → Nat × Nat) : List Nat → List (Nat × Nat) × State
  | [] => ([], s)
  | i :: l =>
    let r := s.routeOne die (tok i).1 (tok i).2
    let rest := State.routeAll r.2 die tok l
    ((i, r.1) :: rest.1, rest.2)

/-- The conditions of VROUTE (R271). -/
def Hart.routeLegal (h : Hart) (vd va vb : VReg) : Bool :=
  [18, 19].contains (h.tagOf va).toNat && [19, 17].contains (h.tagOf vb).toNat && vd != va && vd != vb && h.fits (h.tagOf va) && h.fits (h.tagOf vb) &&
  h.fits 17

/-- R271: VROUTE. Elements below VSTART keep their value and charge nothing. A die that is ABSENT routes again only once it has rejoined (R410). The policy
interval may end with it (Table 16.3). -/
def execVroute (vd va vb : VReg) (m : MReg) (qos : BitVec 2) (s : State) : Out :=
  .next (s.vectorOp (.vroute vd va vb m qos) (s.hart.routeLegal vd va vb) fun s =>
    let h := s.hart
    let die := dieOf h.id
    let v := (s.die die).version
    if s.isAbsent die then s.waits (.vroute vd va vb m qos)
    else
    let r := s.routeAll die (fun i => (h.elem va i, h.elem vb i)) (h.actives m)
    let codes := fillFrom (fun i => if i < h.vs then h.elemAs vd 17 i else nullHandle) 0 h.vl r.1
    ((r.2.onHart fun g =>
      let g1 := (g.setVec vd 17 (packElems 17 g.ebits codes)).clearVstart
      { g1 with csr := { g1.csr with routever := v } }).due (if r.2.ladle.unit = false ∧ r.2.intervalOver = true then [.ladleIntervalEnd] else [])).adv 8)

/-! ### VSCATR (R272) -/

/-- The die of a handle within its package. -/
def handleDie (x : Word) : Nat := bitsOf x.toNat 18 16

/-- The expert of a handle. -/
def handleExpert (x : Word) : Nat := bitsOf x.toNat 11 0

/-- The replica of a handle. -/
def handleReplica (x : Word) : Nat := bitsOf x.toNat 14 12

/-- The cached replica that a handle names, on a die. -/
def State.cachedRep (s : State) (die : Nat) (x : Word) : Replica := (Sparse.get Expert.zero (s.die die).cache (handleExpert x)).rep (handleReplica x)

/-- A handle passes the check against the die's cached table (R272). -/
def State.handleOk (s : State) (die : Nat) (x : Word) : Bool :=
  let r := s.cachedRep die x
  bitsOf x.toNat 31 25 == 0 && !bitOf x.toNat 15 && bitsOf x.toNat 24 19 == s.fabric.pkgpos.toNat &&
  (repActive r || repRetiring r || repDead r) && r.die.toNat == handleDie x

/-- Why an element of a VSCATR fails: the handle, or its inbox in the Ladle context (R272), which is probed for writing: R272 names no kind of access (DESIGN CHOICE,
log entry 65). -/
def State.handleFault (s : State) (die : Nat) (x : Word) : Option (Cause × Word) :=
  if x.toNat = nullHandle then none
  else if !s.handleOk die x then some (.permission .write, x)
  else
    let inbox := (s.cachedRep die x).inbox
    match (s.asContext s.ladle.ctx (handleDie x)).probe inbox 64 64 .write with
    | .ok _ => none
    | .error c => some (c, inbox)

/-- The first active element that fails, with its cause and TRAPVAL. -/
def State.scatrFault (s : State) (handle : Nat → Word) : List Nat → Option (Nat × Cause × Word)
  | [] => none
  | i :: l => match s.handleFault (dieOf s.hart.id) (handle i) with
    | some (c, v) => some (i, c, v)
    | none => State.scatrFault s handle l

/-- A handle with its converted element, and the flags of the conversion. -/
structure Parcel where
  handle : Word
  value : Word
  flags : Flags
  deriving DecidableEq, Repr

/-- The parcels of active elements with a handle that is not null, in index order (R272). -/
def buildParcels (src dst : Nat) (mode : RMode) (sat : Bool) (rnd : Nat → Nat) (elem : Nat → Nat) (handle : Nat → Word) (l : List Nat) : List Parcel :=
  (l.filter fun i => (handle i).toNat != nullHandle).map fun i =>
    let r := convertRes src dst mode sat (rnd i) (elem i)
    ⟨handle i, BitVec.ofNat 64 r.code, r.flags⟩

/-- The elements of a die's train. -/
def parcelsFor (die : Nat) (l : List Parcel) : List (Word × Word) := (l.filter fun p => handleDie p.handle == die).map fun p => (p.handle, p.value)

/-- The conditions of VSCATR on its operands (R272). -/
def Hart.scatrLegal (h : Hart) (va vb : VReg) (t : Nat) : Bool :=
  !tagCrumb (h.tagOf va) && inboxSize (tagType (h.tagOf va)) != 0 && h.tagOf vb == 17 && inboxSize t != 0 && h.fits (h.tagOf va) && h.fits 17

/-- Send the trains of parcels, one for each die, each with the next tag (R272, R370). -/
def State.sendTrains (s : State) (kept : Kept) (t : Nat) (l : List Parcel) : State :=
  ((List.range 8).filter fun d => l.any fun p => handleDie p.handle == d).foldl (fun u d =>
    let elems := parcelsFor d l
    ({ u with trains := u.trains ++ [{ hart := u.hart.id, ctx := u.hart.sup.ctxid, issuer := u.hart.tags.issuer, die := d, ty := t, elems := elems, count := elems.length, tag := u.hart.tags.value, replay := false, orphan := false, arrived := false, kept := kept }] } : State).takeTags 1) s

/-- R272: VSCATR; a failure at element k follows Table 3.3 without a first-fault form. -/
def execVscatr (va vb : VReg) (ty : BitVec 5) (m : MReg) (rnd : BitVec 3) (sat : Bool) (qos : BitVec 2) (s : State) : Out :=
  let i := Instr.vscatr va vb ty m rnd sat qos
  let t := ty.toNat
  .next (s.memoryOp i (s.hart.scatrLegal va vb t) fun s =>
    let h := s.hart
    let act := h.actives m
    let handle (k : Nat) : Word := BitVec.ofNat 64 (h.elem vb k)
    let src := tagType (h.tagOf va)
    let fault := s.scatrFault handle act
    let stop := match fault with | some f => f.1 | none => h.vl
    let mode := s.modeOf rnd
    let finish (u : State) : State := match fault with
      | some (k, c, v) => (u.onHart fun h => h.finishMem (.trapped k c)).raise i c v k
      | none => (u.onHart Hart.clearVstart).adv 8
    if s.relaxed && fault.isSome && s.unperformed then s.waits i
    else if fault.isSome && act.headD 0 == stop then finish s
    else if s.tagsFull (((act.filter fun k => decide (k < stop) && (handle k).toNat != nullHandle).map fun k => handleDie (handle k)).eraseDups).length then s.waits i
    else s.withSeed i mode (appendDraws src t) h.vl fun seed u =>
      let parcels := buildParcels src t mode sat seed.rnd16 (h.elem va) handle (act.filter fun k => decide (k < stop))
      let kept : Kept := { u.keep i 0 (BitVec.ofNat 64 stop) h.csr.vstart seed.base with
        key := seed.key, stream := seed.stream, mode := BitVec.ofNat 3 mode.code
        va := h.rv va, vaTag := h.tagOf va, vb := h.rv vb, vbTag := h.tagOf vb, mask := h.rm m }
      let first := u.trains.length
      let u1 := (({ u with nextOrder := u.nextOrder + 1 } : State).sendTrains kept t parcels).orFlags (parcels.foldl (fun f p => f ||| p.flags) 0)
      (s.keepSeed mode (appendDraws src t) seed (finish u1)).due ((List.range (u1.trains.length - first)).reverse.map fun k => .trainArrival (first + k)))

/-! ### Trains at their destinations (R273, R403, R411) -/

/-- Append codes to an inbox as the Ladle context sees it from a die: refused (R273), appended in one claimed range and committed, or none when it
has to wait (DEDUCED, log entry 34), as it does while an earlier record of the die's inboxes has no room (R171). -/
def State.inboxAppend (s : State) (e die : Nat) (va : Word) (ty : Nat) (codes : List Nat) : Option State :=
  let c := codes.length
  if s.isStalled (.inbox die) then none
  else match if (s.ctxRead s.ladle.ctx die va 64 64).isSome then s.ctxWritable s.ladle.ctx die va 64 64 else none with
  | none => some (s.updExpert e fun x => { x with lost := x.lost + BitVec.ofNat 32 c })
  | some segs =>
    let loc := (segs.map (·.loc)).headD 0
    let d := s.descAt loc
    let size := inboxSize d.ty
    let refuse : Option State := some { s with mem := Memory.put s.mem (loc + 0x38) (leBytes 8 (d.errors + BitVec.ofNat 64 c).toNat) }
    if size = 0 || inboxSize ty != size || !capacityOk d.cap || decide (d.cap < c) then refuse
    else if !d.room c || d.committed != d.claimed then none
    else match (List.range c).mapM fun n => s.ctxWritable s.ladle.ctx die (d.slot (d.claimed + BitVec.ofNat 64 n)) size size with
      | none => refuse
      | some slots =>
        let m1 := (slots.zip codes).foldl (fun m p => scatter m p.1 (leBytes size p.2)) s.mem
        let n := d.claimed + BitVec.ofNat 64 c
        some (({ s with mem := Memory.put m1 (loc + 0x10) (leBytes 8 n.toNat) } : State).commitRange loc va n (.inbox die))

/-- An element is on its way to the hub (R411): its replica is not ACTIVE or RETIRING there, or the die is ABSENT. -/
def State.goesToHub (s : State) (die : Nat) (x : Word) : Bool :=
  let r := s.cachedRep die x
  s.isAbsent die || !(repActive r || repRetiring r)

/-- The discharge of an element (R403). -/
def dischargeOf (die : Nat) (x : Word) : Inflight := ⟨die, handleExpert x, handleReplica x, BitVec.ofNat 32 (x.toNat / 2 ^ 32), false⟩

/-- Deliver the elements of a train by inbox, in the order in which the inboxes first appear; what has to wait stays (R272, R273). -/
def State.deliver (s : State) (die ty : Nat) : Nat → List (Word × Word) → State × List (Word × Word)
  | 0, l => (s, l)
  | _, [] => (s, [])
  | n + 1, (x, v) :: l =>
    let inbox := (s.cachedRep die x).inbox
    let same (p : Word × Word) : Bool := (s.cachedRep die p.1).inbox == inbox
    let mine := (x, v) :: l.filter same
    let rest := l.filter fun p => !same p
    match s.inboxAppend (handleExpert x) die inbox ty (mine.map fun p => p.2.toNat) with
    | some t => (t.sendInflight (mine.map fun p => dischargeOf die p.1)).deliver die ty n rest
    | none =>
      let r := State.deliver s die ty n rest
      (r.1, mine ++ r.2)

/-- A duplicate table holds an entry of a tag: its operation has taken effect. -/
def State.answered (s : State) (ctx issuer : BitVec 32) (tag : BitVec 24) : Bool := s.duplicates.any fun d => d.ctx == ctx && d.issuer == issuer && d.tag == tag

/-- Elements of a train that are still on their way through the hub. -/
def State.redirecting (s : State) (t : Train) : Bool := s.redirects.any fun r => r.ctx == t.ctx && r.issuer == t.issuer && r.tag == t.tag

/-- Everything of a train has been appended, refused or lost: the inbox home writes its entry, once its table has room (R371), and the acknowledgement leaves;
that of a frozen hart is discarded there (R363). -/
def State.trainDone (s : State) (k : Nat) (t : Train) : State :=
  if s.redirecting t || (!s.answered t.ctx t.issuer t.tag && s.tableFull (dupInbox t.die) 1) then s
  else
    let u := if s.answered t.ctx t.issuer t.tag then s else s.note (dupInbox t.die) t.ctx t.issuer t.tag 0
    if t.orphan then { u with trains := u.trains.eraseIdx k } else u.due [.trainAcknowledge k]

/-- R272, R273, R371, R372, R403, R411: a train arrives at its die; one that finds the duplicate table of the inbox home full waits. -/
def execTrainArrival (k : Nat) (s : State) : Out :=
  match s.trains[k]? with
  | none => .next s
  | some t =>
    if t.arrived then .next s
    else if s.stale t.ctx t.issuer (t.tag.extractLsb' 16 8) t.replay then .next { s with trains := s.trains.eraseIdx k }
    else if t.replay && s.answered t.ctx t.issuer t.tag then .next (({ s with trains := s.trains.set k { t with elems := [], arrived := true } } : State).due [.trainAcknowledge k])
    else if s.tableFull (dupInbox t.die) 1 then .next s
    else if t.replay && (s.trains.take k).any (fun u => u.orphan && u.ctx == t.ctx && u.issuer == t.issuer && u.tag == t.tag) then .next s
    else
      let hub := t.elems.filter fun p => s.goesToHub t.die p.1
      let here := t.elems.filter fun p => !s.goesToHub t.die p.1
      let s1 : State := { s with redirects := s.redirects ++ hub.map fun p => ⟨t.ctx, t.issuer, t.tag, p.1, p.2, t.ty⟩ }
      let r := s1.deliver t.die t.ty here.length here
      let t1 := { t with elems := r.2, arrived := r.2.isEmpty }
      let s2 := r.1.due (hub.map fun _ => .trainRedirect 0)
      let s3 : State := { s2 with trains := s2.trains.set k t1 }
      .next (if t1.arrived && !s3.redirecting t then s3.trainDone k t1 else s3.due (if t1.arrived then [.trainAcknowledge k] else []))

/-- R109, R272: the acknowledgement of a train returns to its hart. -/
def execTrainAcknowledge (k : Nat) (s : State) : Out :=
  match s.trains[k]? with
  | none => .next s
  | some t =>
    .next (if t.arrived = false then s
      else if s.answered t.ctx t.issuer t.tag then { s with trains := s.trains.eraseIdx k }
      else s.trainDone k t)

/-- R411: an element reaches the hub: it goes on to the primary, or is lost. -/
def execTrainRedirect (k : Nat) (s : State) : Out :=
  match s.redirects[k]? with
  | none => .next s
  | some r =>
    let e := handleExpert r.handle
    let x := s.expert e
    let p := x.rep 0
    let rest : State := { s with redirects := s.redirects.eraseIdx k }
    if (x.eligibleAt s.ladle.version).contains 0 || repRetiring p then
      match rest.inboxAppend e (p.die.toNat % 8) p.inbox r.ty [r.value.toNat] with
      | some t => .next (t.updExpert e fun x => { x with redirected := x.redirected + 1 })
      | none => .next s
    else .next (rest.updExpert e fun x => { x with lost := x.lost + 1 })

end Sys2Proof.Machine
end

