-- ==== Sys2Proof/Machine/Engines.lean ====
section
/-! DEFINITION. The stream engine and buffer handles (R274 to R279, R334), the copy queues (R280, R281) and gang delivery (R282 to R285). -/

namespace Sys2Proof.Machine

/-! ### Handles -/

/-- A buffer handle of the current hart. -/
def Hart.handle (h : Hart) (n : Nat) : Handle := h.handles.get (Fin.ofNat 32 n)

/-- Change a buffer handle. -/
def Hart.setHandle (h : Hart) (n : Nat) (x : Handle) : Hart :=
  { h with handles := h.handles.set (Fin.ofNat 32 n).val x (Fin.ofNat 32 n).isLt }

/-- The state codes of Table 8.5. -/
def HandleState.code : HandleState → Nat
  | .free => 0
  | .filling => 1
  | .full => 2
  | .draining => 3

/-- A buffer address (R276): a LOCAL-VSP window address with bits [8:0] zero; its offset. -/
def bufferOffset (x : Word) : Option Nat :=
  if bitsOf x.toNat 63 20 = 0xFF800000000 ∧ x.toNat % 512 = 0 then some (x.toNat % 2 ^ 20) else none

/-! ### STRM and STRMW -/

/-- What a stream command names. -/
structure StreamOp where
  /-- STRMW. -/
  out : Bool
  h : BitVec 5
  xa : XReg
  xb : XReg
  xc : XReg
  ty : Nat
  mask : MReg
  ix : Bool
  vi : VReg
  ev : Bool
  deriving DecidableEq, Repr

/-- The address of memory element i: xa + i × stride, with stride t for x0, or xa + off(i) (R275). -/
def State.streamAddr (s : State) (o : StreamOp) (i : Nat) : Word :=
  if o.ix then s.indexAddr o.xa o.vi i
  else s.rx o.xa + BitVec.ofNat 64 i * (if o.xb = 0 then BitVec.ofNat 64 (inboxSize o.ty) else s.rx o.xb)

/-- The bytes of a buffer: n·t rounded up to whole chunks. -/
def bufferSize (n t : Nat) : Nat := (n * t + 511) / 512 * 512

/-- The base and size of the buffer a stream command uses, none when its operands raise ILLEGAL_OPERAND (R274 to R277). -/
def State.streamBuffer (s : State) (o : StreamOp) : Option (Nat × Nat) :=
  let h := s.hart
  let t := inboxSize o.ty
  let n := h.vl
  let hd := h.handle o.h.toNat
  if s.isSup || t == 0 || decide (64 * h.lanes < n * t) || (o.ix && !h.indexOk o.vi) || s.maskOwned o.mask then none
  else if o.out && hd.state == .full then
    if s.rx o.xc = 0 ∧ n * t ≤ hd.size then some (hd.base, hd.size) else none
  else if hd.state != .free then none
  else match bufferOffset (s.rx o.xc) with
    | some b => if b + bufferSize n t ≤ 2 ^ 20 then some (b, bufferSize n t) else none
    | none => none

/-- Chunks of a transfer. -/
def StreamCmd.chunks (c : StreamCmd) : Nat := (c.count * c.size + 511) / 512

/-- The event of a completed transfer (R275): while it has no room the command stays, and the engine stands still (R171). -/
def State.streamEvent (s : State) (c : StreamCmd) : State :=
  if c.post = .due then
    let t := s.postEvent c.hart { kind := 1, detail := BitVec.ofNat 8 c.handle, payload := BitVec.ofNat 64 c.chunks } (.engine c.core)
    if t.isStalled (.engine c.core) then { t with streams := t.streams ++ [{ c with post := .stalled }] } else t
  else s

/-- The device steps of a transfer: the line requests of a STRM (R334), or the chunks of a STRMW; then its completion. -/
def streamDues (out : Bool) (hart h chunks : Nat) : List Due :=
  (if out then (List.range chunks).map (.chunkDone hart h ·) else [.streamRequest (hart / 4)]) ++ [.streamComplete hart h]

/-- Begin a transfer whose elements lie at locations: the handle, the chunk mask and the command (R275, R277). An empty one completes at once; its event
waits while the engine is stalled (R171). -/
def State.startStream (s : State) (i : Instr) (o : StreamOp) (b : Nat × Nat) (locs : List Nat) (kept : Kept) : State :=
  let id := s.hart.id
  let n := o.h.toNat
  let t := inboxSize o.ty
  let clear (h : Hart) : Hart := h.wm o.mask 0
  let c : StreamCmd := { hart := id, core := id / 4, handle := n, out := o.out, size := t, count := locs.length, locs := locs, base := b.1, mask := o.mask,
                         post := if o.ev then .due else .done, chunksDone := [], asid := s.hart.sup.asid, asked := [], answered := [], kept := kept }
  if locs.isEmpty then
    if o.ev && s.isStalled (.engine (id / 4)) then s.waits i
    else ((s.onHart fun h => (clear h).setHandle n (if o.out then ⟨b.1, b.2, .free⟩ else ⟨b.1, 0, .full⟩)).streamEvent c).adv 8
  else
    let s1 := s.onHart fun h => (clear h).setHandle n ⟨b.1, b.2, if o.out then .draining else .filling⟩
    (({ s1 with
      streams := s1.streams ++ [c]
      nextOrder := s1.nextOrder + 1 } : State).adv 8).due (streamDues o.out id n ((locs.length * t + 511) / 512))

/-- STRM and STRMW: the operands, the check of every memory element (R276), then the transfer. A poisoned line that a STRMW writes wholly does not stop it (R449). -/
def State.stream (s : State) (i : Instr) (o : StreamOp) : State :=
  let t := inboxSize o.ty
  match s.streamBuffer o with
  | none => s.illegalOperand i
  | some b =>
    let r := s.probeElems (s.streamAddr o) t (if o.out then .write else .read) (List.range s.hart.vl)
    match r.2 with
    | some (k, c) => s.raise i c (s.streamAddr o k) k
    | none =>
      let kept := { s.keep i (s.rx o.xa) (BitVec.ofNat 64 (s.hart.vl * t)) (s.rx o.xc) (s.rx o.xb) with
        vi := if o.ix then s.hart.rv o.vi else 0, viTag := if o.ix then s.hart.tagOf o.vi else 0 }
      let full := if o.out then fullLines (r.1.map fun p => (p.2.loc, t)) else []
      (s.cacheElems (s.streamAddr o) r.1).passGates i ((r.1.map (·.2)).filter fun p => p.pkg.isSome || !full.contains (p.loc / 64)) fun u => u.startStream i o b (r.1.map fun p => p.2.loc) kept

/-- R275, R276: STRM. -/
def execStrm (h : BitVec 5) (xa xb xc : XReg) (ty : BitVec 5) (mk : MReg) (qos : BitVec 2) (ix : Bool) (vi : VReg) (ev : Bool) (s : State) : Out :=
  .next (s.stream (.strm h xa xb xc ty mk qos ix vi ev) ⟨false, h, xa, xb, xc, ty.toNat, mk, ix, vi, ev⟩)

/-- R275, R276: STRMW. -/
def execStrmw (h : BitVec 5) (xa xb xc : XReg) (ty : BitVec 5) (mk : MReg) (qos : BitVec 2) (ix : Bool) (vi : VReg) (ev : Bool) (s : State) : Out :=
  .next (s.stream (.strmw h xa xb xc ty mk qos ix vi ev) ⟨true, h, xa, xb, xc, ty.toNat, mk, ix, vi, ev⟩)

/-! ### The transfer -/

/-- The transfer of a hart's handle. -/
def State.streamOf (s : State) (hart h : Nat) : Option StreamCmd := s.streams.find? fun c => c.isOf hart h

/-- The elements of a chunk: index and location. -/
def StreamCmd.chunkElems (c : StreamCmd) (k : Nat) : List (Nat × Nat) :=
  (List.range (512 / c.size)).filterMap fun j =>
    let i := k * (512 / c.size) + j
    (c.locs[i]?).map fun l => (i, l)

/-- A chunk may be finished: it is not done; for a STRM the data of its lines has come back (R334), and for STRMW every earlier chunk with an element at the same
place is done (R275). -/
def StreamCmd.ready (c : StreamCmd) (k : Nat) : Bool :=
  decide (k < c.chunks) && !c.chunksDone.contains k &&
  if c.out then (List.range k).all fun j => c.chunksDone.contains j || (c.chunkElems j).all fun p => !((c.chunkElems k).any fun q => q.2 == p.2)
  else (c.chunkElems k).all fun p => c.answered.contains (p.2 / 64)

/-- Move the elements of a chunk between memory and the buffer; the register window reads zero and discards writes (R423). -/
def StreamCmd.move (c : StreamCmd) (m : List Host.Cell) (k : Nat) : List Host.Cell :=
  (c.chunkElems k).foldl (fun m p =>
    let buf := locVsp (c.core / 64) (c.core % 64) (c.base + p.1 * c.size)
    if c.out then (if windowLoc p.2 then m else Memory.put m p.2 (Memory.bytes m buf c.size))
    else Memory.put m buf (if windowLoc p.2 then List.replicate c.size 0 else Memory.bytes m p.2 c.size)) m

/-- Set a bit of a mask register. -/
def Hart.setMaskBit (h : Hart) (m : MReg) (k : Nat) : Hart := h.wm m (h.rm m ||| ((1 : MBits) <<< k))

/-- The lines that a chunk of a STRMW writes wholly. -/
def StreamCmd.fullLines (c : StreamCmd) (k : Nat) : List Nat := if c.out then Machine.fullLines ((c.chunkElems k).map fun p => (p.2, c.size)) else []

/-- R108, R277: a chunk finishes, and its bit of the chunk mask is set. A poisoned line kills the context unless the chunk writes it wholly (R449), a die that has left service
too (R458), and a held page makes it wait (R450); a stalled engine stands still (R171). -/
def execChunkDone (hart h c : Nat) (s : State) : Out :=
  .next (match s.streamOf hart h with
    | none => s
    | some x =>
      if !x.ready c || s.isStalled (.engine x.core) then s
      else match (x.chunkElems c).find? fun p => s.arrivalGate p.2 ((x.fullLines c).contains (p.2 / 64)) != .opened with
      | some p => s.stoppedAt (s.ctxOf hart) p.2 (s.arrivalGate p.2 ((x.fullLines c).contains (p.2 / 64)))
      | none =>
        let s0 := s.clearLines ((x.fullLines c).filter fun l => s.isPoisoned (64 * l))
        let s1 : State := { s0 with mem := x.move s0.mem c }
        (s1.updStream hart h fun y => { y with chunksDone := y.chunksDone ++ [c] }).updHart hart fun g => g.setMaskBit x.mask c)

/-- A transfer whose chunks are all done completes: the handle's state, the event (R275). -/
def State.completeStream (s : State) (hart h : Nat) (out : Bool) : State :=
  match s.streamOf hart h with
  | none => s
  | some c =>
    if c.out == out && c.chunksDone.length == c.chunks && !s.isStalled (.engine c.core) then
      let s1 : State := { s with streams := s.streams.filter fun d => !d.isOf hart h }
      (s1.updHart hart fun g => g.setHandle h { g.handle h with state := if out then .free else .full }).streamEvent c
    else s

/-- R275: the last chunk of a STRM is visible, and the handle becomes FULL. -/
def execStrmComplete (hart h : Nat) (s : State) : Out := .next (s.completeStream hart h false)

/-- R275: every write of a STRMW is visible at PKG scope, and the handle becomes FREE. -/
def execStrmwComplete (hart h : Nat) (s : State) : Out := .next (s.completeStream hart h true)

/-- Lines that the chunks of a STRM which are not done read (R334). -/
def StreamCmd.lines (c : StreamCmd) : List Nat :=
  (((List.range c.chunks).filter fun k => !c.chunksDone.contains k).flatMap fun k => (c.chunkElems k).map (·.2 / 64)).eraseDups

/-- The next line to request. -/
def StreamCmd.nextLine (c : StreamCmd) : Option Nat := if c.out || c.post == .stalled then none else c.lines.find? fun l => !c.asked.contains l

/-- Line reads of a stream engine that have not been answered. -/
def State.lineReads (s : State) (core : Nat) : Nat :=
  (s.streams.filter fun c => c.core == core && !c.out).foldl (fun n c => n + (c.asked.filter fun l => !c.answered.contains l).length) 0

/-- The data of a line has come back: the chunks that it completes may be finished, and the engine may ask for more (R334). -/
def State.answerLine (s : State) (hart h line : Nat) : State :=
  match s.streamOf hart h with
  | some c =>
    if !c.asked.contains line then s else
    let d := { c with answered := c.answered ++ [line] }
    let t := (s.updStream hart h fun _ => d).due (((List.range d.chunks).filter fun k => d.ready k && (d.chunkElems k).any fun p => p.2 / 64 == line).map (.chunkDone hart h ·) ++
      if d.lines.all d.answered.contains then [.streamComplete hart h] else [])
    if d.nextLine.isSome then t.dueOnce (.streamRequest c.core) else t
  | none => s

/-- The qos field of a stream command as the class of its line reads (R327; Table 12.2 does not list STRM: DEDUCED, log entry 76). -/
def StreamCmd.lineClass (c : StreamCmd) : Nat :=
  match decodeTableWord 64 c.kept.insn.toNat with
  | some (.strm _ _ _ _ _ _ qos _ _ _) => (Request.coded qos).channel
  | _ => Request.block.channel

/-- R334: the stream engine of a core sends the request flit of one more line, while it has lines to request and fewer than 512 are outstanding. A line of the core's own
scratchpad needs no mesh (R323) (DEDUCED, log entry 32). -/
def execStreamEngineRequest (core : Nat) (s : State) : Out :=
  .next (match s.streams.find? fun c => c.core == core && c.nextLine.isSome with
    | none => s
    | some c => match c.nextLine with
      | none => s
      | some line =>
        if s.isStalled (.engine core) || decide (512 ≤ s.lineReads core) then s
        else
          let t := (s.updStream c.hart c.handle fun d => { d with asked := d.asked ++ [line] }).dueOnce (.streamRequest core)
          match siteOf (core / 64) (core % 64) (line * 64) with
          | none => t.answerLine c.hart c.handle line
          | some dst => (t.updNoc (core / 64) fun n => { n with
              waiting := n.waiting ++ [(0, ⟨coreSite (core / 64) (core % 64), dst, .stream c.hart c.handle, c.lineClass, false, line, 64⟩)] }).dueOnce .meshTick)

/-! ### HCTL (R279) -/

/-- HWAIT: a wait while the handle is in transfer and differs from the state named, then its state code. -/
def State.hwait (s : State) (i : Instr) (xa : XReg) (h target : BitVec 5) : State :=
  let st := (s.hart.handle h.toNat).state
  if (st == .filling || st == .draining) && st.code != target.toNat then s.waits i else s.ret8 xa (BitVec.ofNat 64 st.code)

/-- R279: HWAIT; at supervisor level it raises ILLEGAL_OPERAND (R146). -/
def execHwait (xa : XReg) (h target : BitVec 5) (s : State) : Out :=
  let i := Instr.hwait xa h target
  .next (s.guardOperand i (!s.isSup) fun s => s.hwait i xa h target)

/-- R279: HSTATE. -/
def execHstate (xa : XReg) (h : BitVec 5) (s : State) : Out :=
  .next (s.guardOperand (.hstate xa h) (!s.isSup) fun s => s.ret8 xa (BitVec.ofNat 64 (s.hart.handle h.toNat).state.code))

/-- R274, R279: HFREE moves a FULL handle to FREE. -/
def execHfree (h : BitVec 5) (s : State) : Out :=
  let x := s.hart.handle h.toNat
  .next (s.guardOperand (.hfree h) (!s.isSup && x.state == .full) fun s => (s.onHart fun g => g.setHandle h.toNat { x with state := .free }).adv 8)

/-- R279: the handle of a waiting HWAIT has changed. -/
def execHwaitWake (hart : Nat) (s : State) : Out :=
  .next (s.asHart hart fun t => match t.hart.wait with
    | some (.hwait xa h target) => t.hwait (.hwait xa h target) xa h target
    | _ => t)

/-! ### XCOPY (R280, R281) -/

/-- What an XCOPY names. -/
structure CopyOp where
  q : BitVec 5
  xa : XReg
  xb : XReg
  xc : XReg
  ty : Nat
  ev : Bool
  deriving DecidableEq, Repr

/-- A global address, or a window on die q (R281). -/
def State.onDie (s : State) (va : Word) (q : Nat) : Bool :=
  let a := va.toNat
  !bitOf a 56 || bitsOf a 63 57 != 127 ||
  (if bitsOf a 55 48 = 0x80 ∨ bitsOf a 55 48 = 0x81 then dieOf s.hart.id == q
   else if bitsOf a 55 48 = 0x82 ∨ bitsOf a 55 48 = 0x83 then bitsOf a 47 44 == q
   else true)

/-- The length register x(xa+1). -/
def nextX (r : XReg) : XReg := r + 1

/-- The operand conditions of an XCOPY (R281). -/
def State.copyLegal (s : State) (o : CopyOp) : Bool :=
  let g := inboxSize o.ty
  let len := (s.rx (nextX o.xa)).toNat
  !s.isSup && decide (o.q.toNat < 8) && o.xa != 31 && o.xc != 31 && g != 0 && decide (len < 2 ^ 32) && len % g == 0 &&
  (s.rx o.xa).toNat % g == 0 && (s.rx o.xb).toNat % g == 0 && s.onDie (s.rx o.xb) o.q.toNat && (o.xc == 0 || s.onDie (s.rx o.xc) o.q.toNat)

/-- The ranges of a copy: source, destination, flag (R281); a failure gives its address and granule index. -/
def State.copyRanges (s : State) (o : CopyOp) : Except (Cause × Nat × Nat) (List (Segment × Place) × List (Segment × Place) × Option Place) :=
  let g := inboxSize o.ty
  let len := (s.rx (nextX o.xa)).toNat
  match s.segments (s.rx o.xa).toNat len g .read with
  | .error (c, a) => .error (c, a, (a - (s.rx o.xa).toNat) / g)
  | .ok src => match s.segments (s.rx o.xb).toNat len g .write with
    | .error (c, a) => .error (c, a, (a - (s.rx o.xb).toNat) / g)
    | .ok dst =>
      if o.xc = 0 then .ok (src, dst, none)
      else match s.probe (s.rx o.xc) 8 8 .write with
        | .error c => .error (c, (s.rx o.xc).toNat, len / g)
        | .ok p => .ok (src, dst, some p)

/-- Two lists of ranges share a byte. -/
def segmentsOverlap (a b : List Segment) : Bool := a.any fun x => b.any fun y => overlaps x.loc x.len y.loc y.len

/-- The commands in a copy queue of a die. -/
def State.copyQueue (s : State) (die q : Nat) : List CopyCmd := (s.die die).copies.get (Fin.ofNat 8 q)

/-- Post a command: one whose ranges overlap is of class T and takes a tag (R281, R370). -/
def State.postCopy (s : State) (i : Instr) (o : CopyOp) (src dst : List Segment) (flag : Option Place) : State :=
  let h := s.hart
  let meets := segmentsOverlap src dst
  let kept := { s.keep i (s.rx o.xa) (s.rx (nextX o.xa)) (s.rx o.xb) (if o.xc = 0 then 0 else s.rx (nextX o.xc)) with key := if o.xc = 0 then 0 else s.rx o.xc }
  let c : CopyCmd := { hart := h.id, ctx := h.sup.ctxid, issuer := h.tags.issuer, src := src, dst := dst, len := (s.rx (nextX o.xa)).toNat, flag := flag.map fun p => (p.loc, s.rx (nextX o.xc)), flagVa := if o.xc = 0 then 0 else s.rx o.xc, post := if o.ev then .due else .done, executed := false, flagged := false, overlap := meets, tag := h.tags.value, asid := h.sup.asid, ladle := false, orphan := false, replay := false, kept := kept }
  let s1 : State := { s with nextOrder := s.nextOrder + 1 }
  ((if meets then s1.takeTags 1 else s1).adv 8).pushCopy (dieOf h.id) o.q.toNat c |>.due [.copyComplete (dieOf h.id) o.q.toNat]

/-- XCOPY: the operands, the ranges, a wait for a free slot of the 64 of its queue, then the post (R280). Poison in its destination matters when the copy writes it (R449). -/
def State.xcopy (s : State) (i : Instr) (o : CopyOp) : State :=
  if !s.copyLegal o then s.illegalOperand i
  else match s.copyRanges o with
    | .error (c, a, k) => s.raise i c (BitVec.ofNat 64 a) k
    | .ok (src, dst, flag) =>
      if 64 ≤ (s.copyQueue (dieOf s.hart.id) o.q.toNat).length || (segmentsOverlap (src.map (·.1)) (dst.map (·.1)) && s.tagsFull 1) then s.waits i
      else s.passGates i (src.map (·.2) ++ (dst.map (·.2)).filter (·.pkg.isSome) ++ flag.toList) fun t => t.postCopy i o (src.map (·.1)) (dst.map (·.1)) flag

/-- R280, R281: XCOPY. -/
def execXcopy (q : BitVec 5) (xa xb xc : XReg) (ty : BitVec 5) (qos : BitVec 2) (ev : Bool) (s : State) : Out :=
  .next (s.xcopy (.xcopy q xa xb xc ty qos ev) ⟨q, xa, xb, xc, ty.toNat, ev⟩)

/-- R280: a slot of the queue is free, and a hart's waiting XCOPY is posted. -/
def execXcopyPost (hart : Nat) (s : State) : Out :=
  .next (s.asHart hart fun t => match t.hart.wait with
    | some (.xcopy q xa xb xc ty qos ev) => t.xcopy (.xcopy q xa xb xc ty qos ev) ⟨q, xa, xb, xc, ty.toNat, ev⟩
    | _ => t)

/-- Change a copy queue. -/
def State.updCopies (s : State) (die q : Nat) (f : List CopyCmd → List CopyCmd) : State :=
  s.updDie die fun d => { d with copies := d.copies.set (Fin.ofNat 8 q).val (f (d.copies.get (Fin.ofNat 8 q))) (Fin.ofNat 8 q).isLt }

/-- Change the head of a copy queue. -/
def State.updHead (s : State) (die q : Nat) (f : CopyCmd → CopyCmd) : State :=
  s.updCopies die q fun l => match l with
    | x :: t => f x :: t
    | [] => []

/-- The first place of a copy command at which it is stopped, with what stops it there. -/
def State.copyStop (s : State) (c : CopyCmd) : Option (Nat × Gate) :=
  (c.places.find? fun p => s.arrivalGate p.1 p.2 != .opened).map fun p => (p.1, s.arrivalGate p.1 p.2)

/-- The copy of a command's bytes; one of class T that has taken effect under its tag has no further effect, and leaves its entry else (R371). -/
def State.runCopy (s : State) (die q : Nat) (c : CopyCmd) : State :=
  if c.overlap && s.answered c.ctx c.issuer c.tag then s
  else
    let b := gather s.mem c.src
    let s0 := s.clearLines ((c.places.filter fun p => p.2 && s.isPoisoned p.1).map fun p => p.1 / 64)
    let s1 : State := { s0 with mem := scatter s0.mem c.dst b }
    let s2 : State := if c.overlap then s1.note (dupCopies die q) c.ctx c.issuer c.tag 0 else s1
    if c.ladle then s2.setLadle fun l => { l with srcCrc := crc32c b } else s2

/-- R280: the head of a copy queue reads its source and writes its destination. One of class T waits while the table there is full (R371), and any while a page is held
(R450). A poisoned line that it does not write wholly, or a die that has left service, fails a copy of the Ladle (R408) and kills any other context (R449, R458). -/
def execCopyExecute (die cq : Nat) (s : State) : Out :=
  .next (match s.copyQueue die cq with
    | c :: _ =>
      if c.executed || (c.overlap && !s.answered c.ctx c.issuer c.tag && s.tableFull (dupCopies die cq) 1) then s
      else match s.copyStop c with
      | some x => if c.ladle && x.2 != .held then s.ladleStep fun s => s.failReplication 3 else s.stoppedAt c.ctx x.1 x.2
      | none => ((s.runCopy die cq c).updHead die cq fun x => { x with executed := true }).due [.copyComplete die cq]
    | [] => s)

/-- The flag of a command that has been executed (R109); one in the register window is discarded (R423). -/
def State.writeFlag (s : State) (c : CopyCmd) : State := match c.flag with
  | some (loc, v) => if windowLoc loc then s else { s with mem := Memory.put s.mem loc (leBytes 8 v.toNat) }
  | none => s

/-- The event of a command, posted after its flag (R170); that of a frozen hart is posted once it has been replayed (R365). While it has no room the command
stays at the head of its queue (R171). -/
def State.copyEvent (s : State) (die q : Nat) (c : CopyCmd) : State :=
  if c.post = .due ∧ c.orphan = false then
    let t := s.postEvent c.hart { kind := 2, detail := BitVec.ofNat 8 q, payload := c.flagVa } (.copies die q)
    t.updHead die q fun x => { x with post := if t.isStalled (.copies die q) then .stalled else .done }
  else s

/-- The Ladle goes on to VERIFY after its copy (R407). -/
def State.copied (s : State) (c : CopyCmd) : State :=
  if c.ladle && s.ladle.phase == .copy then (s.setLadle fun l => { l with phase := .verify }).due [.replicationVerify] else s

/-- R109, R280: the head of a copy queue completes: its flag, its event, and the next command follows. -/
def execCopyComplete (die cq : Nat) (s : State) : Out :=
  .next (match s.copyQueue die cq with
    | c :: _ =>
      if c.executed && c.post != .stalled then
        let t := ((if c.flagged then s else s.writeFlag c).updHead die cq fun x => { x with flagged := true }).copyEvent die cq c
        match t.copyQueue die cq with
        | d :: rest =>
          if d.post = .stalled then t
          else ((t.updCopies die cq fun _ => rest).copied c).due (if rest.isEmpty then [] else [.copyExecute die cq])
        | [] => t
      else s
    | [] => s)

/-! ### Gang instructions (R282 to R285) -/

/-- What a gang instruction names. -/
structure GangOp where
  stream : Bool
  v : VReg
  mask : BitVec 8
  code : Nat
  ty : Nat
  member : Nat
  xb : Word
  deriving DecidableEq, Repr

/-- The rank of a member among the members on its die, in ascending core order (R282). -/
def Gang.dieRank (g : Gang) (id : Nat) : Nat := (g.members.filter fun k => dieOf k == dieOf id && decide (coreOf k < coreOf id)).length

/-- A member is selected (R282). -/
def Gang.selects (g : Gang) (mask code : Nat) (id : Nat) : Bool := bitOf mask (dieOf id) && g.dieRank id % 2 ^ code == 0

/-- An instance is closed once every member has executed it and each that it selected then has its strip, on whatever core it is by now (R285). -/
def Gang.closed (g : Gang) (x : GangInst) : Bool :=
  (List.range g.members.length).all x.executed.contains && x.selected.all x.received.contains

/-- Change an instance of a gang; closed instances leave. -/
def State.updInst (s : State) (gang n : Nat) (f : GangInst → GangInst) : State :=
  s.setLaunch fun l => { l with gangs := updWhere (fun g => g.id == gang) (fun g =>
    { g with insts := (updWhere (fun x => x.index == n) f g.insts).filter fun x => !g.closed x }) l.gangs }

/-- An instance of the current hart's gang. -/
def State.instOf (s : State) (gang n : Nat) : Option GangInst := (s.gang gang).bind fun g => g.insts.find? fun x => x.index == n

/-- A member's operands are those of the instance's first executor (R285). -/
def GangInst.agrees (x : GangInst) (o : GangOp) (vl : Nat) : Bool :=
  x.stream == o.stream && x.v == o.v && x.mask == o.mask.toNat && x.code == o.code && x.ty == o.ty && x.vl == vl && x.member == o.member &&
  (!o.stream || x.xb == o.xb)

/-- The instance that a first executor opens. -/
def GangOp.opened (o : GangOp) (n vl : Nat) : GangInst :=
  { index := n, stream := o.stream, v := o.v, mask := o.mask.toNat, code := o.code, ty := o.ty, vl := vl, member := o.member, xb := o.xb, data := none,
    executed := [], selected := [], received := [] }

/-- The conditions of a gang instruction on a member's operands (R131, R284, R285). -/
def State.gangLegal (s : State) (o : GangOp) (g : Gang) : Bool :=
  let h := s.hart
  !s.isSup && o.mask != 0 && inboxSize o.ty != 0 && (!g.selects o.mask.toNat o.code h.id || decide (h.vl ≤ h.capacity (mkTag o.ty false))) &&
  (o.stream || (decide (o.member < h.csr.gangsize.toNat) &&
    (h.csr.gangrank.toNat != o.member || (tagType (h.tagOf o.v) == o.ty && !tagCrumb (h.tagOf o.v) && h.fits (h.tagOf o.v)))))

/-- The current member has executed an instance: its count advances, and a selected member waits for its strip. -/
def State.gangDone (s : State) (i : Instr) (o : GangOp) (g : Gang) (n : Nat) : State :=
  let h := s.hart
  let rank := h.csr.gangrank.toNat
  let own := !o.stream && rank == o.member
  let sel := g.selects o.mask.toNat o.code h.id
  let kept := s.keep i o.xb 0 0 0
  let s1 := ({ s with nextOrder := s.nextOrder + 1 } : State).onHart fun h => { h.clearVstart with
    job := { h.job with ginst := h.job.ginst + 1 }
    strips := if sel && !own then h.strips ++ [⟨n, o.v, o.ty, h.vl, kept⟩] else h.strips }
  let s2 := s1.updInst g.id n fun x => { x with executed := x.executed ++ [rank], selected := if sel then x.selected ++ [rank] else x.selected, received := if sel && own then x.received ++ [rank] else x.received }
  (s2.adv 8).due (g.members.map fun id => .gangStripLand id n)

/-- The strip that an executor supplies: GSTREAM fetches it (R283), GBCAST's source copies it (R284). -/
def State.supply (s : State) (i : Instr) (o : GangOp) (g : Gang) (n : Nat) : State :=
  let h := s.hart
  let tag := mkTag o.ty false
  let t := inboxSize o.ty
  if o.stream then
    let addr (k : Nat) : Word := o.xb + BitVec.ofNat 64 (k * t)
    let r := s.probeElems addr t .read (List.range h.vl)
    match r.2 with
    | some (k, c) => s.raise i c (addr k) k
    | none => (s.cacheElems addr r.1).passGates i (r.1.map (·.2)) fun u =>
      (u.updInst g.id n fun x => { x with data := some (packElems tag h.ebits (r.1.map fun p => if p.2.reg.isSome then 0 else Memory.num u.mem p.2.loc t)) }).gangDone i o g n
  else if h.csr.gangrank.toNat = o.member then
    (s.updInst g.id n fun x => { x with data := some (packElems tag h.ebits ((List.range h.vl).map (h.elem o.v))) }).gangDone i o g n
  else s.gangDone i o g n

/-- A gang instruction: the operands, the instance it belongs to, a wait when it would open a fifth, its effect (R282 to R285). A member whose fetch traps has
opened the instance: later members must agree with its operands (DEDUCED, log entry 47). -/
def State.gangOp (s : State) (i : Instr) (o : GangOp) : State :=
  let n := s.hart.job.ginst
  match s.gang s.hart.job.gang with
  | none => s.illegalOperand i
  | some g =>
    if !s.gangLegal o g then s.illegalOperand i
    else match g.insts.find? fun x => x.index == n with
      | some x =>
        if !x.agrees o s.hart.vl then s.illegalOperand i
        else if x.data.isSome then s.gangDone i o g n
        else s.supply i o g n
      | none =>
        if 4 ≤ g.insts.length then s.waits i
        else
          let s1 := s.setLaunch fun l => { l with gangs := updWhere (fun y => y.id == g.id) (fun y => { y with insts := y.insts ++ [o.opened n s.hart.vl] }) l.gangs }
          s1.supply i o g n

/-- R283: GSTREAM. -/
def execGstream (v : VReg) (xb : XReg) (mask : BitVec 8) (code : BitVec 3) (ty : BitVec 5) (s : State) : Out :=
  .next (s.gangOp (.gstream v xb mask code ty) ⟨true, v, mask, code.toNat, ty.toNat, 0, s.rx xb⟩)

/-- R284: GBCAST. -/
def execGbcast (v : VReg) (member : BitVec 6) (mask : BitVec 8) (code : BitVec 3) (ty : BitVec 5) (s : State) : Out :=
  .next (s.gangOp (.gbcast v member mask code ty) ⟨false, v, mask, code.toNat, ty.toNat, member.toNat, 0⟩)

/-- The micro-op that delivers a strip has not issued at its memory port (R308). -/
def State.stripAtPort (s : State) (h : Hart) (x : Strip) : Bool := (s.windows h.id).any fun w => w.order == x.kept.order && !w.unissued.isEmpty

/-- R283, R284, R308: a strip lands in the register of a selected member that has executed the instance, through its memory port. -/
def execGangStripLand (hart n : Nat) (s : State) : Out :=
  .next (match s.hartById hart with
    | none => s
    | some h => match h.strips.find? (fun x => x.inst == n), s.instOf h.job.gang n with
      | some x, some g => match g.data with
        | some d => if s.stripAtPort h x then s else
          (s.updHart hart fun h => { h.setVec x.v (mkTag x.ty false) d with strips := h.strips.filter fun y => y.inst != n }).updInst h.job.gang n fun y =>
            { y with received := y.received ++ [h.csr.gangrank.toNat] }
        | none => s
      | _, _ => s)

end Sys2Proof.Machine
end

