-- ==== Sys2Proof/Machine/Fetch.lean ====
section
/-! DEFINITION. Fetching and decoding the instruction at the pc (R113 to R116, R163). -/

namespace Sys2Proof.Machine

/-- What a fetch gives: an instruction of the hart, the trap with the instruction word of its record, or the place that stops it. -/
inductive Fetched where
  | insn (i : Instr)
  | trap (insn : Nat) (t : Trap)
  /-- The gate of the place is not open (R425, R449, R450). -/
  | stopped (p : Place)
  deriving DecidableEq, Repr

/-- The bytes of the word or words at a place: four bytes, or eight when bit 0 is 1 and the address is a multiple of 8 (R113, R114). -/
def State.codeBytes (s : State) (loc : Nat) : List Byte :=
  let first := Memory.bytes s.mem loc 4
  if leNat first % 2 = 1 ∧ s.hart.pc.toNat % 8 = 0 then Memory.bytes s.mem loc 8 else first

/-- Fetch and decode at the pc: the fetch checks come first, then the encoding (R116). A fetch that fails its checks has read no instruction, so the first byte
and the function field of its TRAPSTAT are 0 (DEDUCED, log entry 21). -/
def State.fetch (s : State) : Fetched :=
  match s.probe s.hart.pc 4 4 .fetch with
  | .error c => .trap 0 { cause := c, val := s.hart.pc, elem := 0 }
  | .ok p =>
    if s.gate p ≠ .opened then .stopped p
    else
    let code := s.codeBytes p.loc
    match decodeBytes code with
    | .ok (i, _) => .insn i
    | .error _ => .trap (leNat code) (illegal .illegalInstruction (leNat code))

/-- A fetch that a gate stops: its context is killed, or the hart waits (R379, R425, R449, R450). -/
def State.fetchStopped (s : State) (p : Place) : State :=
  match s.gate p with
  | .fabric => s.fabricError p
  | .poisoned => s.poisonError p
  | _ => { s with hart := { s.hart with run := .waiting, wait := none } }

/-- Apply a function to the state of a next outcome. -/
def mapNext (f : State → State) : Host.Outcome State Fault Refusal → Host.Outcome State Fault Refusal
  | .next s => .next (f s)
  | .fault r => .fault r
  | .refused r => .refused r

/-- A hart at application level as a launch binds it (Table 1.3, R350), on core 0 of die 0 with a full grant, its pc at the start of the
core's LOCAL-VSP window, where the given bytes stand (DESIGN CHOICE, log entry 10). -/
def State.boundAt (s : State) (code : List Byte) : State :=
  { s with
    hart := { Hart.blank 0 with
      bound := true
      pc := 0xFF80000000000000
      vec := { Vec.zero with octets := 0xFF }
      grant := ⟨8, 8, 8, false, none⟩ }
    others := []
    agenda := []
    mem := Memory.put s.mem (locVsp 0 0 0) code }

end Sys2Proof.Machine
end

