-- ==== Sys2Proof/Machine/Traffic.lean ====
section
/-! DEFINITION. What travels in the meshes: the request flits of accesses and streams, the responses to them, and the ways of both between the dies, the hub and
the optical ports (R321 to R328, R334). An access is performed by its own step once its request has left (DESIGN CHOICE, log entry 15). -/

namespace Sys2Proof.Machine

/-! ### Requests -/

/-- The element accesses of an instruction as requests: a VM form, or one with a qos field. -/
def elementRequest (i : Instr) : Request :=
  match i with
  | .mdrainst _ _ _ _ _ _ _ _ qos => .coded qos
  | .vlds _ _ _ _ _ _ _ qos => .coded qos
  | .vldx _ _ _ _ _ _ _ _ qos => .coded qos
  | .vsts _ _ _ _ _ _ qos => .coded qos
  | .vstx _ _ _ _ _ _ qos => .coded qos
  | .vamoAdd _ _ _ _ _ _ _ qos _ _ => .coded qos
  | .vamoMin _ _ _ _ _ _ _ qos _ _ => .coded qos
  | .vamoMax _ _ _ _ _ _ _ qos _ _ => .coded qos
  | .vamoSwap _ _ _ _ _ _ _ qos _ _ => .coded qos
  | _ => .block

/-- The virtual channel of an access (Table 12.2). -/
def State.accessClass (s : State) (a : Access) : Nat :=
  match a.elem with
  | some e => match s.vgroups.find? fun g => g.grp == e.1 with
    | some g => match decodeTableWord 64 g.kept.insn.toNat with
      | some i => (elementRequest i).channel
      | none => Request.block.channel
    | none => Request.block.channel
  | none => match a.op with
    | .sync _ _ _ _ _ => Request.sync.channel
    | _ => (Request.scalar a.noc).channel

/-- The sender holds the flit of an access behind an earlier one that must come first: until that one is acknowledged when it travels in another class, and until
its flit has gone when it travels in the same (R328). -/
def State.holdsFlit (s : State) (earlier : List Access) (a : Access) : Bool :=
  earlier.any fun b => ({ b with performed := false } : Access).before a && (s.accessClass b != s.accessClass a || b.unsent)

/-- The first access of a core's harts whose request flit can enter the mesh. -/
def State.nextAccess (s : State) (die core : Nat) : Option Access :=
  ((List.range s.accesses.length).findSome? fun k => match s.accesses[k]? with
    | some a =>
      if dieOf a.hart == die && coreOf a.hart == core && a.unsent && !s.holdsFlit (s.accesses.take k) a then some a else none
    | none => none)

/-- Two accesses travel in one flit: elements of one instruction, one octet and one line (R324). -/
def Access.sharesFlit (a b : Access) : Bool :=
  a.hart == b.hart && a.order == b.order && a.side == b.side && a.elem.isSome == b.elem.isSome && a.loc / 64 == b.loc / 64 && (a.elem.isNone || a.sameGroup b)

/-- The request packet of an access: the bytes that it and those beside it move (R324). -/
def State.requestOf (s : State) (a : Access) (dst : Site) : Packet :=
  let l := s.accesses.filter (a.sharesFlit ·)
  { src := coreSite (dieOf a.hart) (coreOf a.hart), dst := dst, sender := .access a.hart a.order, vc := s.accessClass a, write := a.writes, line := a.loc / 64,
    bytes := min 64 (l.foldl (fun n b => n + b.op.size) 0) }

/-- What a unit of a stop has to send: its oldest waiting packet, or on the request network of a core the next access of its harts (R321). -/
def State.offered (s : State) (die stop net u : Nat) : Option Packet :=
  match (s.die die).noc.waiting.find? fun p => p.1 == net && p.2.src == Site.unit die stop u with
  | some p => some p.2
  | none =>
    if net = 0 ∧ u < 3 then (s.nextAccess die (3 * stop + u)).bind fun a => a.site.map (s.requestOf a ·) else none

/-- The packet that the local port takes: round-robin among the units of its stop, one whose channel has room (R321, R326). -/
def State.localPacket (s : State) (die stop net : Nat) : Option (Nat × Packet) :=
  let n := (s.die die).noc
  let last := Sparse.get 5 n.lastUnit (stop * 2 + net)
  ((List.range 6).map fun k => (last + 1 + k) % 6).findSome? fun u => match s.offered die stop net u with
    | some p => if n.hasRoom stop net 5 p.vc then some (u, p) else none
    | none => none

/-- Remove the first occurrence. -/
def dropFirst {α : Type} (p : α → Bool) : List α → List α
  | [] => []
  | x :: t => if p x then t else x :: dropFirst p t

/-- A unit has sent a packet: it no longer waits there, or its access has its flit. -/
def State.sentBy (s : State) (die stop net u : Nat) : State :=
  let t := s.updNoc die fun n => { n with lastUnit := Sparse.set 5 n.lastUnit (stop * 2 + net) u }
  if (s.die die).noc.waiting.any fun q => q.1 == net && q.2.src == Site.unit die stop u then
    t.updNoc die fun n => { n with waiting := dropFirst (fun q => q.1 == net && q.2.src == Site.unit die stop u) n.waiting }
  else match s.nextAccess die (3 * stop + u) with
    | some a => { t with accesses := updWhere (a.sharesFlit ·) (fun b => { b with sent := true }) t.accesses }
    | none => t

/-! ### Arrivals -/

/-- The packets at a router's input for a channel: over a link the first, from outside any (R325, R326). -/
def Noc.arriving (n : Noc) (stop net input vc k : Nat) : Option Crossing :=
  (n.crossing.filter fun c => c.stop == stop && c.net == net && c.input == input && c.packet.vc == vc)[if (neighbour stop input).isSome then 0 else k]?

/-- R325, R326: a flit enters a router whose input has a place for its channel, and route computation gives it an output. At the local port it is the packet whose
turn it is, at a link the one that crosses it, and at an external port the k-th that waits there. -/
def execFlitArrival (die stop net input vc k : Nat) (s : State) : Out :=
  let n := (s.die die).noc
  .next (if !decide (stop < 16) || !decide (net < 2) then s
    else if input = 5 then match s.localPacket die stop net with
      | some (u, p) => if p.vc = vc then (s.sentBy die stop net u).updNoc die fun n => n.enter stop net 5 (s.outputOf die stop net p) p else s
      | none => s
    else match n.arriving stop net input vc k with
      | some c =>
        if n.hasRoom stop net input vc then
          s.updNoc die fun n => ({ n with crossing := dropFirst (· == c) n.crossing } : Noc).enter stop net input (s.outputOf die stop net c.packet) c.packet
        else s
      | none => s)

/-! ### Departures -/

/-- A request has reached the unit or the agent that serves it: its response stands where it leaves from (R324, R328). -/
def State.respondFlit (s : State) (die : Nat) (p : Packet) : State := s.updNoc die fun n => { n with waiting := n.waiting ++ [(1, p.answer)] }

/-- A response has reached its core: the data of a line of a stream is there. -/
def State.receive (s : State) (p : Packet) : State :=
  match p.sender with
  | .stream hart h => s.answerLine hart h p.line
  | .access _ _ => s

/-- The column at which traffic from the hub enters a die: that of its destination (R323). -/
def hubEntry (dst : Site) (stop : Nat) : Nat :=
  match dst with
  | .unit _ t _ => hubStop t
  | _ => hubStop (opticalStop stop)

/-- A packet leaves a die by a hub port: it goes to another die's mesh, or the agent behind the hub answers it. -/
def State.leaveByHub (s : State) (die stop net : Nat) (p : Packet) : State :=
  match p.dst with
  | .unit d _ _ => s.crosses d ⟨hubEntry p.dst stop, net, 0, p⟩
  | .package k => match s.routeVia k with
    | some d => s.crosses d ⟨hubEntry p.dst stop, net, 0, p⟩
    | none => s
  | .hub => s.crosses die ⟨hubEntry p.answer.dst stop, 1, 0, p.answer⟩

/-- A packet leaves for another package by an optical link: LINKSTAT.RETRIES counts the link-level retries that it takes, a free value (R425, DESIGN CHOICE,
log entry 8). -/
def State.crossFibre (s : State) (die : Nat) : State :=
  let j := Fin.ofNat 4 (die / 2)
  { s with free := s.free + 1, fabric := { s.fabric with retries := s.fabric.retries.set j.val (s.fabric.retries.get j + (Config.freeWord s.free).setWidth 32) j.isLt } }

/-- A granted packet leaves an output port (R322, R325): it crosses a link, reaches a unit of the stop, or leaves the die. -/
def State.carry (s : State) (die stop net out : Nat) (p : Packet) : State :=
  if out = 5 then (if net = 0 then s.respondFlit die p else s.receive p)
  else match neighbour stop out with
    | some t => s.crosses die ⟨t, net, (out + 2) % 4, p⟩
    | none => match external die stop out with
      | .hub => s.leaveByHub die stop net p
      | .ring d => s.crosses d (if stop = 4 then ⟨7, net, if out = 4 then 4 else 1, p⟩ else ⟨4, net, if out = 4 then 4 else 3, p⟩)
      | .optical => if net = 0 then (s.crossFibre die).crosses die ⟨stop, 1, 2, p.answer⟩ else s
      | _ => s

/-- R329: OUTPUT_PORT_GRANT. -/
def execOutputPortGrant (die stop net out : Nat) (s : State) : Out :=
  let r := (s.die die).noc.grant stop net out
  let t := s.updNoc die fun _ => r.1
  .next (match r.2 with
    | some f => t.carry die stop net out f.packet
    | none => t)

/-! ### Ticks -/

/-- In a tick one flit enters each input of a router on each network (R321, R322, R326): over a link or an external port the first packet there whose channel has
room, through the local port the packet whose turn it is. -/
def State.meshArrivals (s : State) (die : Nat) : State :=
  let n := (s.die die).noc
  let t := (n.crossing.map fun c => (c.stop, c.net, c.input)).eraseDups.foldl (fun t x =>
    match n.crossing.find? fun c => (c.stop, c.net, c.input) == x && n.hasRoom c.stop c.net c.input c.packet.vc with
    | some c => nextState (execFlitArrival die c.stop c.net c.input c.packet.vc 0 t) t
    | none => t) s
  (List.range 32).foldl (fun t x => match t.localPacket die (x / 2) (x % 2) with
    | some (_, p) => nextState (execFlitArrival die (x / 2) (x % 2) 5 p.vc 0 t) t
    | none => t) t

/-- Every output port has its tick: it grants, or loads its credits (R329). A port that has held no flit has none to load before its first grant. -/
def State.meshGrants (s : State) (die : Nat) : State :=
  (s.die die).noc.ports.foldl (fun t p => nextState (execOutputPortGrant die (p.1 / 12) (p.1 / 6 % 2) (p.1 % 6) t) t) s

/-- A mesh holds a packet, or a port of it has yet to load its credits. -/
def Noc.busy (n : Noc) : Bool :=
  !n.crossing.isEmpty || !n.waiting.isEmpty || n.ports.any fun p => !p.2.flits.isEmpty || p.2.credit != Vector.ofFn fun (i : Fin 3) => n.weight i.val

/-- A die's mesh has work: what it holds, and the requests of its cores that have not left. -/
def State.hasTraffic (s : State) (die : Nat) : Bool := (s.die die).noc.busy || s.accesses.any fun a => dieOf a.hart == die && a.unsent

/-- One tick of every mesh: each output port grants, then what crosses arrives. The ticks go on while a mesh is busy. -/
def State.meshTick (s : State) : State :=
  let t := (List.range 8).foldl (fun t d => if t.hasTraffic d then (t.meshGrants d).meshArrivals d else t) s
  if t.dies.toList.any fun d => d.noc.busy then t.dueOnce .meshTick else t

end Sys2Proof.Machine
end

