-- ==== Sys2Proof/Machine/Sources.lean ====
section
/-! DEFINITION. What an instruction names, as its entry of an in-flight record and the interlocks need it: the registers it reads and writes, the
same instruction under another mask, and the meaning of a vector instruction that is reissued (R363, R368, R375). -/

namespace Sys2Proof.Machine

/-- The registers that source codes of a map word stand for (R368), and the governing mask. A store's and a VAMO's data register counts as va, a
load's register as the old vd, and the second register of a source pair as vb (DEDUCED, log entry 37). -/
structure Roles where
  va : Option VReg
  vb : Option VReg
  vd : Option VReg
  vi : Option VReg
  m : MReg
  deriving DecidableEq, Repr

/-- The roles of an instruction that an in-flight record can hold. -/
def insnRoles (i : Instr) : Roles :=
  match i with
  | .vadd vd va vb m _ _ _ => ⟨some va, some vb, some vd, none, m⟩
  | .vsub vd va vb m _ _ _ => ⟨some va, some vb, some vd, none, m⟩
  | .vmul vd va vb m _ _ _ => ⟨some va, some vb, some vd, none, m⟩
  | .vmulh vd va vb m _ _ _ => ⟨some va, some vb, some vd, none, m⟩
  | .vdiv vd va vb m _ _ _ => ⟨some va, some vb, some vd, none, m⟩
  | .vfma vd va vb m _ _ _ => ⟨some va, some vb, some vd, none, m⟩
  | .vfms vd va vb m _ _ _ => ⟨some va, some vb, some vd, none, m⟩
  | .vfnma vd va vb m _ _ _ => ⟨some va, some vb, some vd, none, m⟩
  | .vmin vd va vb m _ _ _ => ⟨some va, some vb, some vd, none, m⟩
  | .vmax vd va vb m _ _ _ => ⟨some va, some vb, some vd, none, m⟩
  | .vadds vd va vb m _ _ _ => ⟨some va, some vb, some vd, none, m⟩
  | .vsubs vd va vb m _ _ _ => ⟨some va, some vb, some vd, none, m⟩
  | .vand vd va vb m _ _ _ => ⟨some va, some vb, some vd, none, m⟩
  | .vor vd va vb m _ _ _ => ⟨some va, some vb, some vd, none, m⟩
  | .vxor vd va vb m _ _ _ => ⟨some va, some vb, some vd, none, m⟩
  | .vsll vd va vb m _ _ _ => ⟨some va, some vb, some vd, none, m⟩
  | .vsrl vd va vb m _ _ _ => ⟨some va, some vb, some vd, none, m⟩
  | .vsra vd va vb m _ _ _ => ⟨some va, some vb, some vd, none, m⟩
  | .vcmp _ _ va vb m _ _ _ => ⟨some va, some vb, none, none, m⟩
  | .vmerge vd va vb m _ _ => ⟨some va, some vb, some vd, none, m⟩
  | .vmulsc vd va vb m _ _ _ => ⟨some va, some vb, some vd, none, m⟩
  | .vperm vd va vb m _ _ _ => ⟨some va, some vb, some vd, none, m⟩
  | .vzipLo vd va m _ _ => ⟨some va, some (nextReg va), some vd, none, m⟩
  | .vzipHi vd va m _ _ => ⟨some va, some (nextReg va), some vd, none, m⟩
  | .vunzipEven vd va m _ _ => ⟨some va, some (nextReg va), some vd, none, m⟩
  | .vunzipOdd vd va m _ _ => ⟨some va, some (nextReg va), some vd, none, m⟩
  | .vsqrt vd va m _ _ => ⟨some va, none, some vd, none, m⟩
  | .vabs vd va m _ _ => ⟨some va, none, some vd, none, m⟩
  | .vneg vd va m _ _ => ⟨some va, none, some vd, none, m⟩
  | .vmov vd va m _ _ => ⟨some va, none, some vd, none, m⟩
  | .vreshuf vd va m _ _ => ⟨some va, none, some vd, none, m⟩
  | .vcompress vd va m _ => ⟨some va, none, some vd, none, m⟩
  | .vexpand vd va m _ _ => ⟨some va, none, some vd, none, m⟩
  | .viota vd m _ _ => ⟨none, none, some vd, none, m⟩
  | .vcvt vd va _ _ m _ _ => ⟨some va, some (nextReg va), some vd, none, m⟩
  | .vsf vd va _ m _ _ => ⟨some va, none, some vd, none, m⟩
  | .vsfrr vd va _ m _ _ => ⟨some va, none, some vd, none, m⟩
  | .vsftab vd va _ m _ _ => ⟨some va, none, some vd, none, m⟩
  | .vsfpoly vd va vb m _ _ _ => ⟨some va, some vb, some vd, none, m⟩
  | .vsfscl vd va vb m _ _ _ => ⟨some va, some vb, some vd, none, m⟩
  | .vrngN32 vd m _ => ⟨none, none, some vd, none, m⟩
  | .vrngN64 vd m _ => ⟨none, none, some vd, none, m⟩
  | .vrngF32 vd m _ => ⟨none, none, some vd, none, m⟩
  | .vaddX vd va _ _ m _ _ => ⟨some va, none, some vd, none, m⟩
  | .vsubX vd va _ _ m _ _ => ⟨some va, none, some vd, none, m⟩
  | .vmulX vd va _ _ m _ _ => ⟨some va, none, some vd, none, m⟩
  | .vfmaX vd va _ _ m _ _ => ⟨some va, none, some vd, none, m⟩
  | .vminX vd va _ _ m _ _ => ⟨some va, none, some vd, none, m⟩
  | .vmaxX vd va _ _ m _ _ => ⟨some va, none, some vd, none, m⟩
  | .vandX vd va _ _ m _ _ => ⟨some va, none, some vd, none, m⟩
  | .vorX vd va _ _ m _ _ => ⟨some va, none, some vd, none, m⟩
  | .vxorX vd va _ _ m _ _ => ⟨some va, none, some vd, none, m⟩
  | .vsllX vd va _ _ m _ _ => ⟨some va, none, some vd, none, m⟩
  | .vsrlX vd va _ _ m _ _ => ⟨some va, none, some vd, none, m⟩
  | .vsraX vd va _ _ m _ _ => ⟨some va, none, some vd, none, m⟩
  | .vcmpX _ _ va _ _ m _ _ => ⟨some va, none, none, none, m⟩
  | .vbcast vd _ _ m _ => ⟨none, none, some vd, none, m⟩
  | .vmvx _ va _ _ _ => ⟨some va, none, none, none, 0⟩
  | .vxmv vd _ _ _ => ⟨none, none, some vd, none, 0⟩
  | .vaddi vd va _ m _ _ => ⟨some va, none, some vd, none, m⟩
  | .vandi vd va _ m _ _ => ⟨some va, none, some vd, none, m⟩
  | .vslli vd va _ m _ _ => ⟨some va, none, some vd, none, m⟩
  | .vsrli vd va _ m _ _ => ⟨some va, none, some vd, none, m⟩
  | .vsrai vd va _ m _ _ => ⟨some va, none, some vd, none, m⟩
  | .vslideup vd va _ m _ _ => ⟨some va, none, some vd, none, m⟩
  | .vslidedn vd va _ m _ _ => ⟨some va, none, some vd, none, m⟩
  | .vring vd va _ m _ _ => ⟨some va, none, some vd, none, m⟩
  | .vrsum vd va m _ => ⟨some va, some (nextReg va), some vd, none, m⟩
  | .vrmax vd va m _ => ⟨some va, none, some vd, none, m⟩
  | .vrmin vd va m _ => ⟨some va, none, some vd, none, m⟩
  | .vrssq vd va m _ => ⟨some va, some (nextReg va), some vd, none, m⟩
  | .vsoftmax vd va m _ _ => ⟨some va, none, some vd, none, m⟩
  | .vrnormRms vd va m _ _ => ⟨some va, none, some vd, none, m⟩
  | .vrnormLayer vd va m _ _ => ⟨some va, none, some vd, none, m⟩
  | .vtmovRow vd va _ _ => ⟨some va, none, some vd, none, 0⟩
  | .vtmovCol vd va _ _ => ⟨some va, none, some vd, none, 0⟩
  | .vld v _ _ _ m => ⟨none, none, some v, none, m⟩
  | .vldff v _ _ _ m => ⟨none, none, some v, none, m⟩
  | .vldm v _ _ _ m => ⟨none, none, some v, none, m⟩
  | .vst v _ m _ => ⟨some v, none, none, none, m⟩
  | .vstff v _ m _ => ⟨some v, none, none, none, m⟩
  | .mdrainst _ _ vi ix m _ _ _ _ => ⟨none, none, none, (if ix then some vi else none), m⟩
  | .vlds v _ _ _ m _ _ _ => ⟨none, none, some v, none, m⟩
  | .vldx v _ vi _ m _ _ _ _ => ⟨none, none, some v, some vi, m⟩
  | .vsts v _ _ m _ _ _ => ⟨some v, none, none, none, m⟩
  | .vstx v _ vi m _ _ _ => ⟨some v, none, none, some vi, m⟩
  | .vamoAdd v _ vi _ m _ _ _ _ _ => ⟨some v, none, none, some vi, m⟩
  | .vamoMin v _ vi _ m _ _ _ _ _ => ⟨some v, none, none, some vi, m⟩
  | .vamoMax v _ vi _ m _ _ _ _ _ => ⟨some v, none, none, some vi, m⟩
  | .vamoSwap v _ vi _ m _ _ _ _ _ => ⟨some v, none, none, some vi, m⟩
  | .vappend va _ m _ _ _ => ⟨some va, none, none, none, m⟩
  | .vappendIdx _ m _ _ _ => ⟨none, none, none, none, m⟩
  | .vscatr va vb _ m _ _ _ => ⟨some va, some vb, none, none, m⟩
  | .vroute vd va vb m _ => ⟨some va, some vb, some vd, none, m⟩
  | .vmxq vd _ va _ m _ _ _ => ⟨some va, none, some vd, none, m⟩
  | .strm _ _ _ _ _ _ _ ix vi _ => ⟨none, none, none, (if ix then some vi else none), 0⟩
  | .strmw _ _ _ _ _ _ _ ix vi _ => ⟨none, none, none, (if ix then some vi else none), 0⟩
  | _ => ⟨none, none, none, none, 0⟩

/-- The scalar sources of a vector instruction, in the order of operand words A and B (R368). -/
def insnSources (i : Instr) : List XReg :=
  match i with
  | .vaddX _ _ xs _ _ _ _ => [xs]
  | .vsubX _ _ xs _ _ _ _ => [xs]
  | .vmulX _ _ xs _ _ _ _ => [xs]
  | .vfmaX _ _ xs _ _ _ _ => [xs]
  | .vminX _ _ xs _ _ _ _ => [xs]
  | .vmaxX _ _ xs _ _ _ _ => [xs]
  | .vandX _ _ xs _ _ _ _ => [xs]
  | .vorX _ _ xs _ _ _ _ => [xs]
  | .vxorX _ _ xs _ _ _ _ => [xs]
  | .vsllX _ _ xs _ _ _ _ => [xs]
  | .vsrlX _ _ xs _ _ _ _ => [xs]
  | .vsraX _ _ xs _ _ _ _ => [xs]
  | .vcmpX _ _ _ xs _ _ _ _ => [xs]
  | .vbcast _ xs _ _ _ => [xs]
  | .vmvx _ _ xi _ _ => [xi]
  | .vxmv _ xs xi _ => [xs, xi]
  | .vrnormRms _ _ _ _ _ => [31]
  | .vrnormLayer _ _ _ _ _ => [31]
  | .vtmovRow _ _ xi _ => [xi]
  | .vtmovCol _ _ xi _ => [xi]
  | .vld _ xb _ _ _ => [xb]
  | .vldff _ xb _ _ _ => [xb]
  | .vldm _ xb _ _ _ => [xb]
  | .vst _ xb _ _ => [xb]
  | .vstff _ xb _ _ => [xb]
  | .mdrainst xb xstride _ _ _ _ _ _ _ => [xb, xstride]
  | .vlds _ xb xs _ _ _ _ _ => [xb, xs]
  | .vldx _ xb _ _ _ _ _ _ _ => [xb]
  | .vsts _ xb xs _ _ _ _ => [xb, xs]
  | .vstx _ xb _ _ _ _ _ => [xb]
  | .vamoAdd _ xb _ _ _ _ _ _ _ _ => [xb]
  | .vamoMin _ xb _ _ _ _ _ _ _ _ => [xb]
  | .vamoMax _ xb _ _ _ _ _ _ _ _ => [xb]
  | .vamoSwap _ xb _ _ _ _ _ _ _ _ => [xb]
  | _ => []

/-- The z bit of an instruction that has one (R118): masked-off elements are written zero. -/
def insnZeroes (i : Instr) : Bool :=
  match i with
  | .vadd _ _ _ _ _ _ z => z
  | .vsub _ _ _ _ _ _ z => z
  | .vmul _ _ _ _ _ _ z => z
  | .vmulh _ _ _ _ _ _ z => z
  | .vdiv _ _ _ _ _ _ z => z
  | .vfma _ _ _ _ _ _ z => z
  | .vfms _ _ _ _ _ _ z => z
  | .vfnma _ _ _ _ _ _ z => z
  | .vmin _ _ _ _ _ _ z => z
  | .vmax _ _ _ _ _ _ z => z
  | .vadds _ _ _ _ _ _ z => z
  | .vsubs _ _ _ _ _ _ z => z
  | .vand _ _ _ _ _ _ z => z
  | .vor _ _ _ _ _ _ z => z
  | .vxor _ _ _ _ _ _ z => z
  | .vsll _ _ _ _ _ _ z => z
  | .vsrl _ _ _ _ _ _ z => z
  | .vsra _ _ _ _ _ _ z => z
  | .vcmp _ _ _ _ _ _ _ z => z
  | .vmulsc _ _ _ _ _ _ z => z
  | .vperm _ _ _ _ _ _ z => z
  | .vzipLo _ _ _ _ z => z
  | .vzipHi _ _ _ _ z => z
  | .vunzipEven _ _ _ _ z => z
  | .vunzipOdd _ _ _ _ z => z
  | .vsqrt _ _ _ _ z => z
  | .vabs _ _ _ _ z => z
  | .vneg _ _ _ _ z => z
  | .vmov _ _ _ _ z => z
  | .vreshuf _ _ _ _ z => z
  | .vexpand _ _ _ _ z => z
  | .viota _ _ _ z => z
  | .vcvt _ _ _ _ _ _ z => z
  | .vsf _ _ _ _ _ z => z
  | .vsfrr _ _ _ _ _ z => z
  | .vsftab _ _ _ _ _ z => z
  | .vsfpoly _ _ _ _ _ _ z => z
  | .vsfscl _ _ _ _ _ _ z => z
  | .vrngN32 _ _ z => z
  | .vrngN64 _ _ z => z
  | .vrngF32 _ _ z => z
  | .vaddX _ _ _ _ _ _ z => z
  | .vsubX _ _ _ _ _ _ z => z
  | .vmulX _ _ _ _ _ _ z => z
  | .vfmaX _ _ _ _ _ _ z => z
  | .vminX _ _ _ _ _ _ z => z
  | .vmaxX _ _ _ _ _ _ z => z
  | .vandX _ _ _ _ _ _ z => z
  | .vorX _ _ _ _ _ _ z => z
  | .vxorX _ _ _ _ _ _ z => z
  | .vsllX _ _ _ _ _ _ z => z
  | .vsrlX _ _ _ _ _ _ z => z
  | .vsraX _ _ _ _ _ _ z => z
  | .vcmpX _ _ _ _ _ _ _ z => z
  | .vbcast _ _ _ _ z => z
  | .vaddi _ _ _ _ _ z => z
  | .vandi _ _ _ _ _ z => z
  | .vslli _ _ _ _ _ z => z
  | .vsrli _ _ _ _ _ z => z
  | .vsrai _ _ _ _ _ z => z
  | .vslideup _ _ _ _ _ z => z
  | .vslidedn _ _ _ _ _ z => z
  | .vring _ _ _ _ _ z => z
  | .vsoftmax _ _ _ _ z => z
  | .vrnormRms _ _ _ _ z => z
  | .vrnormLayer _ _ _ _ z => z
  | .vld _ _ _ z _ => z
  | .vldff _ _ _ z _ => z
  | .vldm _ _ _ z _ => z
  | .vlds _ _ _ _ _ _ z _ => z
  | .vldx _ _ _ _ _ _ _ z _ => z
  | .vamoAdd _ _ _ _ _ _ z _ _ _ => z
  | .vamoMin _ _ _ _ _ _ z _ _ _ => z
  | .vamoMax _ _ _ _ _ _ z _ _ _ => z
  | .vamoSwap _ _ _ _ _ _ z _ _ _ => z
  | _ => false

/-- The same instruction under another mask and without zeroing: it writes the elements of that mask and keeps the others. None for an instruction
of which m is no mask of its elements. -/
def remask (i : Instr) (k : MReg) : Option Instr :=
  match i with
  | .vadd vd va vb _ ca cb _ => some (.vadd vd va vb k ca cb false)
  | .vsub vd va vb _ ca cb _ => some (.vsub vd va vb k ca cb false)
  | .vmul vd va vb _ ca cb _ => some (.vmul vd va vb k ca cb false)
  | .vmulh vd va vb _ ca cb _ => some (.vmulh vd va vb k ca cb false)
  | .vdiv vd va vb _ ca cb _ => some (.vdiv vd va vb k ca cb false)
  | .vfma vd va vb _ ca cb _ => some (.vfma vd va vb k ca cb false)
  | .vfms vd va vb _ ca cb _ => some (.vfms vd va vb k ca cb false)
  | .vfnma vd va vb _ ca cb _ => some (.vfnma vd va vb k ca cb false)
  | .vmin vd va vb _ ca cb _ => some (.vmin vd va vb k ca cb false)
  | .vmax vd va vb _ ca cb _ => some (.vmax vd va vb k ca cb false)
  | .vadds vd va vb _ ca cb _ => some (.vadds vd va vb k ca cb false)
  | .vsubs vd va vb _ ca cb _ => some (.vsubs vd va vb k ca cb false)
  | .vand vd va vb _ ca cb _ => some (.vand vd va vb k ca cb false)
  | .vor vd va vb _ ca cb _ => some (.vor vd va vb k ca cb false)
  | .vxor vd va vb _ ca cb _ => some (.vxor vd va vb k ca cb false)
  | .vsll vd va vb _ ca cb _ => some (.vsll vd va vb k ca cb false)
  | .vsrl vd va vb _ ca cb _ => some (.vsrl vd va vb k ca cb false)
  | .vsra vd va vb _ ca cb _ => some (.vsra vd va vb k ca cb false)
  | .vcmp md cond va vb _ ca cb _ => some (.vcmp md cond va vb k ca cb false)
  | .vmulsc vd va vb _ ca cb _ => some (.vmulsc vd va vb k ca cb false)
  | .vperm vd va vb _ ca cb _ => some (.vperm vd va vb k ca cb false)
  | .vzipLo vd va _ ca _ => some (.vzipLo vd va k ca false)
  | .vzipHi vd va _ ca _ => some (.vzipHi vd va k ca false)
  | .vunzipEven vd va _ ca _ => some (.vunzipEven vd va k ca false)
  | .vunzipOdd vd va _ ca _ => some (.vunzipOdd vd va k ca false)
  | .vsqrt vd va _ ca _ => some (.vsqrt vd va k ca false)
  | .vabs vd va _ ca _ => some (.vabs vd va k ca false)
  | .vneg vd va _ ca _ => some (.vneg vd va k ca false)
  | .vmov vd va _ ca _ => some (.vmov vd va k ca false)
  | .vreshuf vd va _ ca _ => some (.vreshuf vd va k ca false)
  | .vcompress vd va _ ca => some (.vcompress vd va k ca)
  | .vexpand vd va _ ca _ => some (.vexpand vd va k ca false)
  | .viota vd _ ca _ => some (.viota vd k ca false)
  | .vcvt vd va ty sr _ ca _ => some (.vcvt vd va ty sr k ca false)
  | .vsf vd va fn _ ca _ => some (.vsf vd va fn k ca false)
  | .vsfrr vd va fn _ ca _ => some (.vsfrr vd va fn k ca false)
  | .vsftab vd va fn _ ca _ => some (.vsftab vd va fn k ca false)
  | .vsfpoly vd va vb _ ca cb _ => some (.vsfpoly vd va vb k ca cb false)
  | .vsfscl vd va vb _ ca cb _ => some (.vsfscl vd va vb k ca cb false)
  | .vrngN32 vd _ _ => some (.vrngN32 vd k false)
  | .vrngN64 vd _ _ => some (.vrngN64 vd k false)
  | .vrngF32 vd _ _ => some (.vrngF32 vd k false)
  | .vaddX vd va xs sw _ ca _ => some (.vaddX vd va xs sw k ca false)
  | .vsubX vd va xs sw _ ca _ => some (.vsubX vd va xs sw k ca false)
  | .vmulX vd va xs sw _ ca _ => some (.vmulX vd va xs sw k ca false)
  | .vfmaX vd va xs sw _ ca _ => some (.vfmaX vd va xs sw k ca false)
  | .vminX vd va xs sw _ ca _ => some (.vminX vd va xs sw k ca false)
  | .vmaxX vd va xs sw _ ca _ => some (.vmaxX vd va xs sw k ca false)
  | .vandX vd va xs sw _ ca _ => some (.vandX vd va xs sw k ca false)
  | .vorX vd va xs sw _ ca _ => some (.vorX vd va xs sw k ca false)
  | .vxorX vd va xs sw _ ca _ => some (.vxorX vd va xs sw k ca false)
  | .vsllX vd va xs sw _ ca _ => some (.vsllX vd va xs sw k ca false)
  | .vsrlX vd va xs sw _ ca _ => some (.vsrlX vd va xs sw k ca false)
  | .vsraX vd va xs sw _ ca _ => some (.vsraX vd va xs sw k ca false)
  | .vcmpX md cond va xs sw _ ca _ => some (.vcmpX md cond va xs sw k ca false)
  | .vbcast vd xs sw _ _ => some (.vbcast vd xs sw k false)
  | .vaddi vd va imm _ ca _ => some (.vaddi vd va imm k ca false)
  | .vandi vd va imm _ ca _ => some (.vandi vd va imm k ca false)
  | .vslli vd va imm _ ca _ => some (.vslli vd va imm k ca false)
  | .vsrli vd va imm _ ca _ => some (.vsrli vd va imm k ca false)
  | .vsrai vd va imm _ ca _ => some (.vsrai vd va imm k ca false)
  | .vslideup vd va imm _ ca _ => some (.vslideup vd va imm k ca false)
  | .vslidedn vd va imm _ ca _ => some (.vslidedn vd va imm k ca false)
  | .vring vd va imm _ ca _ => some (.vring vd va imm k ca false)
  | .vrsum vd va _ ca => some (.vrsum vd va k ca)
  | .vrmax vd va _ ca => some (.vrmax vd va k ca)
  | .vrmin vd va _ ca => some (.vrmin vd va k ca)
  | .vrssq vd va _ ca => some (.vrssq vd va k ca)
  | .vsoftmax vd va _ ca _ => some (.vsoftmax vd va k ca false)
  | .vrnormRms vd va _ ca _ => some (.vrnormRms vd va k ca false)
  | .vrnormLayer vd va _ ca _ => some (.vrnormLayer vd va k ca false)
  | .vld v xb ty _ _ => some (.vld v xb ty false k)
  | .vldff v xb ty _ _ => some (.vldff v xb ty false k)
  | .vst v xb _ ca => some (.vst v xb k ca)
  | .vstff v xb _ ca => some (.vstff v xb k ca)
  | .mdrainst xb xstride vi ix _ tres rnd sat qos => some (.mdrainst xb xstride vi ix k tres rnd sat qos)
  | .vlds v xb xs ty _ ff _ qos => some (.vlds v xb xs ty k ff false qos)
  | .vldx v xb vi ty _ ca ff _ qos => some (.vldx v xb vi ty k ca ff false qos)
  | .vsts v xb xs _ ca ff qos => some (.vsts v xb xs k ca ff qos)
  | .vstx v xb vi _ ca ff qos => some (.vstx v xb vi k ca ff qos)
  | .vamoAdd v xb vi ty _ ca _ qos ord scope => some (.vamoAdd v xb vi ty k ca false qos ord scope)
  | .vamoMin v xb vi ty _ ca _ qos ord scope => some (.vamoMin v xb vi ty k ca false qos ord scope)
  | .vamoMax v xb vi ty _ ca _ qos ord scope => some (.vamoMax v xb vi ty k ca false qos ord scope)
  | .vamoSwap v xb vi ty _ ca _ qos ord scope => some (.vamoSwap v xb vi ty k ca false qos ord scope)
  | .vroute vd va vb _ qos => some (.vroute vd va vb k qos)
  | .vmxq vd vs va ty _ rnd sat qos => some (.vmxq vd vs va ty k rnd sat qos)
  | _ => none

/-- The meaning of a vector instruction that an entry of kind 1 to 5 can hold. -/
def runVector (i : Instr) (s : State) : Option Out :=
  match i with
  | .vadd vd va vb m ca cb z => some (execVadd vd va vb m ca cb z s)
  | .vsub vd va vb m ca cb z => some (execVsub vd va vb m ca cb z s)
  | .vmul vd va vb m ca cb z => some (execVmul vd va vb m ca cb z s)
  | .vmulh vd va vb m ca cb z => some (execVmulh vd va vb m ca cb z s)
  | .vdiv vd va vb m ca cb z => some (execVdiv vd va vb m ca cb z s)
  | .vfma vd va vb m ca cb z => some (execVfma vd va vb m ca cb z s)
  | .vfms vd va vb m ca cb z => some (execVfms vd va vb m ca cb z s)
  | .vfnma vd va vb m ca cb z => some (execVfnma vd va vb m ca cb z s)
  | .vmin vd va vb m ca cb z => some (execVmin vd va vb m ca cb z s)
  | .vmax vd va vb m ca cb z => some (execVmax vd va vb m ca cb z s)
  | .vadds vd va vb m ca cb z => some (execVadds vd va vb m ca cb z s)
  | .vsubs vd va vb m ca cb z => some (execVsubs vd va vb m ca cb z s)
  | .vand vd va vb m ca cb z => some (execVand vd va vb m ca cb z s)
  | .vor vd va vb m ca cb z => some (execVor vd va vb m ca cb z s)
  | .vxor vd va vb m ca cb z => some (execVxor vd va vb m ca cb z s)
  | .vsll vd va vb m ca cb z => some (execVsll vd va vb m ca cb z s)
  | .vsrl vd va vb m ca cb z => some (execVsrl vd va vb m ca cb z s)
  | .vsra vd va vb m ca cb z => some (execVsra vd va vb m ca cb z s)
  | .vcmp md cond va vb m ca cb z => some (execVcmp md cond va vb m ca cb z s)
  | .vmerge vd va vb m ca cb => some (execVmerge vd va vb m ca cb s)
  | .vmulsc vd va vb m ca cb z => some (execVmulsc vd va vb m ca cb z s)
  | .vperm vd va vb m ca cb z => some (execVperm vd va vb m ca cb z s)
  | .vzipLo vd va m ca z => some (execVzipLo vd va m ca z s)
  | .vzipHi vd va m ca z => some (execVzipHi vd va m ca z s)
  | .vunzipEven vd va m ca z => some (execVunzipEven vd va m ca z s)
  | .vunzipOdd vd va m ca z => some (execVunzipOdd vd va m ca z s)
  | .vsqrt vd va m ca z => some (execVsqrt vd va m ca z s)
  | .vabs vd va m ca z => some (execVabs vd va m ca z s)
  | .vneg vd va m ca z => some (execVneg vd va m ca z s)
  | .vmov vd va m ca z => some (execVmov vd va m ca z s)
  | .vreshuf vd va m ca z => some (execVreshuf vd va m ca z s)
  | .vcompress vd va m ca => some (execVcompress vd va m ca s)
  | .vexpand vd va m ca z => some (execVexpand vd va m ca z s)
  | .viota vd m ca z => some (execViota vd m ca z s)
  | .vcvt vd va ty sr m ca z => some (execVcvt vd va ty sr m ca z s)
  | .vsf vd va fn m ca z => some (execVsf vd va fn m ca z s)
  | .vsfrr vd va fn m ca z => some (execVsfrr vd va fn m ca z s)
  | .vsftab vd va fn m ca z => some (execVsftab vd va fn m ca z s)
  | .vsfpoly vd va vb m ca cb z => some (execVsfpoly vd va vb m ca cb z s)
  | .vsfscl vd va vb m ca cb z => some (execVsfscl vd va vb m ca cb z s)
  | .vrngN32 vd m z => some (execVrngN32 vd m z s)
  | .vrngN64 vd m z => some (execVrngN64 vd m z s)
  | .vrngF32 vd m z => some (execVrngF32 vd m z s)
  | .vaddX vd va xs sw m ca z => some (execVaddX vd va xs sw m ca z s)
  | .vsubX vd va xs sw m ca z => some (execVsubX vd va xs sw m ca z s)
  | .vmulX vd va xs sw m ca z => some (execVmulX vd va xs sw m ca z s)
  | .vfmaX vd va xs sw m ca z => some (execVfmaX vd va xs sw m ca z s)
  | .vminX vd va xs sw m ca z => some (execVminX vd va xs sw m ca z s)
  | .vmaxX vd va xs sw m ca z => some (execVmaxX vd va xs sw m ca z s)
  | .vandX vd va xs sw m ca z => some (execVandX vd va xs sw m ca z s)
  | .vorX vd va xs sw m ca z => some (execVorX vd va xs sw m ca z s)
  | .vxorX vd va xs sw m ca z => some (execVxorX vd va xs sw m ca z s)
  | .vsllX vd va xs sw m ca z => some (execVsllX vd va xs sw m ca z s)
  | .vsrlX vd va xs sw m ca z => some (execVsrlX vd va xs sw m ca z s)
  | .vsraX vd va xs sw m ca z => some (execVsraX vd va xs sw m ca z s)
  | .vcmpX md cond va xs sw m ca z => some (execVcmpX md cond va xs sw m ca z s)
  | .vbcast vd xs sw m z => some (execVbcast vd xs sw m z s)
  | .vmvx xs va xi sw ca => some (execVmvx xs va xi sw ca s)
  | .vxmv vd xs xi sw => some (execVxmv vd xs xi sw s)
  | .vaddi vd va imm m ca z => some (execVaddi vd va imm m ca z s)
  | .vandi vd va imm m ca z => some (execVandi vd va imm m ca z s)
  | .vslli vd va imm m ca z => some (execVslli vd va imm m ca z s)
  | .vsrli vd va imm m ca z => some (execVsrli vd va imm m ca z s)
  | .vsrai vd va imm m ca z => some (execVsrai vd va imm m ca z s)
  | .vslideup vd va imm m ca z => some (execVslideup vd va imm m ca z s)
  | .vslidedn vd va imm m ca z => some (execVslidedn vd va imm m ca z s)
  | .vring vd va imm m ca z => some (execVring vd va imm m ca z s)
  | .vrsum vd va m ca => some (execVrsum vd va m ca s)
  | .vrmax vd va m ca => some (execVrmax vd va m ca s)
  | .vrmin vd va m ca => some (execVrmin vd va m ca s)
  | .vrssq vd va m ca => some (execVrssq vd va m ca s)
  | .vsoftmax vd va m ca z => some (execVsoftmax vd va m ca z s)
  | .vrnormRms vd va m ca z => some (execVrnormRms vd va m ca z s)
  | .vrnormLayer vd va m ca z => some (execVrnormLayer vd va m ca z s)
  | .vtmovRow vd va xi ca => some (execVtmovRow vd va xi ca s)
  | .vtmovCol vd va xi ca => some (execVtmovCol vd va xi ca s)
  | .vld v xb ty z m => some (execVld v xb ty z m s)
  | .vldff v xb ty z m => some (execVldff v xb ty z m s)
  | .vldm v xb ty z m => some (execVldm v xb ty z m s)
  | .vst v xb m ca => some (execVst v xb m ca s)
  | .vstff v xb m ca => some (execVstff v xb m ca s)
  | .mdrainst xb xstride vi ix m tres rnd sat qos => some (execMdrainst xb xstride vi ix m tres rnd sat qos s)
  | .vlds v xb xs ty m ff z qos => some (execVlds v xb xs ty m ff z qos s)
  | .vldx v xb vi ty m ca ff z qos => some (execVldx v xb vi ty m ca ff z qos s)
  | .vsts v xb xs m ca ff qos => some (execVsts v xb xs m ca ff qos s)
  | .vstx v xb vi m ca ff qos => some (execVstx v xb vi m ca ff qos s)
  | .vamoAdd v xb vi ty m ca z qos ord scope => some (execVamoAdd v xb vi ty m ca z qos ord scope s)
  | .vamoMin v xb vi ty m ca z qos ord scope => some (execVamoMin v xb vi ty m ca z qos ord scope s)
  | .vamoMax v xb vi ty m ca z qos ord scope => some (execVamoMax v xb vi ty m ca z qos ord scope s)
  | .vamoSwap v xb vi ty m ca z qos ord scope => some (execVamoSwap v xb vi ty m ca z qos ord scope s)
  | .vroute vd va vb m qos => some (execVroute vd va vb m qos s)
  | .vmxq vd vs va ty m rnd sat qos => some (execVmxq vd vs va ty m rnd sat qos s)
  | _ => none

/-- Scalar registers that an instruction reads or writes. -/
def insnXRegs (i : Instr) : List XReg :=
  match i with
  | .add rd rs1 rs2 => [rd, rs1, rs2]
  | .sub rd rs1 rs2 => [rd, rs1, rs2]
  | .and rd rs1 rs2 => [rd, rs1, rs2]
  | .or rd rs1 rs2 => [rd, rs1, rs2]
  | .xor rd rs1 rs2 => [rd, rs1, rs2]
  | .sll rd rs1 rs2 => [rd, rs1, rs2]
  | .srl rd rs1 rs2 => [rd, rs1, rs2]
  | .sra rd rs1 rs2 => [rd, rs1, rs2]
  | .rotl rd rs1 rs2 => [rd, rs1, rs2]
  | .rotr rd rs1 rs2 => [rd, rs1, rs2]
  | .slt rd rs1 rs2 => [rd, rs1, rs2]
  | .sltn rd rs1 rs2 => [rd, rs1, rs2]
  | .min rd rs1 rs2 => [rd, rs1, rs2]
  | .max rd rs1 rs2 => [rd, rs1, rs2]
  | .minn rd rs1 rs2 => [rd, rs1, rs2]
  | .maxn rd rs1 rs2 => [rd, rs1, rs2]
  | .mul rd rs1 rs2 => [rd, rs1, rs2]
  | .mulh rd rs1 rs2 => [rd, rs1, rs2]
  | .mulhn rd rs1 rs2 => [rd, rs1, rs2]
  | .div rd rs1 rs2 => [rd, rs1, rs2]
  | .divn rd rs1 rs2 => [rd, rs1, rs2]
  | .rem rd rs1 rs2 => [rd, rs1, rs2]
  | .remn rd rs1 rs2 => [rd, rs1, rs2]
  | .clz rd rs1 _ => [rd, rs1]
  | .ctz rd rs1 _ => [rd, rs1]
  | .popc rd rs1 _ => [rd, rs1]
  | .sext rd rs1 _ => [rd, rs1]
  | .zext rd rs1 _ => [rd, rs1]
  | .fadd rd rs1 rs2 _ _ => [rd, rs1, rs2]
  | .fsub rd rs1 rs2 _ _ => [rd, rs1, rs2]
  | .fmul rd rs1 rs2 _ _ => [rd, rs1, rs2]
  | .fdiv rd rs1 rs2 _ _ => [rd, rs1, rs2]
  | .fsqrt rd rs1 _ _ => [rd, rs1]
  | .fmin rd rs1 rs2 _ => [rd, rs1, rs2]
  | .fmax rd rs1 rs2 _ => [rd, rs1, rs2]
  | .fcmp rd rs1 rs2 _ _ => [rd, rs1, rs2]
  | .fcvt rd rs1 _ _ _ _ => [rd, rs1]
  | .fclass rd rs1 _ => [rd, rs1]
  | .ffma rd rs1 rs2 rs3 _ _ => [rd, rs1, rs2, rs3]
  | .addi rd rs1 _ => [rd, rs1]
  | .andi rd rs1 _ => [rd, rs1]
  | .ori rd rs1 _ => [rd, rs1]
  | .xori rd rs1 _ => [rd, rs1]
  | .slli rd rs1 _ => [rd, rs1]
  | .srli rd rs1 _ => [rd, rs1]
  | .srai rd rs1 _ => [rd, rs1]
  | .slti rd rs1 _ => [rd, rs1]
  | .lih rd _ => [rd]
  | .addpc rd _ => [rd]
  | .ldI8 rd rs1 _ => [rd, rs1]
  | .ldN8 rd rs1 _ => [rd, rs1]
  | .ldI16 rd rs1 _ => [rd, rs1]
  | .ldN16 rd rs1 _ => [rd, rs1]
  | .ldI32 rd rs1 _ => [rd, rs1]
  | .ldN32 rd rs1 _ => [rd, rs1]
  | .ldI64 rd rs1 _ => [rd, rs1]
  | .ldacq rd rs1 _ _ => [rd, rs1]
  | .st8 rs rs1 _ => [rs, rs1]
  | .st16 rs rs1 _ => [rs, rs1]
  | .st32 rs rs1 _ => [rs, rs1]
  | .st64 rs rs1 _ => [rs, rs1]
  | .strel rs rs1 _ _ => [rs, rs1]
  | .amoAdd rd rs1 rs2 _ _ => [rd, rs1, rs2]
  | .amoAnd rd rs1 rs2 _ _ => [rd, rs1, rs2]
  | .amoOr rd rs1 rs2 _ _ => [rd, rs1, rs2]
  | .amoXor rd rs1 rs2 _ _ => [rd, rs1, rs2]
  | .amoMin rd rs1 rs2 _ _ => [rd, rs1, rs2]
  | .amoMax rd rs1 rs2 _ _ => [rd, rs1, rs2]
  | .amoSwap rd rs1 rs2 _ _ => [rd, rs1, rs2]
  | .amoCas rd rs1 rs2 _ _ => [rd, rs1, rs2]
  | .prefetch st rs1 _ => [st, rs1]
  | .pin st rs1 _ => [st, rs1]
  | .unpin st rs1 _ => [st, rs1]
  | .beq rs1 rs2 _ => [rs1, rs2]
  | .bne rs1 rs2 _ => [rs1, rs2]
  | .blt rs1 rs2 _ => [rs1, rs2]
  | .bge rs1 rs2 _ => [rs1, rs2]
  | .bltn rs1 rs2 _ => [rs1, rs2]
  | .bgen rs1 rs2 _ => [rs1, rs2]
  | .jal rd _ => [rd]
  | .jalr rd rs1 _ => [rd, rs1]
  | .evpop rd rs1 => [rd, rs1]
  | .evwait rd rs1 => [rd, rs1]
  | .csrrw rd rs1 _ => [rd, rs1]
  | .csrrs rd rs1 _ => [rd, rs1]
  | .csrrc rd rs1 _ => [rd, rs1]
  | .ifrsave rd => [rd]
  | .ifrload rd => [rd]
  | .ifrreplay rd => [rd]
  | .ctxsavev rd => [rd]
  | .ctxloadv rd => [rd]
  | .genbump rd rs1 => [rd, rs1]
  | .lanecap rd rs1 rs2 => [rd, rs1, rs2]
  | .sfuload rd rs1 rs2 => [rd, rs1, rs2]
  | .launch rd rs1 rs2 => [rd, rs1, rs2]
  | .vaddX _ _ xs _ _ _ _ => [xs]
  | .vsubX _ _ xs _ _ _ _ => [xs]
  | .vmulX _ _ xs _ _ _ _ => [xs]
  | .vfmaX _ _ xs _ _ _ _ => [xs]
  | .vminX _ _ xs _ _ _ _ => [xs]
  | .vmaxX _ _ xs _ _ _ _ => [xs]
  | .vandX _ _ xs _ _ _ _ => [xs]
  | .vorX _ _ xs _ _ _ _ => [xs]
  | .vxorX _ _ xs _ _ _ _ => [xs]
  | .vsllX _ _ xs _ _ _ _ => [xs]
  | .vsrlX _ _ xs _ _ _ _ => [xs]
  | .vsraX _ _ xs _ _ _ _ => [xs]
  | .vcmpX _ _ _ xs _ _ _ _ => [xs]
  | .vbcast _ xs _ _ _ => [xs]
  | .vmvx xs _ xi _ _ => [xs, xi]
  | .vxmv _ xs xi _ => [xs, xi]
  | .vrnormRms _ _ _ _ _ => [31]
  | .vrnormLayer _ _ _ _ _ => [31]
  | .vtmovRow _ _ xi _ => [xi]
  | .vtmovCol _ _ xi _ => [xi]
  | .vsetvl rd rs1 _ => [rd, rs1]
  | .vsettag _ rs1 => [rs1]
  | .vgettag rd _ => [rd]
  | .mpopc x _ => [x]
  | .mfirst x _ => [x]
  | .vld _ xb _ _ _ => [xb]
  | .vldff _ xb _ _ _ => [xb]
  | .vldm _ xb _ _ _ => [xb]
  | .vst _ xb _ _ => [xb]
  | .vstff _ xb _ _ => [xb]
  | .mdrain _ xs _ _ => [xs]
  | .mpreload _ xs => [xs]
  | .mdrainst xb xstride _ _ _ _ _ _ _ => [xb, xstride]
  | .vlds _ xb xs _ _ _ _ _ => [xb, xs]
  | .vldx _ xb _ _ _ _ _ _ _ => [xb]
  | .vsts _ xb xs _ _ _ _ => [xb, xs]
  | .vstx _ xb _ _ _ _ _ => [xb]
  | .vamoAdd _ xb _ _ _ _ _ _ _ _ => [xb]
  | .vamoMin _ xb _ _ _ _ _ _ _ _ => [xb]
  | .vamoMax _ xb _ _ _ _ _ _ _ _ => [xb]
  | .vamoSwap _ xb _ _ _ _ _ _ _ _ => [xb]
  | .vappend _ xq _ _ _ _ => [xq]
  | .vappendIdx xq _ _ _ _ => [xq]
  | .strm _ xa xb xc _ _ _ _ _ _ => [xa, xb, xc]
  | .strmw _ xa xb xc _ _ _ _ _ _ => [xa, xb, xc]
  | .hwait xa _ _ => [xa]
  | .hstate xa _ => [xa]
  | .xcopy _ xa xb xc _ _ _ => [xa, xb, xc, xa + 1, xc + 1]
  | .gstream _ xb _ _ _ => [xb]
  | .scntadd xd xh xv _ => [xd, xh, xv]
  | .scntrd xd xh _ => [xd, xh]
  | .scntwait xd xh xv _ => [xd, xh, xv]
  | .sbararr xd xh _ => [xd, xh]
  | .sbarwait xd xh xv _ => [xd, xh, xv]
  | .ssemacq xd xh xv _ => [xd, xh, xv]
  | .ssemrel xd xh xv _ => [xd, xh, xv]
  | .sredadd xd xh xv _ _ => [xd, xh, xv]
  | .sredget xd xh xv _ _ => [xd, xh, xv]
  | _ => []

/-- Vector registers that an instruction reads or writes by name. -/
def insnVRegs (i : Instr) : List VReg :=
  match i with
  | .vadd vd va vb _ _ _ _ => [vd, va, vb]
  | .vsub vd va vb _ _ _ _ => [vd, va, vb]
  | .vmul vd va vb _ _ _ _ => [vd, va, vb]
  | .vmulh vd va vb _ _ _ _ => [vd, va, vb]
  | .vdiv vd va vb _ _ _ _ => [vd, va, vb]
  | .vfma vd va vb _ _ _ _ => [vd, va, vb]
  | .vfms vd va vb _ _ _ _ => [vd, va, vb]
  | .vfnma vd va vb _ _ _ _ => [vd, va, vb]
  | .vmin vd va vb _ _ _ _ => [vd, va, vb]
  | .vmax vd va vb _ _ _ _ => [vd, va, vb]
  | .vadds vd va vb _ _ _ _ => [vd, va, vb]
  | .vsubs vd va vb _ _ _ _ => [vd, va, vb]
  | .vand vd va vb _ _ _ _ => [vd, va, vb]
  | .vor vd va vb _ _ _ _ => [vd, va, vb]
  | .vxor vd va vb _ _ _ _ => [vd, va, vb]
  | .vsll vd va vb _ _ _ _ => [vd, va, vb]
  | .vsrl vd va vb _ _ _ _ => [vd, va, vb]
  | .vsra vd va vb _ _ _ _ => [vd, va, vb]
  | .vcmp _ _ va vb _ _ _ _ => [va, vb]
  | .vmerge vd va vb _ _ _ => [vd, va, vb]
  | .vmulsc vd va vb _ _ _ _ => [vd, va, vb]
  | .vperm vd va vb _ _ _ _ => [vd, va, vb]
  | .vzipLo vd va _ _ _ => [vd, va]
  | .vzipHi vd va _ _ _ => [vd, va]
  | .vunzipEven vd va _ _ _ => [vd, va]
  | .vunzipOdd vd va _ _ _ => [vd, va]
  | .vsqrt vd va _ _ _ => [vd, va]
  | .vabs vd va _ _ _ => [vd, va]
  | .vneg vd va _ _ _ => [vd, va]
  | .vmov vd va _ _ _ => [vd, va]
  | .vreshuf vd va _ _ _ => [vd, va]
  | .vcompress vd va _ _ => [vd, va]
  | .vexpand vd va _ _ _ => [vd, va]
  | .viota vd _ _ _ => [vd]
  | .vcvt vd va _ _ _ _ _ => [vd, va]
  | .vsf vd va _ _ _ _ => [vd, va]
  | .vsfrr vd va _ _ _ _ => [vd, va, vd + 1, vd + 2]
  | .vsftab vd va _ _ _ _ => [vd, va]
  | .vsfpoly vd va vb _ _ _ _ => [vd, va, vb]
  | .vsfscl vd va vb _ _ _ _ => [vd, va, vb]
  | .vrngN32 vd _ _ => [vd]
  | .vrngN64 vd _ _ => [vd]
  | .vrngF32 vd _ _ => [vd]
  | .vaddX vd va _ _ _ _ _ => [vd, va]
  | .vsubX vd va _ _ _ _ _ => [vd, va]
  | .vmulX vd va _ _ _ _ _ => [vd, va]
  | .vfmaX vd va _ _ _ _ _ => [vd, va]
  | .vminX vd va _ _ _ _ _ => [vd, va]
  | .vmaxX vd va _ _ _ _ _ => [vd, va]
  | .vandX vd va _ _ _ _ _ => [vd, va]
  | .vorX vd va _ _ _ _ _ => [vd, va]
  | .vxorX vd va _ _ _ _ _ => [vd, va]
  | .vsllX vd va _ _ _ _ _ => [vd, va]
  | .vsrlX vd va _ _ _ _ _ => [vd, va]
  | .vsraX vd va _ _ _ _ _ => [vd, va]
  | .vcmpX _ _ va _ _ _ _ _ => [va]
  | .vbcast vd _ _ _ _ => [vd]
  | .vmvx _ va _ _ _ => [va]
  | .vxmv vd _ _ _ => [vd]
  | .vaddi vd va _ _ _ _ => [vd, va]
  | .vandi vd va _ _ _ _ => [vd, va]
  | .vslli vd va _ _ _ _ => [vd, va]
  | .vsrli vd va _ _ _ _ => [vd, va]
  | .vsrai vd va _ _ _ _ => [vd, va]
  | .vslideup vd va _ _ _ _ => [vd, va]
  | .vslidedn vd va _ _ _ _ => [vd, va]
  | .vring vd va _ _ _ _ => [vd, va]
  | .vrsum vd va _ _ => [vd, va]
  | .vrmax vd va _ _ => [vd, va]
  | .vrmin vd va _ _ => [vd, va]
  | .vrssq vd va _ _ => [vd, va]
  | .vsoftmax vd va _ _ _ => [vd, va]
  | .vrnormRms vd va _ _ _ => [vd, va]
  | .vrnormLayer vd va _ _ _ => [vd, va]
  | .vtmovRow vd va _ _ => [vd, va]
  | .vtmovCol vd va _ _ => [vd, va]
  | .vsettag v _ => [v]
  | .vgettag _ v => [v]
  | .vld v _ _ _ _ => [v]
  | .vldff v _ _ _ _ => [v]
  | .vldm v _ _ _ _ => [v]
  | .vst v _ _ _ => [v]
  | .vstff v _ _ _ => [v]
  | .mma vc va vb _ _ _ _ _ _ _ _ _ _ => [vc, va, vb]
  | .mmaRs va vb _ _ _ _ _ _ _ _ => [va, vb]
  | .mmax vc va vb vsa vsb _ _ _ _ _ _ _ _ _ _ => [vc, va, vb, vsa, vsb]
  | .mmaxRs va vb vsa vsb _ _ _ _ _ _ _ _ => [va, vb, vsa, vsb]
  | .mdrain v _ _ _ => [v]
  | .mpreload v _ => [v]
  | .mdrainst _ _ vi _ _ _ _ _ _ => [vi]
  | .vlds v _ _ _ _ _ _ _ => [v]
  | .vldx v _ vi _ _ _ _ _ _ => [v, vi]
  | .vsts v _ _ _ _ _ _ => [v]
  | .vstx v _ vi _ _ _ _ => [v, vi]
  | .vamoAdd v _ vi _ _ _ _ _ _ _ => [v, vi]
  | .vamoMin v _ vi _ _ _ _ _ _ _ => [v, vi]
  | .vamoMax v _ vi _ _ _ _ _ _ _ => [v, vi]
  | .vamoSwap v _ vi _ _ _ _ _ _ _ => [v, vi]
  | .vappend va _ _ _ _ _ => [va]
  | .vscatr va vb _ _ _ _ _ => [va, vb]
  | .vroute vd va vb _ _ => [vd, va, vb]
  | .vmxq vd vs va _ _ _ _ _ => [vd, vs, va]
  | .strm _ _ _ _ _ _ _ _ vi _ => [vi]
  | .strmw _ _ _ _ _ _ _ _ vi _ => [vi]
  | .gstream v _ _ _ _ => [v]
  | .gbcast v _ _ _ _ => [v]
  | _ => []

end Sys2Proof.Machine
end

