-- ==== Sys2Proof/Machine/Pipes.lean ====
section
/-! DEFINITION. What vector decode takes from an instruction: its unit, its micro-ops, the registers that it reads and writes with the grain at which it waits
for each, and its occupancy (R305 to R315, Tables 11.1, 11.3 and 11.7). -/

namespace Sys2Proof.Machine

/-! ### Kinds of micro-op (R307) -/

/-- The grain of a source by its chain bit (R309). -/
def chained (c : Bool) : Grain := if c then .group else .whole

/-- Masks other than m0, which no instruction writes. -/
def realMasks (l : List MReg) : List MReg := l.filter (· != 0)

/-- One micro-op per element group, under a governing mask. -/
def Pipe.perGroup (unit : Nat) (dst : List VReg) (srcs : List (VReg × Grain)) (m : MReg) (lay : VReg) (stops : Bool) : Pipe :=
  { unit := unit, each := true, writes := dst.length, dst := dst, dstM := none, dstX := none, srcs := srcs, masks := realMasks [m], gov := m, lay := some lay,
    stops := stops, acc := false, racc := false }

/-- An elementwise instruction that a freeze may stop with any of its elements done (R186). -/
def Pipe.element (unit : Nat) (vd : VReg) (srcs : List (VReg × Grain)) (m : MReg) : Pipe := Pipe.perGroup unit [vd] srcs m vd true

/-- A compare: it writes a mask, and its groups are those of va. -/
def Pipe.compare (md : MReg) (va : VReg) (srcs : List (VReg × Grain)) (m : MReg) : Pipe := { Pipe.perGroup 0 [] srcs m va true with dstM := some md }

/-- One micro-op in all, which waits for every group of each source. -/
def Pipe.single (unit : Nat) (dst srcs : List VReg) (masks : List MReg) : Pipe :=
  { unit := unit, each := false, writes := dst.length, dst := dst, dstM := none, dstX := none, srcs := srcs.map fun v => (v, .whole), masks := realMasks masks, gov := 0,
    lay := none, stops := false, acc := false, racc := false }

/-- A row-group instruction: it may stop at a block or row (R76, R219, R256). -/
def Pipe.rowGroup (vd : VReg) (srcs : List VReg) (m : MReg) (sums : Bool) : Pipe := { Pipe.single 5 [vd] srcs [m] with gov := m, stops := true, racc := sums }

/-- A mask-group instruction that writes a mask. -/
def Pipe.maskGroup (md : MReg) (srcs : List MReg) : Pipe := { Pipe.single 8 [] [] srcs with dstM := some md }

/-- A vector memory instruction (R118, R309): the chain bit of a store or a VAMO is that of its data register, that of VLDX is that of its index; an index without one
chains (DESIGN CHOICE, log entry 70). -/
def Pipe.memory (dst : List VReg) (srcs : List (VReg × Grain)) (m : MReg) (data : VReg) : Pipe := Pipe.perGroup 3 dst srcs m data false

/-- An instruction that acts when it issues: one micro-op on its unit (R305, R307, Table 11.1) (DESIGN CHOICE, log entry 70). -/
def Pipe.control (unit : Nat) (dst : List VReg) : Pipe := Pipe.single unit dst [] []

/-- The old value of a register with z = 0 (R309). -/
def oldValue (z : Bool) (v : VReg) : List VReg := if z then [] else [v]

/-- The registers of a group that begins at a register. -/
def regGroup (v : VReg) (n : Nat) : List VReg := (List.range n).map (regPlus v)

/-- The sources of a weight-stationary product (R309, R315): A by rows, of which each needs 2G groups, C by its first group, the B group register by register unless its tile is in place. -/
def Hart.wsSrcs (h : Hart) (p : Product) (vc : VReg) (ca cb : Bool) : List (VReg × Grain) :=
  let g := h.segmentCount
  let a : Grain := if ca then .rows (2 * g) (2 * g * h.csr.mrows.toNat) else .whole
  let b := if h.tileInPlace p.vb g then [] else (regGroup p.vb (bRegs p.tb g)).zipIdx.map fun x => (x.1, if cb && decide (0 < x.2) then Grain.first 0 else .whole)
  [(vc, .first 1), (p.va, a)] ++ (if isSix p.ta then [(nextReg p.va, a)] else []) ++ b ++
  match p.scales with
  | some (x, y) => (x, .whole) :: (regGroup y ((wsSlots p.ta g + 63) / 64)).map fun v => (v, .whole)
  | none => []

/-- A weight-stationary product. -/
def Hart.wsPipe (h : Hart) (p : Product) (vc : VReg) (ca cb : Bool) : Pipe := { Pipe.single 7 [vc] [] [] with srcs := h.wsSrcs p vc ca cb }

/-- The registers of an operand with its crumb plane. -/
def planes (t : Nat) (v : VReg) : List VReg := if isSix t then [v, nextReg v] else [v]

/-- A result-stationary product: A by its first k-step, B by its register (DEDUCED, log entry 74). -/
def rsPipe (ta tb : Nat) (va vb : VReg) (scales : List VReg) (ca : Bool) : Pipe :=
  { Pipe.single 7 [] (planes tb vb ++ scales) [] with
    srcs := ((planes ta va).map fun v => (v, if ca then Grain.first 2 else .whole)) ++ ((planes tb vb ++ scales).map fun v => (v, .whole)), acc := true }

/-- VCVT (R309, R186): with s different from t every group of the octet; only one that keeps its element positions may stop. -/
def Hart.cvtPipe (h : Hart) (vd va : VReg) (dst : Nat) (m : MReg) (ca : Bool) : Pipe :=
  let src := tagType (h.tagOf va)
  let keeps := h.cvtKeeps va dst
  let grain : Grain := if !ca then .whole else if keeps then .group else .octet
  Pipe.perGroup 0 (planes dst vd) ((planes src va).map fun v => (v, grain)) m vd keeps

/-! ### The table -/

/-- What vector decode takes from an instruction; none for one that does not pass it. A VSETTAG writes no more than a tag and takes no register entry; a gang instruction takes
one until its strip has landed, and MDRAINST forms a micro-op per element group of a register, its elements in the even group of their lane's octet (DESIGN CHOICE, log entry 70). -/
def insnPipe (i : Instr) (h : Hart) : Option Pipe :=
  match i with
  | .vadd vd va vb m ca cb _ => some (.element 0 vd [(va, chained ca), (vb, chained cb)] m)
  | .vsub vd va vb m ca cb _ => some (.element 0 vd [(va, chained ca), (vb, chained cb)] m)
  | .vmul vd va vb m ca cb _ => some (.element 0 vd [(va, chained ca), (vb, chained cb)] m)
  | .vmulh vd va vb m ca cb _ => some (.element 0 vd [(va, chained ca), (vb, chained cb)] m)
  | .vmin vd va vb m ca cb _ => some (.element 0 vd [(va, chained ca), (vb, chained cb)] m)
  | .vmax vd va vb m ca cb _ => some (.element 0 vd [(va, chained ca), (vb, chained cb)] m)
  | .vadds vd va vb m ca cb _ => some (.element 0 vd [(va, chained ca), (vb, chained cb)] m)
  | .vsubs vd va vb m ca cb _ => some (.element 0 vd [(va, chained ca), (vb, chained cb)] m)
  | .vand vd va vb m ca cb _ => some (.element 0 vd [(va, chained ca), (vb, chained cb)] m)
  | .vor vd va vb m ca cb _ => some (.element 0 vd [(va, chained ca), (vb, chained cb)] m)
  | .vxor vd va vb m ca cb _ => some (.element 0 vd [(va, chained ca), (vb, chained cb)] m)
  | .vsll vd va vb m ca cb _ => some (.element 0 vd [(va, chained ca), (vb, chained cb)] m)
  | .vsrl vd va vb m ca cb _ => some (.element 0 vd [(va, chained ca), (vb, chained cb)] m)
  | .vsra vd va vb m ca cb _ => some (.element 0 vd [(va, chained ca), (vb, chained cb)] m)
  | .vmulsc vd va vb m ca cb _ => some (.element 0 vd [(va, chained ca), (vb, chained cb)] m)
  | .vdiv vd va vb m ca cb _ => some (.element 1 vd [(va, chained ca), (vb, chained cb)] m)
  | .vfma vd va vb m ca cb _ => some (.element 0 vd [(va, chained ca), (vb, chained cb), (vd, .group)] m)
  | .vfms vd va vb m ca cb _ => some (.element 0 vd [(va, chained ca), (vb, chained cb), (vd, .group)] m)
  | .vfnma vd va vb m ca cb _ => some (.element 0 vd [(va, chained ca), (vb, chained cb), (vd, .group)] m)
  | .vcmp md _ va vb m ca cb _ => some (.compare md va [(va, chained ca), (vb, chained cb)] m)
  | .vmerge vd va vb m ca cb => some ({ Pipe.element 0 vd [(va, chained ca), (vb, chained cb)] 0 with masks := realMasks [m] })
  | .vsqrt vd va m ca _ => some (.element 1 vd [(va, chained ca)] m)
  | .vabs vd va m ca _ => some (.element 0 vd [(va, chained ca)] m)
  | .vneg vd va m ca _ => some (.element 0 vd [(va, chained ca)] m)
  | .vmov vd va m ca _ => some (.element 0 vd [(va, chained ca)] m)
  | .vcvt vd va ty _ m ca _ => some (h.cvtPipe vd va ty.toNat m ca)
  | .vsf vd va _ m ca _ => some (.perGroup 6 [vd] [(va, chained ca)] m vd false)
  | .vsfrr vd va _ m ca _ => some (.perGroup 6 [vd, vd + 1, vd + 2] [(va, chained ca)] m vd false)
  | .vsftab vd va _ m ca _ => some (.perGroup 6 [vd] [(va, chained ca)] m vd false)
  | .vsfpoly vd va vb m ca cb _ => some (.perGroup 6 [vd] [(va, chained ca), (vb, chained cb), (vd, .group)] m vd false)
  | .vsfscl vd va vb m ca cb _ => some (.perGroup 6 [vd] [(va, chained ca), (vb, chained cb)] m vd false)
  | .vrngN32 vd m _ => some (.perGroup 0 [vd] [] m vd false)
  | .vrngN64 vd m _ => some (.perGroup 0 [vd] [] m vd false)
  | .vrngF32 vd m _ => some (.perGroup 0 [vd] [] m vd false)
  | .vaddX vd va _ _ m ca _ => some (.element 0 vd [(va, chained ca)] m)
  | .vsubX vd va _ _ m ca _ => some (.element 0 vd [(va, chained ca)] m)
  | .vmulX vd va _ _ m ca _ => some (.element 0 vd [(va, chained ca)] m)
  | .vminX vd va _ _ m ca _ => some (.element 0 vd [(va, chained ca)] m)
  | .vmaxX vd va _ _ m ca _ => some (.element 0 vd [(va, chained ca)] m)
  | .vandX vd va _ _ m ca _ => some (.element 0 vd [(va, chained ca)] m)
  | .vorX vd va _ _ m ca _ => some (.element 0 vd [(va, chained ca)] m)
  | .vxorX vd va _ _ m ca _ => some (.element 0 vd [(va, chained ca)] m)
  | .vsllX vd va _ _ m ca _ => some (.element 0 vd [(va, chained ca)] m)
  | .vsrlX vd va _ _ m ca _ => some (.element 0 vd [(va, chained ca)] m)
  | .vsraX vd va _ _ m ca _ => some (.element 0 vd [(va, chained ca)] m)
  | .vfmaX vd va _ _ m ca _ => some (.element 0 vd [(va, chained ca), (vd, .group)] m)
  | .vcmpX md _ va _ _ m ca _ => some (.compare md va [(va, chained ca)] m)
  | .vbcast vd _ _ m _ => some (.element 0 vd [] m)
  | .vmvx xs va _ _ _ => some ({ Pipe.single 0 [] [va] [] with dstX := some xs })
  | .vxmv vd _ _ _ => some (.single 0 [vd] [vd] [])
  | .vaddi vd va _ m ca _ => some (.element 0 vd [(va, chained ca)] m)
  | .vandi vd va _ m ca _ => some (.element 0 vd [(va, chained ca)] m)
  | .vslli vd va _ m ca _ => some (.element 0 vd [(va, chained ca)] m)
  | .vsrli vd va _ m ca _ => some (.element 0 vd [(va, chained ca)] m)
  | .vsrai vd va _ m ca _ => some (.element 0 vd [(va, chained ca)] m)
  | .vperm vd va vb m _ _ z => some (.single 4 [vd] ([va, vb] ++ oldValue z vd) [m])
  | .vzipLo vd va m _ z => some (.single 4 [vd] ([va, nextReg va] ++ oldValue z vd) [m])
  | .vzipHi vd va m _ z => some (.single 4 [vd] ([va, nextReg va] ++ oldValue z vd) [m])
  | .vunzipEven vd va m _ z => some (.single 4 [vd] ([va, nextReg va] ++ oldValue z vd) [m])
  | .vunzipOdd vd va m _ z => some (.single 4 [vd] ([va, nextReg va] ++ oldValue z vd) [m])
  | .vreshuf vd va m _ z => some (.single 4 [vd] (va :: oldValue z vd) [m])
  | .vcompress vd va m _ => some (.single 4 [vd] [va] [m])
  | .vexpand vd va m _ z => some (.single 4 [vd] (va :: oldValue z vd) [m])
  | .viota vd m _ z => some (.single 4 [vd] (oldValue z vd) [m])
  | .vslideup vd va _ m _ z => some (.single 4 [vd] (va :: oldValue z vd) [m])
  | .vslidedn vd va _ m _ z => some (.single 4 [vd] (va :: oldValue z vd) [m])
  | .vring vd va _ m _ z => some (.single 4 [vd] (va :: oldValue z vd) [m])
  | .vtmovRow vd va _ _ => some (.single 4 [vd] [va, vd] [])
  | .vtmovCol vd va _ _ => some (.single 4 [vd] [va, vd] [])
  | .vmxq vd vs va _ m _ _ _ => some (.single 4 [vd, vs] [va] [m])
  | .vrsum vd va m _ => some (.rowGroup vd (planes (tagType (h.tagOf va)) va) m true)
  | .vrssq vd va m _ => some (.rowGroup vd (planes (tagType (h.tagOf va)) va) m true)
  | .vrmax vd va m _ => some (.rowGroup vd [va] m false)
  | .vrmin vd va m _ => some (.rowGroup vd [va] m false)
  | .vsoftmax vd va m _ _ => some (.rowGroup vd [va, vd] m false)
  | .vrnormRms vd va m _ _ => some (.rowGroup vd [va, vd] m false)
  | .vrnormLayer vd va m _ _ => some (.rowGroup vd [va, vd] m false)
  | .vsettag v _ => some ({ Pipe.single 8 [v] [] [] with writes := 0 })
  | .vgettag rd v => some ({ Pipe.single 8 [] [v] [] with dstX := some rd })
  | .mand md ma mb => some (.maskGroup md [ma, mb])
  | .mor md ma mb => some (.maskGroup md [ma, mb])
  | .mxor md ma mb => some (.maskGroup md [ma, mb])
  | .mandn md ma mb => some (.maskGroup md [ma, mb])
  | .mset md => some (.maskGroup md [])
  | .mpopc x ma => some ({ Pipe.single 8 [] [] [ma] with dstX := some x })
  | .mfirst x ma => some ({ Pipe.single 8 [] [] [ma] with dstX := some x })
  | .vld v _ _ _ m => some (.memory [v] [] m v)
  | .vldff v _ _ _ m => some (.memory [v] [] m v)
  | .vldm v _ _ _ m => some (.memory [v] [] m v)
  | .vst v _ m ca => some (.memory [] [(v, chained ca)] m v)
  | .vstff v _ m ca => some (.memory [] [(v, chained ca)] m v)
  | .vlds v _ _ _ m _ _ _ => some (.memory [v] [] m v)
  | .vldx v _ vi _ m ca _ _ _ => some (.memory [v] [(vi, chained ca)] m v)
  | .vsts v _ _ m ca _ _ => some (.memory [] [(v, chained ca)] m v)
  | .vstx v _ vi m ca _ _ => some (.memory [] [(v, chained ca), (vi, .group)] m v)
  | .vamoAdd v _ vi _ m ca _ _ _ _ => some (.memory [v] [(v, chained ca), (vi, .group)] m v)
  | .vamoMin v _ vi _ m ca _ _ _ _ => some (.memory [v] [(v, chained ca), (vi, .group)] m v)
  | .vamoMax v _ vi _ m ca _ _ _ _ => some (.memory [v] [(v, chained ca), (vi, .group)] m v)
  | .vamoSwap v _ vi _ m ca _ _ _ _ => some (.memory [v] [(v, chained ca), (vi, .group)] m v)
  | .mdrainst _ _ vi ix m _ _ _ _ => some ({ Pipe.memory [] (if ix then [(vi, .whole)] else []) m 0 with lay := none, acc := true })
  | .vsetvl rd _ _ => some ({ Pipe.control 8 [] with dstX := some rd })
  | .modeV => some (.control 8 [])
  | .modeM => some (.control 8 [])
  | .mattach _ => some (.control 7 [])
  | .mdetach => some (.control 7 [])
  | .vappend _ _ _ _ _ _ => some (.control 3 [])
  | .vappendIdx _ _ _ _ _ => some (.control 3 [])
  | .vroute vd _ _ _ _ => some (.control 3 [vd])
  | .vscatr _ _ _ _ _ _ _ => some (.control 3 [])
  | .gstream v _ _ _ _ => some (.control 3 [v])
  | .gbcast v _ _ _ _ => some (.control 3 [v])
  | .mma vc va vb ta tb tacc _ _ _ ca cb rnd _ => some (h.wsPipe ⟨ta.toNat, tb.toNat, tacc.toNat, va, vb, none, rnd⟩ vc ca cb)
  | .mmax vc va vb vsa vsb ta tb tacc _ _ _ ca cb rnd _ => some (h.wsPipe ⟨ta.toNat, tb.toNat, tacc.toNat, va, vb, some (vsa, vsb), rnd⟩ vc ca cb)
  | .mmaRs va vb ta tb _ _ ca _ _ _ => some (rsPipe ta.toNat tb.toNat va vb [] ca)
  | .mmaxRs va vb vsa vsb ta tb _ _ ca _ _ _ => some (rsPipe ta.toNat tb.toNat va vb [vsa, vsb] ca)
  | .mdrain v _ _ _ => some ({ Pipe.single 7 [v] [] [] with acc := true })
  | .mpreload v _ => some ({ Pipe.single 7 [] [v] [] with acc := true })
  | .mzero _ => some ({ Pipe.single 7 [] [] [] with acc := true })
  | _ => none

/-! ### Groups (R18) -/

/-- The element groups of a hart's registers: 2 to each octet. -/
def Hart.groups (h : Hart) : Nat := 2 * octetCount h.vec.octets

/-- The groups that hold an active element under a layout (R310). -/
def Hart.activeGroups (h : Hart) (m : MReg) (lay : BitVec 8) : List Nat :=
  let l := (h.actives m).map (elemGroup lay h.ebits)
  (List.range h.groups).filter l.contains

/-- The groups of an instruction that hold an active element (R310): an element of VLDM is active by the bit of its chunk (R278), one of MDRAINST lies in its
lane (R238). -/
def Hart.liveGroups (h : Hart) (i : Instr) (p : Pipe) (lay : BitVec 8) : List Nat :=
  match i with
  | .vldm _ _ _ _ m =>
    let l := ((List.range h.vl).filter fun k => decide (h.vs ≤ k) && h.active m (k * tagBits lay / 4096)).map (elemGroup lay h.ebits)
    (List.range h.groups).filter l.contains
  | .mdrainst _ _ _ _ m _ _ _ _ =>
    let l := (h.actives m).map fun e => 2 * (h.drainSide e - 1)
    (List.range h.groups).filter l.contains
  | _ => h.activeGroups p.gov lay

/-- The groups of a register of which an instruction keeps an element (R309): one below VSTART, or with z = 0 one that is masked off. -/
def Hart.oldGroups (h : Hart) (i : Instr) (p : Pipe) (lay : BitVec 8) : List Nat :=
  let kept (k : Nat) : Bool := decide (k < h.vs) || (!insnZeroes i && !match i with
    | .vldm _ _ _ _ m => h.active m (k * tagBits lay / 4096)
    | _ => h.active p.gov k)
  let l := ((List.range h.vl).filter kept).map (elemGroup lay h.ebits)
  (List.range h.groups).filter l.contains

/-! ### Occupancy of a core-shared unit (Table 11.3) -/

/-- A quotient rounded up. -/
def ceilDiv (a b : Nat) : Nat := (a + b - 1) / b

/-- Blocks of 256 elements in the whole rows. -/
def Hart.blocks (h : Hart) : Nat := h.rows * ceilDiv h.rowlen 256

/-- Cycles of the special-function sequencer per group: sine and cosine take 3, EXACT doubles; a loaded function takes the sum of its steps. -/
def State.sfCycles (s : State) (fn : Nat) : Nat :=
  match s.sfSlot fn with
  | some g => g.steps.foldl (fun n w => n + match decodeBytes (leBytes 4 w.toNat) with
      | .ok (.vsfrr _ _ _ _ _ _, _) => 2
      | _ => 1) 0
  | none => (if fn = 12 ∨ fn = 13 then 3 else 2) * if s.hart.csr.exact then 2 else 1

/-- Cycles that an instruction holds a core-shared unit; 1 on the others. -/
def State.occupancy (s : State) (i : Instr) : Nat :=
  let h := s.hart
  let n (m : MReg) (v : VReg) : Nat := (h.activeGroups m (h.tagOf v)).length
  let moved := ceilDiv (64 * h.lanes) 256
  match i with
  | .vperm _ _ _ _ _ _ _ => 2 * moved
  | .vmxq _ _ _ _ _ _ _ _ => 2 * moved
  | .vzipLo _ _ _ _ _ => moved
  | .vzipHi _ _ _ _ _ => moved
  | .vunzipEven _ _ _ _ _ => moved
  | .vunzipOdd _ _ _ _ _ => moved
  | .vreshuf _ _ _ _ _ => moved
  | .vcompress _ _ _ _ => moved
  | .vexpand _ _ _ _ _ => moved
  | .viota _ _ _ _ => moved
  | .vslideup _ _ _ _ _ _ => moved
  | .vslidedn _ _ _ _ _ _ => moved
  | .vring _ _ _ _ _ _ => moved
  | .vtmovRow _ va _ _ => ceilDiv (h.lanes * tagBits (h.tagOf va) / 8) 256
  | .vtmovCol _ va _ _ => ceilDiv (h.lanes * tagBits (h.tagOf va) / 8) 256
  | .vrsum _ va m _ => n m va + 2 * h.blocks
  | .vrssq _ va m _ => n m va + 2 * h.blocks
  | .vrmax _ va m _ => n m va + 2 * h.blocks
  | .vrmin _ va m _ => n m va + 2 * h.blocks
  | .vsoftmax _ va m _ _ => 3 * n m va + 4 * h.rows
  | .vrnormRms _ va m _ _ => 2 * n m va + 6 * h.rows
  | .vrnormLayer _ va m _ _ => 3 * n m va + 6 * h.rows
  | .vsf _ va fn m _ _ => s.sfCycles fn.toNat * n m va
  | .vsfrr _ va _ m _ _ => 2 * n m va
  | .vsftab _ va _ m _ _ => n m va
  | .vsfpoly _ va _ m _ _ _ => n m va
  | .vsfscl _ va _ m _ _ _ => n m va
  | _ => 1

/-- A weight-stationary product. -/
def isWs (i : Instr) : Bool :=
  match i with
  | .mma _ _ _ _ _ _ _ _ _ _ _ _ _ => true
  | .mmax _ _ _ _ _ _ _ _ _ _ _ _ _ _ _ => true
  | _ => false

/-- A soft maximum holds the special-function sequencer too (Table 11.1). -/
def isSoftmax (i : Instr) : Bool :=
  match i with
  | .vsoftmax _ _ _ _ _ => true
  | _ => false

/-- A random-number instruction: the record has no place for its values, so it completes before a freeze (R214) (DEDUCED, log entry 74). -/
def isVrng (i : Instr) : Bool :=
  match i with
  | .vrngN32 _ _ _ => true
  | .vrngN64 _ _ _ => true
  | .vrngF32 _ _ _ => true
  | _ => false

/-! ### The meanings behind decode -/

/-- An instruction that acts when it issues, and then takes its place on its unit. -/
def actsAtIssue (i : Instr) : Bool :=
  match i with
  | .vsetvl _ _ _ => true
  | .modeV => true
  | .modeM => true
  | .mattach _ => true
  | .mdetach => true
  | .vappend _ _ _ _ _ _ => true
  | .vappendIdx _ _ _ _ _ => true
  | .vroute _ _ _ _ _ => true
  | .vscatr _ _ _ _ _ _ _ => true
  | .gstream _ _ _ _ _ => true
  | .gbcast _ _ _ _ _ => true
  | _ => false

/-- A gang instruction. -/
def isGang (i : Instr) : Bool :=
  match i with
  | .gstream _ _ _ _ _ => true
  | .gbcast _ _ _ _ _ => true
  | _ => false

/-- The meaning of an instruction that passes vector decode. -/
def runPipe (i : Instr) (s : State) : Out :=
  match i with
  | .vsettag v rs1 => execVsettag v rs1 s
  | .vgettag rd v => execVgettag rd v s
  | .mand md ma mb => execMand md ma mb s
  | .mor md ma mb => execMor md ma mb s
  | .mxor md ma mb => execMxor md ma mb s
  | .mandn md ma mb => execMandn md ma mb s
  | .mset md => execMset md s
  | .mpopc x ma => execMpopc x ma s
  | .mfirst x ma => execMfirst x ma s
  | .mma vc va vb ta tb tacc tres fin half ca cb rnd sat => execMma vc va vb ta tb tacc tres fin half ca cb rnd sat s
  | .mmaRs va vb ta tb tacc tres ca cb rnd sat => execMmaRs va vb ta tb tacc tres ca cb rnd sat s
  | .mmax vc va vb vsa vsb ta tb tacc tres fin half ca cb rnd sat => execMmax vc va vb vsa vsb ta tb tacc tres fin half ca cb rnd sat s
  | .mmaxRs va vb vsa vsb ta tb tacc tres ca cb rnd sat => execMmaxRs va vb vsa vsb ta tb tacc tres ca cb rnd sat s
  | .mdrain v xs tres rnd => execMdrain v xs tres rnd s
  | .mpreload v xs => execMpreload v xs s
  | .mzero tres => execMzero tres s
  | .vsetvl rd rs1 ew => execVsetvl rd rs1 ew s
  | .modeV => execModeV s
  | .modeM => execModeM s
  | .mattach seg => execMattach seg s
  | .mdetach => execMdetach s
  | .vappend va xq m rnd sat qos => execVappend va xq m rnd sat qos s
  | .vappendIdx xq m rnd sat qos => execVappendIdx xq m rnd sat qos s
  | .vscatr va vb ty m rnd sat qos => execVscatr va vb ty m rnd sat qos s
  | .vroute vd va vb m qos => execVroute vd va vb m qos s
  | .gstream v xb mask code ty => execGstream v xb mask code ty s
  | .gbcast v member mask code ty => execGbcast v member mask code ty s
  | i => match runVector i s with
    | some o => o
    | none => .next s

end Sys2Proof.Machine
end

