-- ==== Sys2Proof/Machine/Issue.lean ====
section
/-! DEFINITION. Issue and chaining (R305 to R315): the interlocks between outstanding work and the next instruction (R103, R283, R363), vector decode, the
resources that take micro-ops, and the scalar front end. Cycle counts are left out: a step of a resource is one of its choices, and a unit is free again when
the groups of its micro-op are available (DESIGN CHOICE, log entry 15). A resource is 8 times the class of its unit plus, for a class of the octets, the
physical octet, or the hart for the matrix array. -/

namespace Sys2Proof.Machine

/-! ### Windows -/

/-- The class has a unit per octet. -/
def unitPerOctet (cls : Nat) : Bool := cls < 4

/-- The core of a core number of the package, 64 per die. -/
def State.coreNo (s : State) (k : Nat) : Core := s.core (k / 64) (k % 64)

/-- The physical octet that holds logical octet o of a hart: the o-th granted one (R16). -/
def physicalOctet (octets : BitVec 8) (o : Nat) : Nat := ((List.range 8).filter fun i => octets.getLsbD i).getD o 8

/-- An element group of a producer is available (R309). -/
def Window.avail (w : Window) (g : Nat) : Bool :=
  if w.pipe.each then !((w.unissued.map (·.1)) ++ w.issued).contains g else w.complete

/-- A micro-op of the instruction has issued. -/
def Window.begun (w : Window) : Bool := decide (w.unissued.length < if w.pipe.each then w.before.groups else 1)

/-- The instruction of an age in the windows of a core. -/
def Core.ofAge (c : Core) (age : Nat) : Option Window := c.window.find? fun w => w.age == age

/-- What micro-op g waits for of a producer is available (R309, R315). -/
def Grain.ready (gr : Grain) (v : Window) (g : Nat) : Bool :=
  match gr with
  | .group => v.avail g
  | .octet => v.avail (g / 2 * 2) && v.avail (g / 2 * 2 + 1)
  | .whole => v.complete
  | .first n => (List.range n).all v.avail
  | .rows n _ => (List.range n).all v.avail
  | .among l => !l.contains g || v.avail g
  | .started => v.begun

/-- What an instruction needs of a producer before it is complete is available: one that started with its first groups needs the rest (R315). -/
def Grain.done (gr : Grain) (v : Window) : Bool :=
  match gr with
  | .first _ => v.complete
  | .rows _ k => (List.range k).all v.avail
  | .started => v.complete
  | _ => true

/-- Whether every group that a micro-op reads is available; a skipped one reads only the mask and the old value of its destination (R309, R310). -/
def Core.groupReady (c : Core) (w : Window) (g : Nat) : Bool :=
  ((if w.skipped.contains g then [] else w.srcs) ++ w.keeps).all fun p => match c.ofAge p.1 with
    | none => true
    | some v => p.2.ready v g

/-- The instruction may complete: what it needs of its producers is there (R315). -/
def Core.mayComplete (c : Core) (w : Window) : Bool := w.srcs.all fun p => !(c.ofAge p.1).any fun v => !p.2.done v

/-! ### Interlocks -/

/-- Values on their way to the bank of the current hart that its level uses: accesses that have not bound. -/
def State.pending (s : State) : List Access := s.accesses.filter fun a => a.hart == s.hart.id && a.reads && a.sup == s.isSup

/-- The scalar register that an access will write. -/
def AccessOp.xTarget : AccessOp → Option XReg
  | .load rd _ _ => some rd
  | .amo rd _ _ _ => some rd
  | .sync rd _ _ _ _ => some rd
  | _ => none

/-- The vector register that an access will write. -/
def AccessOp.vTarget : AccessOp → Option VReg
  | .vload v _ _ _ => some v
  | .vamo v _ _ _ _ _ _ _ => some v
  | _ => none

/-- A register of an access is one of an instruction's: a vector instruction may also use the register after one that it names, and in matrix mode any. -/
def State.uses (s : State) (i : Instr) (a : Access) : Bool :=
  (match a.op.xTarget with
    | some r => (insnXRegs i).contains r
    | none => false) ||
  match a.op.vTarget with
  | some v => (insnVRegs i).any fun w => w == v || w + 1 == v || s.hart.vec.matrix
  | none => false

/-- A CSR instruction, which may read or change what a vector instruction uses. -/
def isCsr (i : Instr) : Bool :=
  match i with
  | .csrrw _ _ _ => true
  | .csrrs _ _ _ => true
  | .csrrc _ _ _ => true
  | _ => false

/-- A VAMO that has not bound will raise flags (R263), and a CSR instruction may read them. -/
def readsFlags (i : Instr) (a : Access) : Bool :=
  isCsr i && match a.op with
  | .vamo _ _ _ _ _ _ _ _ => true
  | _ => false

/-- An instruction that writes the RS accumulator. -/
def writesAcc (i : Instr) : Bool :=
  match i with
  | .mmaRs _ _ _ _ _ _ _ _ _ _ => true
  | .mmaxRs _ _ _ _ _ _ _ _ _ _ _ _ => true
  | .mpreload _ _ => true
  | .mzero _ => true
  | _ => false

/-- An MDRAINST of the current hart has stores outstanding: its entry of an in-flight record reads the accumulator again (R220, R238). -/
def State.draining (s : State) : Bool := s.vgroups.any fun g => g.hart == s.hart.id && g.kind == 2 && s.hart.vec.matrix

/-- An instruction that acts as a release (R103, R106, R158, R159, R172, R263). -/
def isRelease (i : Instr) : Bool :=
  match i with
  | .strel _ _ _ _ => true
  | .launch _ _ _ => true
  | .fence _ sets => sets.getLsbD 1
  | .vlsync => true
  | .amoAdd _ _ _ ord _ => ord.getLsbD 1
  | .amoAnd _ _ _ ord _ => ord.getLsbD 1
  | .amoOr _ _ _ ord _ => ord.getLsbD 1
  | .amoXor _ _ _ ord _ => ord.getLsbD 1
  | .amoMin _ _ _ ord _ => ord.getLsbD 1
  | .amoMax _ _ _ ord _ => ord.getLsbD 1
  | .amoSwap _ _ _ ord _ => ord.getLsbD 1
  | .amoCas _ _ _ ord _ => ord.getLsbD 1
  | .vamoAdd _ _ _ _ _ _ _ _ ord _ => ord.getLsbD 1
  | .vamoMin _ _ _ _ _ _ _ _ ord _ => ord.getLsbD 1
  | .vamoMax _ _ _ _ _ _ _ _ ord _ => ord.getLsbD 1
  | .vamoSwap _ _ _ _ _ _ _ _ ord _ => ord.getLsbD 1
  | .scntadd _ _ _ _ => true
  | .scntrd _ _ _ => true
  | .scntwait _ _ _ _ => true
  | .sbararr _ _ _ => true
  | .sbarwait _ _ _ _ => true
  | .ssemacq _ _ _ _ => true
  | .ssemrel _ _ _ _ => true
  | .sredadd _ _ _ _ _ => true
  | .sredget _ _ _ _ _ => true
  | _ => false

/-- Trains and appends of a hart that are not acknowledged. -/
def State.sendsOf (s : State) (id : Nat) : Bool :=
  s.appends.any (fun a => a.hart == id && a.post == .due) || s.trains.any fun t => t.hart == id && !t.orphan

/-- Trains and appends of the current hart that are not acknowledged. -/
def State.releaseWaits (s : State) : Bool := s.sendsOf s.hart.id

/-- A fence that is an item of a hart's outstanding work, by its imm14 (Table 14.4, kind 12), waits: VLSYNC for what the hart has issued to be performed, FENCE for
its sets; trains and appends are among the stores (R101 to R103). -/
def State.recordedFenceWaits (s : State) (h : Hart) (imm : Nat) : Bool :=
  if imm % 16 = 5 then s.fenceWaits h (BitVec.ofNat 3 (imm / 2 ^ 7)) || (bitOf imm 8 && s.sendsOf h.id)
  else (s.outstanding h.id).any (·.owed) || s.sendsOf h.id

/-- The masks that an instruction at the memory port or in an engine uses. -/
def insnMasks (i : Instr) : List MReg :=
  match i with
  | .strm _ _ _ _ _ mk _ _ _ _ => realMasks [mk]
  | .strmw _ _ _ _ _ mk _ _ _ _ => realMasks [mk]
  | _ => realMasks [(insnRoles i).m]

/-- Two lists have a member in common. -/
def meets {α : Type} [DecidableEq α] (l m : List α) : Bool := l.any fun a => decide (a ∈ m)

/-- An instruction that acts when it issues waits for one that has passed decode (DEDUCED, log entry 46): for its registers and masks; a CSR instruction, MATTACH and MDETACH for
every one; VSETVL for a row group, of which the entry of an in-flight record holds no VL, and for every one when it changes the element width. -/
def Window.bars (w : Window) (i : Instr) (ew : BitVec 3) : Bool :=
  isCsr i || meets (insnVRegs i) (w.pipe.dst ++ w.pipe.srcs.map (·.1)) || meets (insnMasks i) (w.pipe.dstM.toList ++ w.pipe.masks) ||
  match i with
  | .vsetvl _ _ e => e != ew || w.pipe.unit == 5
  | .mattach _ => true
  | .mdetach => true
  | _ => false

/-- An instruction waits for one past decode: for the scalar register that it will write, and as its kind asks. -/
def State.pipeWaits (s : State) (i : Instr) : Bool :=
  (s.windows s.hart.id).any fun w => !w.complete &&
    (meets (insnXRegs i) w.pipe.dstX.toList || (actsAtIssue i || (insnPipe i s.hart).isNone) && w.bars i s.hart.vec.ew)

/-- An instruction waits for earlier work: an acquire that has not bound holds every later one (R103); a value on its way to one of its registers or to flags that
it reads (R363), a gang strip that will land in one of them (R283; a matrix instruction may read any), a MDRAINST whose accumulator it would change, what
vector instructions past decode still hold, or, when it is a release, trains and appends that are not acknowledged (R103) (DEDUCED, log entry 46). A TRET waits until
every load of its supervisor has bound: none may bind after the next trap has copied the argument registers (R174, R176). -/
def State.interlocked (s : State) (i : Instr) : Bool :=
  s.pending.any (fun a => a.acquire || s.uses i a || readsFlags i a) ||
  (s.hart.level == .app && s.hart.strips.any fun x => (insnVRegs i).contains x.v || (s.hart.vec.matrix && !(insnVRegs i).isEmpty)) ||
  (i == .tret && !s.pending.isEmpty) || (writesAcc i && s.draining) || (isRelease i && s.releaseWaits) || (s.hart.level == .app && s.pipeWaits i)

/-- Nothing is outstanding that an instruction could wait for. -/
def State.quiet (s : State) : Bool :=
  s.accesses.isEmpty && s.vgroups.isEmpty && s.hart.strips.isEmpty && s.appends.isEmpty && s.trains.isEmpty && (s.windows s.hart.id).isEmpty

/-- The current hart has values on their way, or vector instructions that are not complete. -/
def State.unsettled (s : State) : Bool := !s.pending.isEmpty || s.pipeBusy

/-! ### Vector decode (R305 to R307, R364) -/

/-- Instructions pass decode into windows: under the relaxed policy, and while a window holds one (DESIGN CHOICE, log entry 7). -/
def State.decodes (s : State) (i : Instr) : Option Pipe :=
  if s.hart.level = .app ∧ (s.relaxed = true ∨ s.windows s.hart.id ≠ []) then insnPipe i s.hart else none

/-- An instruction of which an append, trains or a strip say that it is not complete. -/
def sends (i : Instr) : Bool :=
  match i with
  | .vappend _ _ _ _ _ _ => true
  | .vappendIdx _ _ _ _ _ => true
  | .vscatr _ _ _ _ _ _ _ => true
  | _ => isGang i

/-- Vector instructions of the current hart that are past decode and not complete (R364): those in the windows, VAPPENDs and VSCATRs that are not acknowledged, and
gang strips that have not landed. -/
def State.pastDecode (s : State) : Nat :=
  ((s.windows s.hart.id).filter fun w => !w.complete && !sends w.insn).length + (s.appends.filter fun a => a.hart == s.hart.id && a.post == .due).length +
  ((s.trains.filter fun t => t.hart == s.hart.id && !t.orphan).map (·.kept.order)).eraseDups.length + s.hart.strips.length

/-- The micro-ops of an instruction lie in the windows of octets (R307): those by element group, whatever unit takes them, and those of a unit that each octet has. -/
def Pipe.inOctets (p : Pipe) : Bool := p.each || unitPerOctet p.unit

/-- Decode accepts an instruction of the current hart: 64 not complete, 32 register and 8 mask entries, and 64 micro-ops to the window of each octet. -/
def State.decodeRoom (s : State) (p : Pipe) : Bool :=
  let l := s.windows s.hart.id
  let inWindow (o : Nat) : Nat := l.foldl (fun n w => if w.pipe.inOctets then n + (w.unissued.filter fun g => g.1 / 2 == o).length else n) 0
  decide (s.pastDecode < 64) &&
  decide (l.foldl (fun n w => if isGang w.insn then n else n + w.pipe.writes) s.hart.strips.length + p.writes ≤ 32) &&
  decide (l.foldl (fun n w => n + w.pipe.dstM.toList.length) 0 + p.dstM.toList.length ≤ 8) &&
  (!p.inOctets || (List.range (s.hart.groups / 2)).all fun o => decide (inWindow o + (if p.each then 2 else if o = 0 then 1 else 0) ≤ 64))

/-- The last instruction of a list that writes a register. -/
def lastWriter (l : List Window) (v : VReg) : Option Window := l.reverse.find? fun w => w.pipe.dst.contains v

/-- The last instruction of a list that writes a mask. -/
def lastMask (l : List Window) (m : MReg) : Option Window := l.reverse.find? fun w => w.pipe.dstM == some m

/-- The grain at which groups of one instruction wait for groups of another when no chain bit says it: the same group (R309). -/
def Pipe.grainOf (p : Pipe) (w : Window) : Grain := if p.each && w.pipe.each then .group else .whole

/-- The producers of an instruction's sources. A product that accumulates on the C register of the hart's previous product waits for nothing in it (R314); the
accumulator and RACC count as registers (DEDUCED, log entry 74). -/
def Pipe.producers (p : Pipe) (l : List Window) (ws : Bool) : List (Nat × Grain) :=
  let previous := l.reverse.find? fun w => isWs w.insn
  (p.srcs.filterMap fun x => (lastWriter l x.1).map fun w =>
    (w.age, if ws && x.2 == .first 1 && previous.any (fun v => v.age == w.age) then .started else x.2)) ++
  (l.filterMap fun w => if (p.acc && w.pipe.acc) || (p.racc && w.pipe.racc) then some (w.age, .whole) else none)

/-- What an instruction waits for besides: the governing mask, and the old value of what it writes, in the groups of which it keeps an element (R309). -/
def Pipe.priors (p : Pipe) (l : List Window) (old : List Nat) : List (Nat × Grain) :=
  let keep (w : Window) : List (Nat × Grain) := if p.each && !old.isEmpty then [(w.age, .among old)] else []
  (p.masks.filterMap fun m => (lastMask l m).map fun w => (w.age, p.grainOf w)) ++
  (p.dstM.toList.filterMap (lastMask l)).flatMap keep ++ (p.dst.filterMap (lastWriter l)).flatMap keep ++
  (l.filterMap fun w => if meets p.dstX.toList w.pipe.dstX.toList then some (w.age, .whole) else none)

/-- The seed that an instruction has drawn, `s` before it and `t` after it (R61). -/
def State.seedDrawn (s t : State) : Option (Word × Word × Word) :=
  if t.free ≠ s.free ∨ t.hart.csr.srlog ≠ s.hart.csr.srlog ∨ t.hart.csr.rngctr ≠ s.hart.csr.rngctr then match s.seedFor .sr true 1 with
    | .ok (d, _) => some (d.key, d.stream, d.base)
    | .error _ => none
  else none

/-- The window entry of an instruction of the current hart, `s` before it and `t` after it. -/
def State.windowOf (s t : State) (i : Instr) (p : Pipe) (flags : Flags) : Window :=
  let l := (s.windows s.hart.id).filter fun w => !w.complete
  let lay := match p.lay with
    | some v => t.hart.tagOf v
    | none => 0
  let groups := List.range (if p.each then s.hart.groups else 1)
  let live := s.hart.liveGroups i p lay
  { hart := s.hart.id, age := s.myCore.nextAge, order := s.nextOrder, insn := i, pipe := p, before := s.hart, seed := s.seedDrawn t, flags := flags, lay := lay,
    occ := s.occupancy i, unissued := groups.map fun g => (g, 0), issued := [], srcs := p.producers l (isWs i), keeps := p.priors l (s.hart.oldGroups i p lay)
    skipped := if p.each then groups.filter (!live.contains ·) else [], next := none }

/-- An instruction enters the windows of its core. -/
def State.enterWindow (t : State) (w : Window) : State :=
  ({ t with nextOrder := max t.nextOrder (w.order + 1) } : State).updCore (dieOf w.hart) (coreOf w.hart) fun c => { c with window := c.window ++ [w], nextAge := w.age + 1 }

/-- An instruction has trapped, or a memory instruction has trimmed VL: either waits for what is not complete before it. -/
def State.breaksOff (s t : State) (p : Pipe) : Bool := t.hart.level != s.hart.level || (p.unit == 3 && t.hart.bound && t.hart.csr.vl != s.hart.csr.vl)

/-- An instruction passes decode, `t` after its meaning: its values are those that its micro-ops will leave (R185), and its flags are raised when it completes. -/
def State.decodeInto (s t : State) (i : Instr) (p : Pipe) (flags : Flags) : State :=
  if s.breaksOff t p then (if s.unsettled then s.waits i else t)
  else if t.hart.run = .waiting ∨ t.hart.bound = false then t
  else (t.onHart fun h => { h with csr := { h.csr with fflags := if p.unit = 3 then h.csr.fflags else s.hart.csr.fflags } }).enterWindow
    (s.windowOf t i p (if p.unit = 3 then 0 else flags))

/-- The hart with no flag raised. -/
def Hart.noFlags (h : Hart) : Hart := { h with csr := { h.csr with fflags := 0 } }

/-- An instruction passes decode by its meaning, or waits for room. -/
def State.passDecode (s : State) (i : Instr) (p : Pipe) (run : State → Out) : Out :=
  if s.decodeRoom p then match run s with
    | .next t => .next (s.decodeInto t i p (nextState (run (s.onHart Hart.noFlags)) s).hart.csr.fflags)
    | o => o
  else .next (s.waits i)

/-- What VECTOR_DECODE names of an entry: its unit, micro-ops, entries of registers and masks, producers with their chain bits, and skipped groups. -/
def Window.facts (w : Window) : Nat × Nat × Nat × Nat × List (Nat × Bool) × List Nat :=
  (w.pipe.unit, w.unissued.length, w.pipe.writes, w.pipe.dstM.toList.length, (w.srcs ++ w.keeps).map fun p => (p.1, p.2 != .whole), w.skipped)

/-- The next instruction of the current hart passes decode, if it can and is as described. -/
def State.decodeNext (s : State) (facts : Nat × Nat × Nat × Nat × List (Nat × Bool) × List Nat) : State :=
  match s.fetch with
  | .insn i => match insnPipe i s.hart with
    | some p =>
      let t := nextState (s.passDecode i p (runPipe i)) s
      if !s.interlocked i && (t.windows s.hart.id).any fun w => w.age == s.myCore.nextAge && w.facts == facts then
        t.updCore (dieOf s.hart.id) (coreOf s.hart.id) fun c => { c with last := hartOf s.hart.id }
      else s
    | none => s
  | _ => s

/-! ### Resources (R308 to R311) -/

/-- The resource that a micro-op takes: a skipped one goes to the fill path (R310). A divide starts at the arithmetic port, which it takes for its issue cycle (R308).
The one micro-op of an instruction on a unit that each octet has sits in octet 0 (DESIGN CHOICE, log entry 70). -/
def State.resourceOf (s : State) (w : Window) (g : Nat) : Nat :=
  let oct := match s.hartById w.hart with
    | some h => physicalOctet h.vec.octets (g / 2)
    | none => 8
  if w.skipped.contains g then 16 + oct
  else if w.pipe.unit = 7 then 56 + hartOf w.hart
  else if !unitPerOctet w.pipe.unit then 8 * w.pipe.unit
  else if w.pipe.unit = 1 then oct
  else 8 * w.pipe.unit + oct

/-- The core-shared units that an instruction holds from its start until it is complete (Table 11.1). -/
def Window.holds (w : Window) : List Nat := if [4, 5, 6].contains w.pipe.unit then w.pipe.unit :: if isSoftmax w.insn then [6] else [] else []

/-- The ages of what an instruction waits for, and of what that waits for in turn. -/
def Core.upstream (c : Core) (w : Window) : List Nat :=
  let direct (v : Window) : List Nat := (v.srcs ++ v.keeps).map (·.1)
  c.window.reverse.foldl (fun a v => if a.contains v.age then direct v ++ a else a) (direct w)

/-- An instruction takes the special-function sequencer only when it waits for no other that has still to take it, so that it will release it (DESIGN CHOICE, log
entry 70). -/
def Core.mayHold (c : Core) (w : Window) : Bool :=
  w.pipe.unit != 6 || w.issued.any (!w.skipped.contains ·) || !c.window.any fun v => !v.complete && v.holds.contains 6 && (c.upstream w).contains v.age

/-- The unit of a micro-op is free (R308): one instruction at a time on the core-shared units, one micro-op on a divide unit. A matrix array is released before the results
of its instruction are available (Table 11.7), so the next one may start on them (R314). -/
def State.unitFree (s : State) (c : Core) (w : Window) (g : Nat) : Bool :=
  c.mayHold w && c.window.all fun v => v.issued.all v.skipped.contains ||
    ((v.age == w.age || !meets v.holds w.holds) &&
      !(w.pipe.unit == 1 && v.pipe.unit == 1 && v.issued.any fun k => !v.skipped.contains k && s.resourceOf v k == s.resourceOf w g))

/-- The hart of an instruction issues: it is not frozen (R363). -/
def State.runs (s : State) (w : Window) : Bool := (s.hartById w.hart).any fun h => h.freeze == .none

/-- The strip that a gang instruction waits for, if any, can be delivered (R283). -/
def State.stripReady (s : State) (w : Window) : Bool :=
  !isGang w.insn || (s.hartById w.hart).all fun h => h.strips.all fun x => x.kept.order != w.order || (s.instOf h.job.gang x.inst).any (·.data.isSome)

/-- The ready micro-ops of a resource: instruction, group and times passed over. Each start of the resource passes over those that it does not take (R311), be its unit
held or not. -/
def State.passedOver (s : State) (c : Core) (unit : Nat) : List (Window × Nat × Nat) :=
  c.window.flatMap fun w => (w.unissued.filter fun p => s.resourceOf w p.1 == unit && s.runs w && c.groupReady w p.1 && s.stripReady w).map fun p => (w, p.1, p.2)

/-- Those that the resource can take now. -/
def State.readyOps (s : State) (c : Core) (unit : Nat) : List (Window × Nat × Nat) :=
  (s.passedOver c unit).filter fun p => p.1.skipped.contains p.2.1 || s.unitFree c p.1 p.2.1

/-- The measure of an instruction (R311): its micro-ops not yet issued, or on a core-shared unit its occupancy. -/
def Window.measure (w : Window) : Nat := if [4, 5, 6].contains w.pipe.unit then w.occ else w.unissued.length

/-- The choice of a resource (R311): a micro-op passed over 32 times first, else the instruction with the least measure; ties go to
the older decode age. -/
def chooseOp (promotedOnly : Bool) (l : List (Window × Nat × Nat)) : Option (Window × Nat × Nat) :=
  let key (p : Window × Nat × Nat) : Nat := if 32 ≤ p.2.2 then 0 else 1 + p.1.measure
  (if promotedOnly then l.filter fun p => decide (32 ≤ p.2.2) else l).foldl (fun best p => match best with
    | none => some p
    | some b => if key p < key b || (key p == key b && decide (p.1.age < b.1.age)) then some p else best) none

/-- A resource starts a micro-op; the other ready ones are passed over. -/
def State.startOp (s : State) (core unit : Nat) (promotedOnly : Bool) : State :=
  let c := s.coreNo core
  let l := s.passedOver c unit
  match chooseOp promotedOnly (s.readyOps c unit) with
  | none => s
  | some (w, g, _) =>
    s.updCore (core / 64) (core % 64) fun c => { c with window := c.window.map fun v =>
      { v with
        issued := if v.age == w.age then v.issued ++ [g] else v.issued
        unissued := (v.unissued.filter fun p => !(v.age == w.age && p.1 == g)).map fun p =>
          if l.any fun q => q.1.age == v.age && q.2.1 == p.1 then (p.1, p.2 + 1) else p } }

/-- R311: MICRO_OP_ISSUE. -/
def execMicroOpIssue (core unit : Nat) (s : State) : Out := .next (s.startOp core unit false)

/-- R311: MICRO_OP_PROMOTION: a micro-op passed over 32 times is taken. -/
def execMicroOpPromotion (core unit : Nat) (s : State) : Out := .next (s.startOp core unit true)

/-- An older instruction has still to read what w replaces: it reads a register or mask that w writes, and no instruction between them writes it (R306). -/
def Core.readsOld (c : Core) (v w : Window) : Bool :=
  let between (u : Window) : Bool := u.hart == w.hart && decide (v.age ≤ u.age) && decide (u.age < w.age)
  v.hart == w.hart && decide (v.age < w.age) && !v.unissued.isEmpty &&
  ((w.pipe.dst.any fun r => (v.pipe.srcs.map (·.1)).contains r && !c.window.any fun u => between u && u.pipe.dst.contains r) ||
   w.pipe.dstM.toList.any fun m => v.pipe.masks.contains m && !c.window.any fun u => between u && u.pipe.dstM == some m)

/-- Two instructions write one register or mask. -/
def Pipe.sameTarget (p q : Pipe) : Bool := meets p.dst q.dst || meets p.dstM.toList q.dstM.toList

/-- An older instruction has still to write what w has written. -/
def Core.overtakes (v w : Window) : Bool := v.hart == w.hart && decide (v.age < w.age) && !v.complete && v.pipe.sameTarget w.pipe

/-- Instructions that have completed leave, and free their entries, once every reader of the old value has read it and every earlier writer has written it (R306). -/
def Core.retire (c : Core) : Core :=
  { c with window := c.window.filter fun w => !(w.complete && !c.window.any fun v => c.readsOld v w || Core.overtakes v w) }

/-- The element accesses of a group have all been acknowledged, and a gang strip has landed. -/
def State.groupDone (s : State) (w : Window) (g : Nat) : Bool :=
  !((s.outstanding w.hart).any fun a => a.group == g && a.elem.any fun e => e.1 == w.order) &&
  !(s.hartById w.hart).any fun h => h.strips.any fun x => x.kept.order == w.order

/-- The groups that become available with group g of an instruction (R309): on a core-shared unit all together, once every one has issued. -/
def State.arriving (s : State) (c : Core) (w : Window) (g : Nat) : List Nat :=
  if !w.issued.contains g || !c.mayComplete w || (w.pipe.unit == 3 && !s.groupDone w g) then []
  else if unitPerOctet w.pipe.unit || w.skipped.contains g then [g]
  else if w.unissued.isEmpty then w.issued.filter (!w.skipped.contains ·) else []

/-- R309: a producer's element group becomes available; an instruction of which all are raises its flags. -/
def execGroupAvailable (core age group : Nat) (s : State) : Out :=
  let c := s.coreNo core
  .next (match c.ofAge age with
    | none => s
    | some w =>
      let l := s.arriving c w group
      let v := { w with issued := w.issued.filter fun k => !l.contains k }
      let t := s.updCore (core / 64) (core % 64) fun c => ({ c with window := updWhere (fun u => u.age == age) (fun _ => v) c.window } : Core).retire
      if v.complete && !w.complete then t.updHart w.hart fun h => { h with csr := { h.csr with fflags := h.csr.fflags ||| w.flags } } else t)

/-- The next step of the windows of a core: a resource starts a ready micro-op, or else a group becomes available. -/
def State.pipeDues (s : State) (core : Nat) : List Due :=
  let c := s.coreNo core
  match (c.window.flatMap fun w => w.unissued.map fun p => (w, p.1)).find? fun x => !(s.readyOps c (s.resourceOf x.1 x.2)).isEmpty with
  | some x => [.microOp core (s.resourceOf x.1 x.2)]
  | none => match (c.window.flatMap fun w => w.issued.map fun g => (w, g)).find? fun x => !(s.arriving c x.1 x.2).isEmpty with
    | some x => [.groupAvailable core x.1.age x.2]
    | none => []

/-! ### The scalar front end (R305) -/

/-- The next instruction of the current hart is ready to issue: it waits for nothing, and decode can accept it. -/
def State.canIssue (s : State) : Bool :=
  s.hart.bound && s.hart.run == .running && match s.fetch with
  | .insn i => !s.interlocked i && match s.decodes i with
    | some p => s.decodeRoom p
    | none => true
  | _ => true

/-- The hart that a core's front end takes: round-robin from the one after the hart that issued last, skipping those that are not ready. -/
def State.frontEnd (s : State) (die core : Nat) : Option Nat :=
  ((List.range 4).map fun k => mkHartId die core (((s.core die core).last + 1 + k) % 4)).find? fun id => (s.hartById id).isSome && (s.swapTo id).canIssue

/-- R305 to R307, R364: the hart that the front end of its core takes passes its next instruction into vector decode, when entries and windows have room; it is the last
that has issued. -/
def execVectorDecode (hart unit groups writes masks : Nat) (srcs : List (Nat × Bool)) (skipped : List Nat) (s : State) : Out :=
  .next (if s.frontEnd (dieOf hart) (coreOf hart) = some hart then s.asHart hart fun t =>
      if t.hart.level = .app then t.decodeNext (unit, groups, writes, masks, srcs, skipped) else t
    else s)

/-- R305: the front end of a core takes its next ready hart; that hart issues next (DESIGN CHOICE, log entry 4). -/
def execScalarIssue (core : Nat) (s : State) : Out :=
  match s.frontEnd (core / 64) (core % 64) with
  | some id => .next (s.swapTo id)
  | none => .next s

/-- At the turn of a core whose current hart is ready, its front end takes the hart (R305). -/
def State.arbitrate (s : State) : State :=
  if (s.others.any fun h => h.id / 4 == s.hart.id / 4) && s.canIssue then match s.frontEnd (dieOf s.hart.id) (coreOf s.hart.id) with
    | some id => s.swapTo id
    | none => s
  else s

/-- The end of a hart's turn, `s` before it and `t` after it: a hart that has issued is the last of its core, and the next hart's turn comes. -/
def State.endTurn (s t : State) : State :=
  (if t.hart.id = s.hart.id ∧ t.hart.run = .waiting then t else t.updCore (dieOf s.hart.id) (coreOf s.hart.id) fun c => { c with last := hartOf s.hart.id }).rotate

end Sys2Proof.Machine
end

