-- ==== Sys2Proof/Machine/Freeze.lean ====
section
/-! DEFINITION. The freeze (R359, R360, R363 to R365) and the making of the in-flight record (R366 to R370). -/

namespace Sys2Proof.Machine

/-! ### The beginning of a freeze -/

/-- The kind of an entry. -/
def IfrEntry.kind (e : IfrEntry) : Nat := bitsOf e.dw0.toNat 7 0

/-- The order index of an entry. -/
def IfrEntry.order (e : IfrEntry) : Nat := bitsOf e.dw0.toNat 31 16

/-- The map word. -/
def IfrEntry.map (e : IfrEntry) : Nat := (e.desc.getD 7 0).toNat

/-- Put an entry behind those that do not come after it. -/
def insertEntry (e : IfrEntry) : List IfrEntry → List IfrEntry
  | [] => [e]
  | f :: l => if e.order < f.order then e :: f :: l else f :: insertEntry e l

/-- The entries in ascending order index. -/
def Ifr.inOrder (r : Ifr) : List IfrEntry := r.entries.foldl (fun acc e => insertEntry e acc) []

/-- The header of the record that a freeze begins (Table 14.3). -/
def Hart.header (h : Hart) (pc : Word) (reason : BitVec 8) : Ifr :=
  { pc := pc, vstart := h.csr.vstart, context := h.sup.ctxid, issuer := h.tags.issuer, epoch := h.tags.epoch, reason := reason,
    octets := octetCount h.vec.octets, bitmaps := 0, entries := [], shadows := [], shadowTags := [], shadowMasks := [], replayed := 0, answered := 0 }

/-- The header of a record that takes over what a held record has not replayed: its entries from the next one on, with their shadow images (R177, R363). -/
def Ifr.takeOver (r held : Ifr) : Ifr :=
  { r with entries := held.inOrder.drop held.replayed, shadows := held.shadows, shadowTags := held.shadowTags, shadowMasks := held.shadowMasks }

/-- The hart side of step 1 of R363: its deadline stops (R378). -/
def Hart.beginFreeze (h : Hart) (pc : Word) (reason : BitVec 8) : Hart :=
  let r := h.header pc reason
  { h with freeze := .begun, grant := { h.grant with deadlineOn := false, decided := none }, ifr := some (match h.ifr with
    | some held => r.takeOver held
    | none => r) }

/-- Step 1 of R363: issue stops, segments are released (R42), and a waiting SYNC leaves its element (R364). -/
def State.beginFreeze (s : State) (id : Nat) (pc : Word) (reason : BitVec 8) : State :=
  (((s.leaveSems id).releaseSegments id).updHart id fun h => h.beginFreeze pc reason).due [.settleWindow id, .recordFrozen id]

/-- The fence at which a hart waits: it has been issued, and its entry keeps its place (Table 14.4, kind 12). -/
def Hart.waitingFence (h : Hart) : Option Instr := match h.wait with
  | some (.fence scope sets) => some (.fence scope sets)
  | some .vlsync => some .vlsync
  | _ => none

/-- A waiting fence of a hart becomes an item of its outstanding work, and the hart stands after it (R363, R364). -/
def State.putFence (s : State) (hart : Nat) (i : Instr) : State :=
  match s.hartById hart with
  | none => s
  | some h =>
    let scope : BitVec 3 := match i with
      | .fence scope _ => scope
      | _ => 0
    ({ s with
      accesses := s.accesses ++ [{
        hart := hart, side := 0, loc := 0, va := h.pc, op := .fence (insnWord i / 2 ^ 18), release := false, acquire := false, scope := scope, tag := 0,
        performed := true, value := 0, epoch := h.tags.epoch, issuer := h.tags.issuer, ctx := h.sup.ctxid, replay := false, sup := false, elem := none, group := 0, order := s.nextOrder, noc := 0, sent := true, full := false }]
      nextOrder := s.nextOrder + 1 } : State).updHart hart fun h => { h with pc := h.pc + 4, run := .running, wait := none }

/-- A PREEMPT of a reason is taken at a hart's pc: the freeze begins at trap entry (R360). -/
def State.takePreempt (s : State) (hart : Nat) (reason : BitVec 8) : State :=
  match s.hartById hart with
  | none => s
  | some h => (s.beginFreeze hart h.pc reason).updHart hart fun h => ({ h with preempt := none } : Hart).trap 0 { cause := .preempt, val := reason.setWidth 64, elem := 0 }

/-- R360, R175: a pending PREEMPT is taken at application level. -/
def execPreempt (hart : Nat) (s : State) : Out :=
  .next (match s.hartById hart with
    | none => s
    | some h => match h.preempt with
      | none => s
      | some r =>
        if h.bound && h.level == .app && h.freeze == .none then
          (match h.waitingFence with
            | some i => s.putFence hart i
            | none => s).takePreempt hart r
        else s)

/-! ### Vector instructions past decode (R186, R364) -/

/-- An instruction past decode that completes before the record is frozen (R364): a begun one that may not stop part-way, and one of the matrix array, of VCTL or
of the random numbers. -/
def Window.mustComplete (w : Window) : Bool := (w.begun && !w.pipe.stops) || [7, 8].contains w.pipe.unit || isVrng w.insn

/-- The ages of the earlier writers in a list of what an instruction writes. -/
def Window.overtaken (w : Window) (l : List Window) : List Nat := (l.filter fun v => Core.overtakes v w).map (·.age)

/-- The ages of the instructions of a list, oldest first, that complete: those that must, their producers, and the earlier writers of what they write; so do the earlier
writers of a register that a memory or a queue instruction writes (DEDUCED, log entry 74). -/
def completing (l : List Window) : List Nat :=
  l.reverse.foldl (fun a w => if w.pipe.unit == 3 then w.overtaken l ++ a
    else if w.mustComplete || a.contains w.age then w.age :: ((w.srcs ++ w.keeps).map (·.1)) ++ w.overtaken l ++ a else a) []

/-- A row instruction with one result per element. -/
def isNorm (i : Instr) : Bool :=
  match i with
  | .vsoftmax _ _ _ _ _ => true
  | .vrnormRms _ _ _ _ _ => true
  | .vrnormLayer _ _ _ _ _ => true
  | _ => false

/-- The elements at which a row instruction may stand, its end among them (R76, R219): the block boundaries of a sum, the row boundaries of the others. -/
def Window.boundaries (w : Window) : List Nat :=
  let h := w.before
  let steps := if w.pipe.racc then (List.range h.rows).flatMap fun q => (List.range (ceilDiv h.rowlen 256)).map fun b => q * h.rowlen + 256 * b
    else (List.range h.rows).map (· * h.rowlen)
  steps.filter (fun x => decide (h.vs ≤ x)) ++ [h.rows * h.rowlen]

/-- Where a free value stops a begun row instruction; none at its end (DESIGN CHOICE, log entry 70). -/
def Window.stopAt (w : Window) (free : Nat) : Option Nat :=
  let x := w.boundaries.getD (free % w.boundaries.length) 0
  if x = w.before.rows * w.before.rowlen then none else some x

/-- Step 2 of R363 for one instruction: issued micro-ops finish, and what must complete does. -/
def Window.settle (w : Window) (done : List Nat) (free : Nat) : Window :=
  if w.pipe.unit = 3 then w
  else if done.contains w.age then { w with unissued := [], issued := [] }
  else { w with issued := [], next := if w.pipe.unit = 5 && w.begun then w.stopAt free else none }

/-- An instruction past decode has work left. -/
def Window.unfinished (w : Window) : Bool := !w.complete || w.next.isSome

/-- An instruction with nothing of it done. -/
def Window.anew (w : Window) : Window :=
  { w with unissued := (List.range (if w.pipe.each then w.before.groups else 1)).map fun g => (g, 0), issued := [], next := none }

/-- The instructions of a list, oldest first, after step 2 of R363: one that has written what an earlier one has still to write is done anew, so that a replay, in program
order, leaves its value (R375) (DEDUCED, log entry 74). -/
def inOrderWrites (l : List Window) : List Window :=
  l.foldl (fun a w => a ++ [if w.pipe.unit != 3 && a.any (fun v => (v.unfinished && v.pipe.unit != 3) && v.pipe.sameTarget w.pipe) then w.anew else w]) []

/-- Step 2 of R363 for a hart: the flags of what has completed are raised. -/
def State.settleWindows (s : State) (hart : Nat) : State :=
  let l := s.windows hart
  let settled := inOrderWrites (l.map fun w => w.settle (completing l) (Config.freeWord s.free).toNat)
  let f (w : Window) : Window := (settled.find? fun v => v.age == w.age).getD w
  let flags := l.foldl (fun x w => if w.unfinished && !(f w).unfinished then x ||| w.flags else x) 0
  if l.all fun w => w.pipe.unit == 3 then s
  else (({ s with free := s.free + 1 } : State).updCore (dieOf hart) (coreOf hart) fun c => { c with window := updWhere (fun w => w.hart == hart) f c.window }).updHart hart
    fun h => { h with csr := { h.csr with fflags := h.csr.fflags ||| flags } }

/-- R363: issued work has finished, and the settle window begins. -/
def execSettleWindow (hart : Nat) (s : State) : Out :=
  .next (match s.hartById hart with
    | none => s
    | some h => if h.freeze = .begun then (s.settleWindows hart).updHart hart fun g => { g with freeze := .settling } else s)

/-- Active elements that are not done. -/
def Window.undone (w : Window) : List Nat :=
  (w.before.actives w.pipe.gov).filter fun i => w.unissued.any fun p => p.1 == elemGroup w.lay w.before.ebits i

/-- Nothing of the instruction is done, not even what stands below its VSTART: it is recorded whole. -/
def Window.untouched (w : Window) : Bool := !w.begun && (!w.pipe.each || w.before.vs == 0)

/-- Registers as they were before an instruction of which nothing is done. -/
def Window.restore (w : Window) (h : Hart) : Hart :=
  let b := w.before
  let h1 := w.pipe.dst.foldl (fun g v => g.setVec v (b.tagOf v) (b.rv v)) h
  let h2 := match w.pipe.dstM with
    | some m => h1.wm m (b.rm m)
    | none => h1
  let h3 := match w.pipe.dstX with
    | some x => h2.wbank false x (b.rx x)
    | none => h2
  { h3 with csr := { h3.csr with racc := if w.pipe.racc then b.csr.racc else h3.csr.racc } }

/-- Elements of a register that are not done keep their former value, among the first n. -/
def Window.putBack (w : Window) (n : Nat) (undone : Nat → Bool) (h : Hart) (v : VReg) : Hart :=
  let tag := h.tagOf v
  h.wv v (packElems tag w.before.ebits ((List.range n).map fun i => if undone i then w.before.elemAs v tag i else regElem (h.rv v) tag w.before.ebits i))

/-- The running sum of a sum stopped at an element (R76), with the flags of its finished blocks. -/
def Window.sumPart (w : Window) (e : Nat) : Res :=
  let h := w.before
  let part (va : VReg) (m : MReg) (sq : Bool) : Res :=
    let q := e / h.rowlen
    let rows := ((List.range q).filter fun k => decide (h.firstRow ≤ k)).map fun k => h.rowResult va m sq k
    let r := h.rowPart va m sq q ((e - q * h.rowlen) / 256)
    ⟨r.code, r.flags ||| unionFlags rows⟩
  match w.insn with
  | .vrsum _ va m _ => part va m false
  | .vrssq _ va m _ => part va m true
  | _ => ⟨h.csr.racc.toNat, 0⟩

/-- Run an instruction again on what its hart held when it issued, with its seed, changed by a function; the flags that it raises. -/
def Window.flagsOf (w : Window) (s : State) (i : Instr) (f : Hart → Hart) : Flags :=
  let sd := w.seed.getD (0, 0, 0)
  let h := f w.before.noFlags
  let g : Hart := { h with csr := { h.csr with srmode := 3, rngkey := sd.1, rngstream := sd.2.1, rngctr := sd.2.2 }, sup := { h.sup with forcectr := false }, seed := none }
  let u : State := { s with hart := g, cores := [], relaxed := false }
  ((runVector i u).map fun o => (nextState o u).hart.csr.fflags).getD 0

/-- A mask register that the instruction does not write. -/
def scratchMask (i : Instr) : MReg :=
  match i with
  | .vcmp md _ _ _ _ _ _ _ => if md = 7 then 6 else 7
  | .vcmpX md _ _ _ _ _ _ _ => if md = 7 then 6 else 7
  | _ => 7

/-- The bits of a list of elements. -/
def maskOf (l : List Nat) : MBits := BitVec.ofNat 8192 (l.foldl (fun n i => n + 2 ^ i) 0)

/-- The flags of the elements or rows that are done. -/
def Window.doneFlags (w : Window) (s : State) : Flags :=
  match w.next with
  | some e => if w.pipe.racc then (w.sumPart e).flags else if isNorm w.insn then w.flagsOf s w.insn fun h => { h with csr := { h.csr with vl := BitVec.ofNat 64 e } } else 0
  | none =>
    let k := scratchMask w.insn
    let done := (w.before.actives w.pipe.gov).filter fun i => !w.undone.contains i
    match remask w.insn k with
    | some j => w.flagsOf s j fun h => h.wm k (maskOf done)
    | none => 0

/-- What a freeze leaves of an unfinished instruction in its hart: the elements, blocks or rows that are done, with their flags (R76, R186, R219). -/
def Window.undo (w : Window) (s : State) (h : Hart) : Hart :=
  let b := w.before
  if !w.unfinished then h
  else match w.next with
    | some e =>
      let norm := isNorm w.insn
      let n := if norm then e else e / b.rowlen
      let g := w.pipe.dst.foldl (w.putBack (if norm then b.vl else b.rows) fun i => decide (n ≤ i)) h
      { g with csr := { g.csr with fflags := g.csr.fflags ||| w.doneFlags s, vstart := (g.csr.vstart &&& 0x8000000000000000) ||| BitVec.ofNat 64 e,
                                   racc := if w.pipe.racc then BitVec.ofNat 64 (w.sumPart e).code else g.csr.racc } }
    | none =>
      if w.untouched then w.restore h
      else
        let u := w.undone
        let g := w.pipe.dst.foldl (w.putBack b.vl u.contains) h
        let m := match w.pipe.dstM with
          | some m => g.wm m ((g.rm m &&& ~~~ (maskOf u)) ||| (b.rm m &&& maskOf u))
          | none => g
        { m with csr := { m.csr with fflags := m.csr.fflags ||| w.doneFlags s } }

/-- The unfinished compute instructions of a hart past decode, oldest first. -/
def State.unfinished (s : State) (hart : Nat) : List Window := (s.windows hart).filter fun w => w.pipe.unit != 3 && w.unfinished

/-- A hart without the work that its unfinished instructions have not done, from the youngest on. -/
def State.undone (s : State) (h : Hart) : Hart := (s.unfinished h.id).reverse.foldl (fun g w => w.undo s g) h

/-! ### Entries (R367, R368) -/

/-- dw0 of an entry but for its order index. -/
def entryWord (kind cls scope st : Nat) (tag : BitVec 24) : Word :=
  BitVec.ofNat 64 (kind + 2 ^ 8 * cls + 2 ^ 10 * scope + 2 ^ 13 * st + 2 ^ 32 * tag.toNat)

/-- A descriptor whose map word names architected sources and no bitmap slot (DEDUCED, log entry 37). -/
def Kept.descriptor (k : Kept) : List Word := [k.insn, k.a, k.b, k.c, k.d, k.key, k.stream, BitVec.ofNat 64 (0x7F + 2 ^ 7 * k.mode.toNat)]

/-- An entry with its place in program order, before the order indices are given. -/
structure Draft where
  order : Nat
  entry : IfrEntry
  kept : Option Kept
  /-- Sources that the architected registers hold, or will hold once older entries are replayed. -/
  arch : List VReg
  archM : Bool
  deriving DecidableEq, Repr

/-- The ew code of 1, 2, 4 or 8 bytes (R156). -/
def sizeCode (n : Nat) : Nat := Nat.log2 n + 1

/-- The entries of a scalar access (kinds 6 to 9); a 16-byte record store is two (Table 14.4). A fence is recorded while it still waits (kind 12). -/
def State.scalarDrafts (s : State) (h : Hart) (a : Access) : List Draft :=
  let scope := a.scope.toNat
  let ord := (if a.release then 2 else 0) + if a.acquire then 1 else 0
  let one (e : IfrEntry) : List Draft := [⟨a.order, e, none, [], false⟩]
  match a.op with
  | .load rd n signed =>
    one ⟨entryWord 6 0 scope 1 0, a.va, BitVec.ofNat 64 (sizeCode n + 2 ^ 4 * rd.val + (if signed then 2 ^ 9 else 0) + 2 ^ 10 * ord), 0, [], []⟩
  | .store bytes =>
    (List.range ((bytes.length + 7) / 8)).map fun k =>
      let b := (bytes.drop (8 * k)).take 8
      ⟨a.order, ⟨entryWord 7 1 scope 1 0, a.va + BitVec.ofNat 64 (8 * k), BitVec.ofNat 64 (sizeCode b.length + 2 ^ 4 * ord), BitVec.ofNat 64 (leNat b), [], []⟩, none, [], false⟩
  | .amo rd op x _ => one ⟨entryWord 8 2 scope 1 a.tag, a.va, BitVec.ofNat 64 (op + 2 ^ 4 * ord + 2 ^ 6 * rd.val), x, [], []⟩
  | .sync xd op ty sys x => one ⟨entryWord 9 2 scope 1 a.tag, a.va, BitVec.ofNat 64 (op + 2 ^ 4 * ty + (if sys then 2 ^ 7 else 0) + 2 ^ 8 * xd.val), x, [], []⟩
  | .fence imm =>
    if s.recordedFenceWaits h imm then one ⟨entryWord 12 0 scope 1 0, a.va, BitVec.ofNat 64 imm, 0, [], []⟩ else []
  | _ => []

/-- The doublewords of a bitmap slot: code 0 for elements not issued, 1 for those issued and not done, 2 for the others (R368). -/
def bitmapOf (undone : List (Nat × Bool)) : List Word :=
  (List.range 256).map fun w =>
    undone.foldl (fun x p => if p.1 / 32 = w then x - BitVec.ofNat 64 ((if p.2 then 1 else 2) * 2 ^ (2 * (p.1 % 32))) else x) 0xAAAAAAAAAAAAAAAA

/-- The class of a kind of vector memory instruction: a load I, a store P, a VAMO T (R262). -/
def groupClass (kind : Nat) : Nat := if kind = 1 then 0 else if kind = 2 then 1 else 2

/-- A younger instruction has replaced something: of it something is done. -/
def Window.replaces (u w : Window) : Bool := decide (w.age < u.age) && (u.pipe.unit == 3 || !(u.unfinished && u.next.isNone && u.untouched))

/-- The sources of a memory instruction that an unfinished older instruction will have written when it is replayed, and no younger one has replaced. -/
def State.comingSources (s : State) (v : VGroup) : List VReg :=
  let l := s.windows v.hart
  match l.find? fun w => w.order == v.kept.order with
  | none => []
  | some w => (w.pipe.srcs.map (·.1)).filter fun r =>
      (l.any fun u => decide (u.age < w.age) && u.pipe.unit != 3 && u.unfinished && u.pipe.dst.contains r) && !l.any fun u => u.replaces w && u.pipe.dst.contains r

/-- So for its mask. -/
def State.comingMask (s : State) (v : VGroup) : Bool :=
  let l := s.windows v.hart
  (l.find? fun w => w.order == v.kept.order).any fun w => w.pipe.masks.any fun m =>
    (l.any fun u => decide (u.age < w.age) && u.pipe.unit != 3 && u.unfinished && u.pipe.dstM == some m) && !l.any fun u => u.replaces w && u.pipe.dstM == some m

/-- The entry of a vector memory instruction of which element accesses are outstanding (kinds 1 to 3). -/
def State.groupDraft (s : State) (v : VGroup) : Draft :=
  let undone := (s.outstanding v.hart).filterMap fun a => a.elem.bind fun e => if e.1 = v.grp then some (e.2, !s.atPort a) else none
  let whole := decide (undone.length = v.vl)
  ⟨v.kept.order, ⟨entryWord v.kind (groupClass v.kind) v.scope.toNat (if whole then (if undone.any (·.2) then 1 else 0) else 2) v.tag, v.kept.pc, BitVec.ofNat 64 v.vl, 0,
    v.kept.descriptor, if whole then [] else bitmapOf undone⟩, some v.kept, s.comingSources v, s.comingMask v⟩

/-- The rounding mode in force for an instruction (R368). -/
def Hart.modeCode (h : Hart) (i : Instr) : BitVec 3 :=
  match i with
  | .vcvt _ _ _ sr _ _ _ => if sr then BitVec.ofNat 3 RMode.sr.code else h.csr.frm
  | .vmxq _ _ _ _ _ rnd _ _ => if rnd = 6 then h.csr.frm else rnd
  | _ => h.csr.frm

/-- What the entry of an instruction past decode keeps: its scalar operands in A and B, in C and D of a row group the counter of its seed and RACC, in D of
another the counter (DEDUCED, log entry 37). -/
def Window.kept (w : Window) (racc : Word) : Kept :=
  let b := w.before
  let r := insnRoles w.insn
  let x (k : Nat) : Word := ((insnSources w.insn).map b.rx).getD k 0
  let sd := w.seed.getD (0, 0, 0)
  let img (v : Option VReg) : VBits := (v.map b.rv).getD 0
  let tag (v : Option VReg) : BitVec 8 := (v.map b.tagOf).getD 0
  let row := w.pipe.unit == 5
  { order := w.order, pc := b.pc, insn := BitVec.ofNat 64 (insnWord w.insn), a := x 0, b := x 1, c := if row then sd.2.2 else 0, d := if row then racc else sd.2.2,
    key := sd.1, stream := sd.2.1, mode := b.modeCode w.insn, va := img r.va, vaTag := tag r.va, vb := img r.vb, vbTag := tag r.vb, vi := 0, viTag := 0, mask := b.rm r.m }

/-- The entry of an unfinished instruction past decode: kind 5 a row group, kind 4 any other (Table 14.4). -/
def State.windowDraft (s : State) (racc : Word) (w : Window) : Draft :=
  let b := w.before
  let l := (s.windows w.hart).filter fun u => u.replaces w
  let row := w.pipe.unit == 5
  let part := !w.untouched || w.next.isSome
  let k := w.kept (if w.next.isSome then racc else b.csr.racc)
  let kept (v : VReg) : Bool := !(w.pipe.srcs.map (·.1)).contains v || !(l.any fun u => u.pipe.dst.contains v) && !(part && w.pipe.dst.contains v && s.hart.tagOf v != b.tagOf v)
  ⟨w.order, ⟨entryWord (if row then 5 else 4) 0 0 (if part then 2 else 0) 0, b.pc, if row then BitVec.ofNat 64 (w.next.getD b.vs) else BitVec.ofNat 64 b.vl, 0, k.descriptor,
    if row || !part then [] else bitmapOf (w.undone.map fun i => (i, false))⟩, some k,
    ((insnRoles w.insn).va.toList ++ (insnRoles w.insn).vb.toList).filter kept, !l.any fun u => u.pipe.dstM == some (insnRoles w.insn).m⟩

/-- The entry of a stream transfer (kind 10). -/
def StreamCmd.draft (c : StreamCmd) : Draft :=
  let done := c.chunksDone.foldl (fun n k => n ||| 2 ^ k) 0
  ⟨c.kept.order, ⟨entryWord 10 1 1 (if c.chunksDone.isEmpty then 1 else 2) 0, c.kept.pc, BitVec.ofNat 64 (done + 2 ^ 8 * c.handle), 0, c.kept.descriptor, []⟩, some c.kept, [], false⟩

/-- The entry of a posted copy in queue q (kind 11). -/
def CopyCmd.draft (q : Nat) (c : CopyCmd) : Draft :=
  ⟨c.kept.order, ⟨entryWord 11 (if c.overlap then 2 else 1) 3 1 (if c.overlap then c.tag else 0), c.kept.pc, BitVec.ofNat 64 q, 0, c.kept.descriptor, []⟩, some c.kept, [], false⟩

/-- The entry of an append that has claimed (kind 13). -/
def Append.draft (a : Append) : Draft :=
  ⟨a.kept.order, ⟨entryWord 13 2 3 1 a.tag, a.kept.pc, a.first, 0, a.kept.descriptor, []⟩, some a.kept, [], false⟩

/-- The entry of an unacknowledged train (kind 14); its destination is a die number as handles hold it. -/
def State.trainDraft (s : State) (t : Train) : Draft :=
  ⟨t.kept.order, ⟨entryWord 14 2 3 1 t.tag, BitVec.ofNat 64 (s.fabric.pkgpos.toNat * 8 + t.die), BitVec.ofNat 64 t.count, 0, t.kept.descriptor, []⟩, some t.kept, [], false⟩

/-- The entry of a gang strip that has not landed (kind 1). -/
def Strip.draft (x : Strip) : Draft :=
  ⟨x.kept.order, ⟨entryWord 1 0 0 1 0, x.kept.pc, BitVec.ofNat 64 x.vl, 0, x.kept.descriptor, []⟩, some x.kept, [], false⟩

/-- The posted copies of a hart, with their queues. -/
def State.hartCopies (s : State) (id : Nat) : List (Nat × CopyCmd) :=
  s.dies.toList.flatMap fun d => (List.range 8).flatMap fun q =>
    ((d.copies.get (Fin.ofNat 8 q)).filter fun c => c.hart == id && !c.ladle && !c.orphan).map fun c => (q, c)

/-- Put a draft behind those that do not come after it. -/
def insertDraft (d : Draft) : List Draft → List Draft
  | [] => [d]
  | e :: l => if d.order < e.order then d :: e :: l else e :: insertDraft d l

/-- Everything of a hart that is not done or not acknowledged, oldest first (R364). -/
def State.drafts (s : State) (h : Hart) : List Draft :=
  let l := (s.unfinished h.id).map (s.windowDraft h.csr.racc) ++ ((s.outstanding h.id).filter fun a => !a.sup && a.elem.isNone).flatMap (s.scalarDrafts h) ++ (s.vgroups.filter fun v => v.hart == h.id).map s.groupDraft ++
    (s.streams.filter fun c => c.hart == h.id).map (·.draft) ++ (s.hartCopies h.id).map (fun p => p.2.draft p.1) ++
    (s.appends.filter fun a => a.hart == h.id && a.post == .due).map (·.draft) ++ (s.trains.filter fun t => t.hart == h.id && !t.orphan).map s.trainDraft ++ h.strips.map (·.draft)
  l.foldl (fun acc d => insertDraft d acc) []

/-- Change the map word of a descriptor. -/
def IfrEntry.addMap (e : IfrEntry) (x : Nat) : IfrEntry := { e with desc := e.desc.set 7 ((e.desc.getD 7 0) + BitVec.ofNat 64 x) }

/-- Name a source by a shadow image when the register has been replaced (R368): `lo` is the place of its source code. -/
def Ifr.shadow (r : Ifr) (h : Hart) (reg : Option VReg) (img : VBits) (tag : BitVec 8) (lo : Nat) (e : IfrEntry) : Ifr × IfrEntry :=
  match reg with
  | none => (r, e)
  | some v =>
    if h.rv v = img ∧ h.tagOf v = tag then (r, e)
    else match (List.range r.shadows.length).find? fun n => r.shadows.getD n 0 == img && r.shadowTags.getD n 0 == tag with
      | some n => (r, e.addMap ((n + 1) * 2 ^ lo))
      | none => ({ r with shadows := r.shadows ++ [img], shadowTags := r.shadowTags ++ [tag] }, e.addMap ((r.shadows.length + 1) * 2 ^ lo))

/-- Name the governing mask by a shadow when it has been replaced. -/
def Ifr.shadowMask (r : Ifr) (h : Hart) (m : MReg) (img : MBits) (e : IfrEntry) : Ifr × IfrEntry :=
  if m = 0 ∨ h.rm m = img then (r, e)
  else match (List.range r.shadowMasks.length).find? fun n => r.shadowMasks.getD n 0 == img with
    | some n => (r, e.addMap ((n + 1) * 2 ^ 34))
    | none => ({ r with shadowMasks := r.shadowMasks ++ [img] }, e.addMap ((r.shadowMasks.length + 1) * 2 ^ 34))

/-- Name a bitmap slot for an entry that has a bitmap (R368). -/
def Ifr.slot (r : Ifr) (e : IfrEntry) : Ifr × IfrEntry :=
  if e.bitmap.isEmpty then (r, e)
  else ({ r with bitmaps := r.bitmaps + 1 }, { e with desc := e.desc.set 7 ((e.desc.getD 7 0) - 0x7F + BitVec.ofNat 64 r.bitmaps) })

/-- Add a draft to a record: its order index, bitmap slot and shadow images. -/
def Ifr.add (r : Ifr) (h : Hart) (d : Draft) : Ifr :=
  let e0 := { d.entry with dw0 := d.entry.dw0 + BitVec.ofNat 64 (2 ^ 16 * r.entries.length) }
  let (r1, e1) := r.slot e0
  let (r2, e2) := match d.kept with
    | none => (r1, e1)
    | some k =>
      let roles := match decodeBytes (leBytes 8 k.insn.toNat) with
        | .ok (i, _) => insnRoles i
        | .error _ => ⟨none, none, none, none, 0⟩
      let named (v : Option VReg) : Option VReg := v.filter fun x => !d.arch.contains x
      let (a, x) := r1.shadow h (if e1.kind = 3 then none else named roles.va) k.va k.vaTag 10 e1
      let (b, y) := a.shadow h (named roles.vb) k.vb k.vbTag 16 x
      let (c, z) := b.shadow h (named roles.vi) k.vi k.viTag 28 y
      if d.archM then (c, z) else c.shadowMask h roles.m k.mask z
  { r2 with entries := r2.entries ++ [e2] }

/-- Add an entry that an earlier record held: its order index and its bitmap slot are given anew. -/
def Ifr.carry (r : Ifr) (e : IfrEntry) : Ifr :=
  let e0 := { e with dw0 := BitVec.ofNat 64 (e.dw0.toNat - e.order * 2 ^ 16 + 2 ^ 16 * r.entries.length)
                     desc := if e.desc.isEmpty then [] else e.desc.set 7 (BitVec.ofNat 64 (e.map / 128 * 128 + 0x7F)) }
  let (r1, e1) := r.slot e0
  { r1 with entries := r1.entries ++ [e1] }

/-- The record of a hart over its header: its outstanding work, then what an earlier record has not replayed. -/
def State.record (s : State) (h : Hart) (header : Ifr) : Ifr :=
  header.entries.foldl Ifr.carry ((s.drafts h).foldl (fun r d => r.add h d) { header with entries := [] })

/-- The record fits the save area (R366, R368) (DEDUCED, log entry 38). -/
def Ifr.fits (r : Ifr) : Bool :=
  decide (r.entries.length ≤ 512) && decide (r.bitmaps ≤ 64) && decide (r.shadows.length ≤ 32) && decide (r.shadowMasks.length ≤ 8)

/-- An access that is still on its way to its target when its hart's record is frozen: a store, or an atomic (R372). One of which the micro-op has not issued is
not on its way: issue has stopped (R363). -/
def State.onTheWay (s : State) (a : Access) : Bool := !a.performed && a.writes && !s.atPort a

/-- The context stops being this hart's outstanding work: stores and atomics still on their way go on without it, so do copies and trains, of which the
completions are discarded (R363, R365, R372). An append that has committed is done. -/
def State.orphanWork (s : State) (id : Nat) : State :=
  let gone (a : Access) : Bool := a.hart == id && !a.sup
  let told (t : Train) : Bool := t.hart == id && !t.orphan && t.arrived && s.answered t.ctx t.issuer t.tag
  { s with
    accesses := s.accesses.filter fun a => !gone a
    orphans := s.orphans ++ s.accesses.filter fun a => gone a && s.onTheWay a
    vgroups := s.vgroups.filter fun v => v.hart != id
    streams := s.streams.filter fun c => c.hart != id
    appends := s.appends.filter fun a => a.hart != id
    trains := (s.trains.filter fun t => !told t).map fun t => if t.hart = id then { t with orphan := true } else t
    dies := s.dies.map fun (d : Die) => { d with copies := d.copies.map fun (l : List CopyCmd) => l.map fun c => if c.hart = id ∧ c.ladle = false then { c with orphan := true } else c } }

/-- The hart once its record is frozen: the epoch advances and the sequence restarts (R370); no B tile stays in place (R314). -/
def Hart.freezeRecord (h : Hart) (r : Ifr) : Hart :=
  { h with freeze := .frozen, ifr := some r, strips := [], tags := { h.tags with epoch := h.tags.epoch + 1, seq := 0 }, vec := { h.vec with tile := none } }

/-- Step 4 of R363, when the record fits the save area; else it is made as soon as enough responses have arrived. What vector instructions past decode have not
done is taken back, and VSTART is that of the hart then. -/
def State.freezeRecord (s : State) (h : Hart) (header : Ifr) : State :=
  let g := s.undone h
  let r := (s.updHart h.id fun _ => g).record g { header with vstart := g.csr.vstart }
  if r.fits then
    let s1 := (((s.orphanWork h.id).dropQueue h.id).dropWindows h.id).updHart h.id fun _ => g.freezeRecord r
    if s1.parked.any fun p => p.ctx == h.sup.ctxid && p.issuer == h.tags.issuer then s1
    else { s1 with parked := s1.parked ++ [⟨h.id, h.sup.ctxid, h.tags.issuer, h.job, g.seed⟩] }
  else s

/-- R363: the settle window expires, and the record is frozen. -/
def execRecordFrozen (hart : Nat) (s : State) : Out :=
  .next (match s.hartById hart with
    | none => s
    | some h => match h.ifr with
      | none => s
      | some header => if h.freeze = .settling then s.freezeRecord h header else s)

end Sys2Proof.Machine
end

