-- ==== Sys2Proof/Machine/Save.lean ====
section
/-! DEFINITION. The save area at IFRBASE (R177, R178, R366 to R368, R373, R374, Table 14.5): IFRSAVE, IFRLOAD, CTXSAVEV and CTXLOADV. -/

namespace Sys2Proof.Machine

/-! ### Physical accesses at IFRBASE (R177) -/

/-- Replace a block of bytes. -/
def Memory.block (m : List Host.Cell) (loc : Nat) (b : List Byte) : List Host.Cell :=
  m.filter (fun c => decide (c.1 < loc)) ++ ((b.zipIdx loc).filterMap fun p => if p.1 = 0 then none else some (p.2, p.1)) ++
    m.filter (fun c => decide (loc + b.length ≤ c.1))

/-- A byte of the save area as a physical address. -/
def State.areaPa (s : State) (off : Nat) : Nat := s.hart.sup.ifrbase.toNat + off

/-- Its location. -/
def State.areaLoc (s : State) (off : Nat) : Nat := s.physLoc none (s.areaPa off)

/-- The first of n physical addresses from a on that lies beyond installed memory; the ends of the ranges of Table 18.2 are candidates. -/
def State.firstAbsent (s : State) (a n : Nat) : Option Nat :=
  [a, 2 ^ 40, 2 ^ 47, 2 ^ 47 + s.mgmt.hostsize.toNat].find? fun x => decide (a ≤ x) && decide (x < a + n) && !s.installedMemory x

/-- The first physical address of offsets lo to hi - 1 that lies beyond installed memory. -/
def State.areaFault (s : State) (lo hi : Nat) : Option Nat := s.firstAbsent (s.areaPa lo) (hi - lo)

/-- The places of the lines of offsets lo to hi - 1. -/
def State.areaPlaces (s : State) (lo hi : Nat) : List Place :=
  (List.range ((hi - lo + 63) / 64)).map fun k => s.physPlace none true (s.areaPa (lo + 64 * k))

/-- An access of an instruction to offsets lo to hi - 1 of the save area (R177): PERMISSION beyond installed memory. -/
def State.saveArea (s : State) (i : Instr) (lo hi : Nat) (k : AKind) (f : State → State) : State :=
  match s.areaFault lo hi with
  | some a => s.raise i (.permission k) (BitVec.ofNat 64 a) 0
  | none => s.afterEarlier i fun s => s.passGates i (s.areaPlaces lo hi) f

/-- Write pieces of the save area. -/
def State.writeArea (s : State) (l : List (Nat × List Byte)) : State :=
  { s with mem := l.foldl (fun m p => Memory.block m (s.areaLoc p.1) p.2) s.mem }

/-- Bytes of the save area. -/
def State.areaBytes (s : State) (off n : Nat) : List Byte := Memory.bytes s.mem (s.areaLoc off) n

/-- The number of bytes of the save area. -/
def State.areaNum (s : State) (off n : Nat) : Nat := leNat (s.areaBytes off n)

/-- A doubleword of the save area. -/
def State.areaWord (s : State) (off : Nat) : Word := BitVec.ofNat 64 (s.areaNum off 8)

/-! ### IFRSAVE (R366 to R368, R374) -/

/-- Kinds whose dw3 is a descriptor address (Table 14.4). -/
def hasDescriptor (kind : Nat) : Bool := [1, 2, 3, 4, 5, 10, 11, 13, 14].contains kind

/-- The class of an entry: 0 I, 1 P, 2 T. -/
def IfrEntry.cls (e : IfrEntry) : Nat := bitsOf e.dw0.toNat 9 8

/-- The scope code of an entry. -/
def IfrEntry.scope (e : IfrEntry) : BitVec 3 := BitVec.ofNat 3 (bitsOf e.dw0.toNat 12 10)

/-- The tag of an entry. -/
def IfrEntry.tag (e : IfrEntry) : BitVec 24 := BitVec.ofNat 24 (bitsOf e.dw0.toNat 55 32)

/-- The bytes of the header (Table 14.3). -/
def Ifr.headerBytes (r : Ifr) : List Byte :=
  leBytes 8 r.pc.toNat ++ leBytes 8 r.vstart.toNat ++ leBytes 4 r.context.toNat ++ leBytes 4 r.issuer.toNat ++ [r.epoch, r.reason] ++
  leBytes 2 r.entries.length ++ leBytes 1 r.octets ++ leBytes 1 r.bitmaps ++ leBytes 1 r.shadows.length ++ List.replicate 33 0

/-- The bytes of entry k, with its descriptor's address in dw3 when it has one. -/
def State.entryBytes (s : State) (k : Nat) (e : IfrEntry) : List Byte :=
  leBytes 8 e.dw0.toNat ++ leBytes 8 e.dw1.toNat ++ leBytes 8 e.dw2.toNat ++
  leBytes 8 (if hasDescriptor e.kind then s.areaPa (0x50000 + 64 * k) else e.dw3.toNat)

/-- The pieces of the save area that a record fills (DEDUCED, log entry 39). -/
def State.recordPieces (s : State) (r : Ifr) : List (Nat × List Byte) :=
  [(0x48000, r.headerBytes ++ (r.entries.zipIdx.flatMap fun p => s.entryBytes p.2 p.1))] ++
  (r.entries.zipIdx.filterMap fun p => if hasDescriptor p.1.kind then some (0x50000 + 64 * p.2, p.1.desc.flatMap fun w => leBytes 8 w.toNat) else none) ++
  (r.entries.filterMap fun e => if e.bitmap.isEmpty then none else some (0x58000 + 2048 * (e.map % 128), e.bitmap.flatMap fun w => leBytes 8 w.toNat)) ++
  (r.shadows.zipIdx.map fun p => (0x78000 + 4096 * p.2, leBytes 4096 p.1.toNat)) ++ [(0x9A000, r.shadowTags)] ++
  (r.shadowMasks.zipIdx.map fun p => (0x98000 + 1024 * p.2, leBytes 1024 p.1.toNat))

/-- IFRSAVE: it begins a freeze when none has begun, waits for the frozen record, and writes it. A record that is held and not wholly replayed goes into the new
one (R177). -/
def State.ifrsave (s : State) (i : Instr) (rd : XReg) : State :=
  if s.hart.freeze = .begun ∨ s.hart.freeze = .settling then s.waits i
  else if s.hart.freeze = .none then s.afterEarlier i fun s => (s.beginFreeze s.hart.id s.hart.sup.trappc 3).waits i
  else match s.hart.ifr with
    | none => s.ret rd 0
    | some r => s.saveArea i 0x48000 0x9B000 .write fun t => (t.writeArea (t.recordPieces r)).ret rd (BitVec.ofNat 64 r.entries.length)

/-- R374, R177: IFRSAVE. -/
def execIfrsave (rd : XReg) (s : State) : Out := .next (s.privileged (.ifrsave rd) fun s => s.ifrsave (.ifrsave rd) rd)

/-! ### IFRLOAD (R374) -/

/-- A saved tag: its reserved bit is ignored (R8), and one that no register may hold (R180) is the tag of binding (DEDUCED, log entry 43). -/
def savedTag (t : BitVec 8) : BitVec 8 := if tagLegal (t &&& 0x7F) then t &&& 0x7F else 0x09

/-- An entry as the save area holds it: the reserved bits of its first doubleword and of its map word are ignored and read as zero (R8). -/
def State.loadEntry (s : State) (k : Nat) : IfrEntry :=
  let w (j : Nat) : Word := s.areaWord (0x48040 + 32 * k + 8 * j)
  let kind := bitsOf (w 0).toNat 7 0
  let desc := if hasDescriptor kind then (List.range 8).map fun j => lowBits (s.areaWord (0x50000 + 64 * k + 8 * j)) (if j = 7 then 38 else 64) else []
  let slot := (desc.getD 7 0).toNat % 128
  { dw0 := lowBits (w 0) 56, dw1 := w 1, dw2 := w 2, dw3 := w 3, desc := desc
    bitmap := if hasDescriptor kind && decide (kind ≤ 4) && decide (slot < 64) then (List.range 256).map fun j => s.areaWord (0x58000 + 2048 * slot + 8 * j) else [] }

/-- The record at IFRBASE. -/
def State.loadRecord (s : State) : Ifr :=
  let n := s.areaNum 0x4801A 2
  let shadows := min (s.areaNum 0x4801E 1) 32
  { pc := s.areaWord 0x48000, vstart := s.areaWord 0x48008, context := BitVec.ofNat 32 (s.areaNum 0x48010 4), issuer := BitVec.ofNat 32 (s.areaNum 0x48014 4)
    epoch := BitVec.ofNat 8 (s.areaNum 0x48018 1), reason := BitVec.ofNat 8 (s.areaNum 0x48019 1), octets := s.areaNum 0x4801C 1
    bitmaps := s.areaNum 0x4801D 1, entries := (List.range n).map s.loadEntry
    shadows := (List.range shadows).map fun k => BitVec.ofNat 32768 (s.areaNum (0x78000 + 4096 * k) 4096)
    shadowTags := (s.areaBytes 0x9A000 shadows).map savedTag
    shadowMasks := (List.range 8).map fun k => BitVec.ofNat 8192 (s.areaNum (0x98000 + 1024 * k) 1024)
    replayed := 0, answered := 0 }

/-- An entry that IFRLOAD accepts under a shadow count (R374). -/
def IfrEntry.wellFormed (shadows : Nat) (e : IfrEntry) : Bool :=
  decide (1 ≤ e.kind) && decide (e.kind ≤ 14) && e.cls != 3 && decide (bitsOf e.dw0.toNat 15 13 ≤ 2) &&
  (e.desc.isEmpty || ([10, 16, 22, 28].all (fun lo => decide (bitsOf e.map (lo + 5) lo ≤ shadows)) && decide (bitsOf e.map 37 34 ≤ 8)))

/-- IFRLOAD: the context first, then the record's form, then the load into the record buffer. -/
def State.ifrload (s : State) (i : Instr) (rd : XReg) : State :=
  if s.hart.freeze = .begun ∨ s.hart.freeze = .settling then s.waits i
  else s.saveArea i 0x48000 0x9B000 .read fun t =>
    if t.areaNum 0x48010 4 ≠ t.hart.sup.ctxid.toNat then t.ret rd (BitVec.allOnes 64)
    else if 512 < t.areaNum 0x4801A 2 then t.illegalOperand i
    else
      let r := t.loadRecord
      if r.entries.all (IfrEntry.wellFormed (t.areaNum 0x4801E 1)) then (t.onHart fun h => { h with ifr := some r }).ret rd (BitVec.ofNat 64 r.entries.length)
      else t.illegalOperand i

/-- R374, R177: IFRLOAD. -/
def execIfrload (rd : XReg) (s : State) : Out := .next (s.privileged (.ifrload rd) fun s => s.ifrload (.ifrload rd) rd)

/-! ### CTXSAVEV (R373, R374, Table 14.5) -/

/-- The mode doubleword at 0x1E8. -/
def Hart.modeWord (h : Hart) : Nat := (if h.vec.matrix then 1 else 0) + (if h.vec.accI32 then 2 else 0) + 256 * octetCount h.vec.octets

/-- The bytes of a handle. -/
def Handle.bytes (x : Handle) : List Byte := leBytes 4 x.base ++ leBytes 4 x.size ++ leBytes 8 x.state.code

/-- The event queue, padded with zeros to 64 records. -/
def EventQueue.bytes (q : EventQueue) : List Byte :=
  let b := q.recs.flatMap fun e => leBytes 8 e.dws.1 ++ leBytes 8 e.dws.2
  b ++ List.replicate (1024 - b.length) 0

/-- The pieces of the save area that a context fills; what lies beyond the grant is zero. -/
def State.contextPieces (s : State) : List (Nat × List Byte) :=
  let h := s.hart
  let word (x : Nat) : List Byte := leBytes 8 x
  [(0, (List.range 32).flatMap fun n => word (if n = 0 then 0 else (h.x.get (Fin.ofNat 32 n)).toNat)),
   (0x100, (List.range 0x1C).flatMap fun n => word (s.csrValue n).toNat),
   (0x1E0, word h.sup.trappc.toNat ++ word h.modeWord ++ word h.tags.issuer.toNat ++ word h.tags.value.toNat ++ h.vec.tag.toList),
   (0x240, h.handles.toList.flatMap (·.bytes)),
   (0x800, h.events.bytes ++ word h.events.recs.length),
   (0x1000, (List.range 7).flatMap fun k => leBytes 1024 (lowBits (h.vec.m.get (Fin.ofNat 8 (k + 1))) (128 * h.lanes)).toNat),
   (0x4000, leBytes 16384 (lowBits h.vec.acc (2048 * h.lanes)).toNat)] ++
  (List.range 64).map fun n => (0x8000 + 4096 * n, leBytes 4096 (lowBits (h.vec.v.get (Fin.ofNat 64 n)) (512 * h.lanes)).toNat)

/-- R374, R177: CTXSAVEV; it raises ILLEGAL_OPERAND unless the context is frozen. -/
def execCtxsavev (rd : XReg) (s : State) : Out :=
  let i := Instr.ctxsavev rd
  .next (s.privileged i fun s => s.guardOperand i (s.hart.freeze == .frozen) fun s => s.saveArea i 0 0x48000 .write fun t => (t.writeArea t.contextPieces).ret rd 0)

/-! ### CTXLOADV (R178, R376) -/

/-- The record at IFRBASE holds an entry that is bound to the saved grant (R178). -/
def State.recordBound (s : State) : Bool :=
  (List.range (min (s.areaNum 0x4801A 2) 512)).any fun k => [1, 2, 3, 4, 5, 10, 13].contains (s.areaNum (0x48040 + 32 * k) 1)

/-- The element width of a saved VLMAX and grant, as an ew code: VLMAX is the grant's bits over the width (R17) (DEDUCED, log entry 43). -/
def savedEw (octets vlmax : Nat) : BitVec 3 := BitVec.ofNat 3 (if vlmax = 0 then 3 else min 4 (Nat.log2 (octets * 4096 / vlmax / 4)))

/-- The state of a handle by its code. -/
def HandleState.ofCode (n : Nat) : HandleState :=
  match n % 4 with
  | 0 => .free
  | 1 => .filling
  | 2 => .full
  | _ => .draining

/-- The application control registers as saved; VL is at most the new VLMAX, TRIM is kept. -/
def State.loadAppCsr (s : State) (h : Hart) : Hart :=
  let w (n : Nat) : Word := s.areaWord (0x100 + 8 * n)
  let h1 := [0x000, 0x003, 0x004, 0x005, 0x007, 0x008, 0x009, 0x00A, 0x00B, 0x00C, 0x00D, 0x00E, 0x018, 0x019].foldl (fun g n => g.setAppCsr n (w n)) h
  { h1 with csr := { h1.csr with vstart := w 2 &&& 0x80000000FFFFFFFF, routever := (w 0x00F).setWidth 32, gangid := w 0x013, gangsize := w 0x014, gangrank := w 0x015,
                                 launcharg := w 0x016, cycle := w 0x017 } }

/-- An event record as saved. -/
def State.loadEvent (s : State) (k : Nat) : EventRec :=
  let d := s.areaNum (0x800 + 16 * k) 8
  ⟨BitVec.ofNat 32 (d / 2 ^ 32), ⟨BitVec.ofNat 8 d, BitVec.ofNat 8 (d / 256), s.areaWord (0x808 + 16 * k)⟩⟩

/-- The event queue as saved; numbers go on from the newest record (DEDUCED, log entry 43). -/
def State.loadEvents (s : State) : EventQueue :=
  let recs := (List.range (min (s.areaNum 0xC00 8) 64)).map s.loadEvent
  { recs := recs, seq := match recs.getLast? with
      | some e => e.seq + 1
      | none => 0
    held := none, stalled := [] }

/-- The vector side as saved, under the current grant; lanes beyond the saved grant read zero (R178). -/
def State.loadVec (s : State) (h : Hart) : Vec :=
  let mode := s.areaNum 0x1E8 8
  let lanes := min h.lanes (8 * bitsOf mode 11 8)
  { v := Vector.ofFn fun n => lowBits (BitVec.ofNat 32768 (s.areaNum (0x8000 + 4096 * n.val) 4096)) (512 * lanes)
    tag := Vector.ofFn fun n => savedTag (BitVec.ofNat 8 (s.areaNum (0x200 + n.val) 1))
    m := Vector.ofFn fun n => if n.val = 0 then 0 else lowBits (BitVec.ofNat 8192 (s.areaNum (0x1000 + 1024 * (n.val - 1)) 1024)) (128 * lanes)
    acc := lowBits (BitVec.ofNat 131072 (s.areaNum 0x4000 16384)) (2048 * lanes)
    accI32 := bitOf mode 1, matrix := bitOf mode 0, octets := h.vec.octets, ew := savedEw (bitsOf mode 11 8) (s.areaNum 0x108 8), tile := none }

/-- The launch and gang of the frozen context that resumes, and the seed it kept; the hart's own launch and gang, and no seed, when none is parked. -/
def State.parkedJob (s : State) (ctx issuer : BitVec 32) (job : Job) : Job × Option HeldSeed :=
  match s.parked.find? fun p => p.ctx == ctx && p.issuer == issuer with
  | some p => (p.job, p.seed)
  | none => (job, none)

/-- The hart with the saved context. -/
def State.loadContext (s : State) (h : Hart) : Hart :=
  let issuer := BitVec.ofNat 32 (s.areaNum 0x1F0 4)
  let g := s.loadAppCsr { h with vec := s.loadVec h }
  { g with
    x := Vector.ofFn fun n => if n.val = 0 then 0 else s.areaWord (8 * n.val)
    sup := { g.sup with trappc := s.areaWord 0x1E0 }
    handles := Vector.ofFn fun n =>
      ⟨s.areaNum (0x240 + 16 * n.val) 4, s.areaNum (0x244 + 16 * n.val) 4, HandleState.ofCode (s.areaNum (0x248 + 16 * n.val) 1)⟩
    events := s.loadEvents
    tags := ⟨issuer, BitVec.ofNat 8 (s.areaNum 0x1FA 1), BitVec.ofNat 16 (s.areaNum 0x1F8 2)⟩
    job := (s.parkedJob h.sup.ctxid issuer h.job).1
    seed := (s.parkedJob h.sup.ctxid issuer h.job).2 }

/-- CTXLOADV: the test of R178, then the restore; MGRANT reads 0 (R42). -/
def State.ctxloadv (s : State) (i : Instr) (rd : XReg) : State :=
  s.saveArea i 0 0x48000 .read fun t =>
    let load (u : State) : State := ((u.releaseSegments u.hart.id).onHart u.loadContext).ret rd 0
    if octetCount t.hart.vec.octets < bitsOf (t.areaNum 0x1E8 8) 11 8 then
      t.saveArea i 0x48000 0x50000 .read fun u => if u.recordBound then u.illegalOperand i else load u
    else load t

/-- R178, R177: CTXLOADV. -/
def execCtxloadv (rd : XReg) (s : State) : Out := .next (s.privileged (.ctxloadv rd) fun s => s.ctxloadv (.ctxloadv rd) rd)

end Sys2Proof.Machine
end

