-- ==== Sys2Proof/Machine/Replay.lean ====
section
/-! DEFINITION. The replay of a record (R369 to R372, R375, R376, R392), IFRREPLAY and TRET (R176). -/

namespace Sys2Proof.Machine

/-! ### The hart that reissues an entry -/

/-- How the reissue of an entry ends: with the answers it took from duplicate tables, waiting, with its context killed, or with a failed check. -/
inductive Reissue where
  | done (s : State) (answers : Nat)
  | held (s : State)
  | stopped (s : State)
  | failed (c : Cause) (val : Word)
  deriving DecidableEq, Repr

/-- The access kind of a code. -/
def AKind.ofCode (n : Nat) : AKind :=
  match n % 4 with
  | 0 => .read
  | 1 => .write
  | _ => .fetch

/-- The cause of a TRAPCAUSE value. -/
def Cause.ofCode (n : Nat) : Cause :=
  let k := AKind.ofCode (n / 256)
  match n % 256 with
  | 1 => .illegalInstruction
  | 3 => .misaligned k
  | 4 => .pageFault k
  | 5 => .permission k
  | 6 => .windowRange k
  | 7 => .syncHandle
  | 8 => .breakpoint
  | 9 => .ecall
  | 10 => .preempt
  | 11 => .containment
  | _ => .illegalOperand

/-- The instruction of an entry's descriptor. -/
def IfrEntry.insn (e : IfrEntry) : Option Instr := match decodeBytes (leBytes 8 (e.desc.getD 0 0).toNat) with
  | .ok (i, _) => some i
  | .error _ => none

/-- Operand word A to D of a descriptor, then its seed words. -/
def IfrEntry.word (e : IfrEntry) (k : Nat) : Word := e.desc.getD (k + 1) 0

/-- The image that a source code names (R368): none for the architected register. -/
def Ifr.image (r : Ifr) (code : Nat) : Option (VBits × BitVec 8) :=
  if code = 0 then none else (r.shadows[code - 1]?).map fun x => (x, r.shadowTags.getD (code - 1) 0)

/-- Put a shadow image into a register. -/
def Hart.withImage (h : Hart) (r : Option VReg) (img : Option (VBits × BitVec 8)) : Hart :=
  match r, img with
  | some v, some x => h.setVec v x.2 x.1
  | _, _ => h

/-- Put a shadow mask into the governing mask register. -/
def Hart.withMask (h : Hart) (r : Ifr) (m : MReg) (code : Nat) : Hart :=
  if code = 0 then h else match r.shadowMasks[code - 1]? with
    | some x => h.wm m x
    | none => h

/-- Write scalar registers in turn. -/
def Hart.withScalars (h : Hart) (l : List (XReg × Word)) : Hart := l.foldl (fun g p => g.wx p.1 p.2) h

/-- The hart as an application instruction of an entry finds it: the pc and tag of the entry, its shadow images, its rounding mode and its seed. -/
def Hart.reissuing (h : Hart) (r : Ifr) (e : IfrEntry) (i : Instr) : Hart :=
  let roles := insnRoles i
  let code (lo : Nat) : Option (VBits × BitVec 8) := r.image (bitsOf e.map (lo + 5) lo)
  let g := ((((h.withImage roles.va (code 10)).withImage roles.vb (code 16)).withImage roles.vd (code 22)).withImage roles.vi (code 28)).withMask r roles.m (bitsOf e.map 37 34)
  { g with
    level := .app, run := .running, wait := none, freeze := .none, pc := e.dw1
    tags := ⟨r.issuer, e.tag.extractLsb' 16 8, e.tag.setWidth 16⟩
    sup := { g.sup with forcectr := false }
    csr := { g.csr with vstart := 0, frm := BitVec.ofNat 3 (bitsOf e.map 9 7), srmode := 3, rngkey := e.word 4, rngstream := e.word 5, rngctr := e.word 3 }
    seed := none }

/-- A state in which an entry is reissued: its items are performed at once (DEDUCED, log entry 35). -/
def State.reissuing (s : State) (f : Hart → Hart) : State := { s with relaxed := false, hart := f s.hart }

/-- The end of a reissue: `s` before it, `t` after it; `f` puts its results into the hart that IFRREPLAY runs on. -/
def State.reissued (s t : State) (f : Hart → Hart) (answers : Nat) : Reissue :=
  if !t.hart.bound then .stopped { t with relaxed := s.relaxed }
  else if t.hart.level = .sup then .failed (Cause.ofCode t.hart.sup.trapcause.toNat) t.hart.sup.trapval
  else
    let u : State := { t with relaxed := s.relaxed, hart := f s.hart }
    if t.hart.run = .waiting then .held { u with hart := s.hart } else .done u answers

/-- A tagged request has been answered: the result that a duplicate table holds (R371). -/
def State.answer (s : State) (r : Ifr) (tag : BitVec 24) : Option Word :=
  (s.duplicates.find? fun d => d.ctx == r.context && d.issuer == r.issuer && d.tag == tag).map (·.result)

/-- The answer is received, and its entry is freed. -/
def State.confirm (s : State) (r : Ifr) (tag : BitVec 24) : State :=
  { s with duplicates := s.duplicates.filter fun d => !(d.ctx == r.context && d.issuer == r.issuer && d.tag == tag) }

/-- Work under a tag that left the hart before the freeze is still on its way. -/
def State.orphaned (s : State) (r : Ifr) (tag : BitVec 24) : Bool :=
  s.orphans.any (fun a => a.classT && a.ctx == r.context && a.issuer == r.issuer && a.tag == tag) ||
  s.trains.any (fun t => t.orphan && t.ctx == r.context && t.issuer == r.issuer && t.tag == tag) ||
  s.dies.toList.any fun d => d.copies.toList.any fun l => l.any fun c => c.orphan && c.overlap && c.ctx == r.context && c.issuer == r.issuer && c.tag == tag

/-- A tagged item that has one effect: the answer of a duplicate table, a wait for its original, or its reissue (R371) (DEDUCED, log entry 36). Its translation or
its handle is checked again before a table may answer (R392). -/
def State.onceOnly (s : State) (r : Ifr) (e : IfrEntry) (failure : Option (Cause × Word)) (answered : Word → State → State) (again : State → Reissue) : Reissue :=
  match s.answer r e.tag with
  | some v => match failure with
    | some x => .failed x.1 x.2
    | none => .done (answered v (s.confirm r e.tag)) 1
  | none => if s.orphaned r e.tag then .held s else again s

/-- The failure of an access at an address, under the checks of R88. -/
def State.probeFailure (s : State) (va : Word) (size : Nat) (k : AKind) : Option (Cause × Word) :=
  match s.probe va size size k with
  | .error c => some (c, va)
  | .ok _ => none

/-! ### Scalar entries (kinds 6 to 9 and 12) -/

/-- Write an application register. -/
def Hart.wapp (h : Hart) (rd : XReg) (v : Word) : Hart := h.wbank false rd v

/-- A scalar register as a field holds its number. -/
def xreg (n : Nat) : XReg := Fin.ofNat 32 n

/-- Two registers other than x0 and a given one. -/
def spareRegs (r : XReg) : XReg × XReg := if r = 1 then (2, 3) else if r = 2 then (1, 3) else (1, 2)

/-- The bytes of an ew code of an entry. -/
def entrySize (dw2 : Nat) : Nat := 2 ^ (bitsOf dw2 3 0 - 1)

/-- Kind 6: the load is made again, and binds. -/
def State.reissueLoad (s : State) (i : Instr) (r : Ifr) (e : IfrEntry) : Reissue :=
  let d := e.dw2.toNat
  let rd := xreg (bitsOf d 8 4)
  let t := (s.reissuing fun h => h.reissuing r e i).scalarLoad i rd e.dw1 (entrySize d) (bitOf d 9)
  s.reissued t (fun h => h.wapp rd (t.hart.x.get rd)) 0

/-- Kind 7: the store is made again. -/
def State.reissueStore (s : State) (i : Instr) (r : Ifr) (e : IfrEntry) : Reissue :=
  let d := e.dw2.toNat
  s.reissued ((s.reissuing fun h => h.reissuing r e i).scalarStore i e.dw1 (entrySize d) e.dw3 (if bitOf d 5 then some (e.scope) else none)) id 0

/-- Kind 8: the atomic under its tag; the comparand of a CAS is the architected rd (R367). -/
def State.reissueAmo (s : State) (i : Instr) (r : Ifr) (e : IfrEntry) : Reissue :=
  let d := e.dw2.toNat
  let rd := xreg (bitsOf d 10 6)
  let p := spareRegs rd
  s.onceOnly r e ((s.reissuing fun h => h.reissuing r e i).probeFailure e.dw1 8 .write) (fun v t => t.onHart fun h => h.wapp rd v) fun s =>
    let t := (s.reissuing fun h => (h.reissuing r e i).withScalars [(p.1, e.dw1), (p.2, e.dw3)]).amo i (AmoOp.ofCode (bitsOf d 3 0)) rd p.1 p.2 (BitVec.ofNat 2 (bitsOf d 5 4)) e.scope
    s.reissued t (fun h => h.wapp rd (t.hart.x.get rd)) 0

/-- The meaning of a SYNC by its op code; other codes are no operation. -/
def syncMeaning (op : Nat) (xd xh xv : XReg) (ty : BitVec 3) (sys : Bool) (s : State) : Option Out :=
  match op with
  | 0 => some (execScntadd xd xh xv sys s)
  | 1 => some (execScntrd xd xh sys s)
  | 2 => some (execScntwait xd xh xv sys s)
  | 3 => some (execSbararr xd xh sys s)
  | 4 => some (execSbarwait xd xh xv sys s)
  | 5 => some (execSsemacq xd xh xv sys s)
  | 6 => some (execSsemrel xd xh xv sys s)
  | 7 => some (execSredadd xd xh xv ty sys s)
  | 8 => some (execSredget xd xh xv ty sys s)
  | _ => none

/-- Kind 9: the SYNC under its tag, its handle checked again (R392); the participant index of SREDADD is the architected xd. -/
def State.reissueSync (s : State) (i : Instr) (r : Ifr) (e : IfrEntry) : Reissue :=
  let d := e.dw2.toNat
  let xd := xreg (bitsOf d 12 8)
  let p := spareRegs xd
  let failure := if (s.syncTarget (bitsOf d 3 0) (BitVec.ofNat 3 (bitsOf d 6 4)) e.dw1).isNone then some (Cause.syncHandle, e.dw1) else none
  s.onceOnly r e failure (fun v t => t.onHart fun h => h.wapp xd v) fun s =>
    match syncMeaning (bitsOf d 3 0) xd p.1 p.2 (BitVec.ofNat 3 (bitsOf d 6 4)) (bitOf d 7)
        (s.reissuing fun h => (h.reissuing r e i).withScalars [(p.1, e.dw1), (p.2, e.dw3)]) with
    | some o =>
      let t := nextState o s
      s.reissued t (fun h => h.wapp xd (t.hart.x.get xd)) 0
    | none => .failed .illegalOperand 0

/-- Kind 12: a fence waits for the earlier entries of its sets, trains and appends among its stores (R375); every other item has been performed at its reissue. -/
def State.reissueFence (s : State) (e : IfrEntry) : Reissue :=
  if s.recordedFenceWaits s.hart e.dw2.toNat then .held s else .done s 0

/-! ### Vector entries (kinds 1 to 5) -/

/-- Bits of the elements that an entry's bitmap does not call done; all of them when it names no slot. -/
def IfrEntry.undone (e : IfrEntry) (vl : Nat) : Option MBits :=
  if e.bitmap.isEmpty then none
  else some (BitVec.ofNat 8192 ((List.range (min vl 8192)).foldl (fun n i =>
    if bitsOf (e.bitmap.getD (i / 32) 0).toNat (2 * (i % 32) + 1) (2 * (i % 32)) = 2 then n else n + 2 ^ i) 0))

/-- The registers after a vector instruction: what it changed of the hart it ran on, over the hart's own. -/
def Vec.merge (own before after : Vec) : Vec :=
  let keep (k : Fin 64) : Bool := after.v.get k == before.v.get k && after.tag.get k == before.tag.get k
  { own with
    v := Vector.ofFn fun k => if keep k then own.v.get k else after.v.get k
    tag := Vector.ofFn fun k => if keep k then own.tag.get k else after.tag.get k
    m := Vector.ofFn fun k => if after.m.get k = before.m.get k then own.m.get k else after.m.get k
    acc := after.acc }

/-- Elements that a bitmap calls done keep their value. -/
def Hart.keepDone (after own : Hart) (vd : Option VReg) (undone : MBits) : Hart :=
  match vd with
  | none => after
  | some v =>
    let tag := after.tagOf v
    after.wv v (packElems tag after.ebits ((List.range after.vl).map fun i => if undone.getLsbD i then after.elem v i else own.elemAs v tag i))

/-- The hart on which a vector entry is reissued: VL, or for a row group its start element and RACC, and its scalar operands. -/
def Hart.reissuingVector (h : Hart) (r : Ifr) (e : IfrEntry) (i : Instr) : Hart :=
  let g := (h.reissuing r e i).withScalars ((insnSources i).zip [e.word 0, e.word 1])
  { g with csr := if e.kind = 5 then { g.csr with vstart := e.dw2, racc := e.word 3, rngctr := e.word 2 } else { g.csr with vl := e.dw2 } }

/-- The application registers of a hart after a vector instruction has been reissued. -/
def Hart.takeVector (own before after : Hart) (i : Instr) (kind : Nat) : Hart :=
  { own with
    vec := own.vec.merge before.vec after.vec
    x := match i with
      | .vmvx xs _ _ _ _ => own.x.set xs.val (after.x.get xs) xs.isLt
      | _ => own.x
    csr := { own.csr with fflags := after.csr.fflags, racc := if (insnPipe i own).any (·.racc) then after.csr.racc else own.csr.racc,
                          vstart := if kind = 5 then own.csr.vstart &&& 0x8000000000000000 else own.csr.vstart } }

/-- Run the instruction of a vector entry on the elements of a mask, or whole. -/
def State.runEntry (s : State) (r : Ifr) (e : IfrEntry) (i : Instr) (bits : Option MBits) : Option (State × State) :=
  let u := s.reissuing fun h => h.reissuingVector r e i
  let k := scratchMask i
  let (j, v) : Instr × State := match bits with
    | none => (i, u)
    | some b => match remask i k with
      | some j => (j, u.onHart fun h => h.wm k (if (insnRoles i).m = 0 then b else b &&& h.rm (insnRoles i).m))
      | none => (i, u)
  (runVector j v).map fun o => (v, nextState o v)

/-- Kinds 1 to 5: the elements that are not done are completed. A trim shows that an element fails: the rest from it on is tried, and traps (DEDUCED, log entry 41). -/
def State.reissueElements (s : State) (r : Ifr) (e : IfrEntry) (i : Instr) (bits : Option MBits) : Reissue :=
  match s.runEntry r e i bits with
  | none => .failed .illegalOperand 0
  | some (v, t) =>
    if t.hart.bound && t.hart.csr.vstart.getLsbD 63 then
      let above := BitVec.ofNat 8192 ((bits.getD (BitVec.allOnes 8192)).toNat / 2 ^ t.hart.vl * 2 ^ t.hart.vl)
      match s.runEntry r e i (some above) with
      | some (_, t2) => s.reissued t2 id 0
      | none => .failed .illegalOperand 0
    else
      let after := match bits with
        | some b => t.hart.keepDone s.hart (if e.kind = 3 then (insnRoles i).va else (insnRoles i).vd) b
        | none => t.hart
      s.reissued t (fun own => own.takeVector v.hart after i e.kind) 0

/-- An entry under another tag. -/
def IfrEntry.withTag (e : IfrEntry) (tag : BitVec 24) : IfrEntry :=
  { e with dw0 := BitVec.ofNat 64 (e.dw0.toNat % 2 ^ 32 + 2 ^ 32 * tag.toNat + e.dw0.toNat / 2 ^ 56 * 2 ^ 56) }

/-- The tag of the k-th element of a VAMO (R370). -/
def IfrEntry.tagAt (e : IfrEntry) (k : Nat) : BitVec 24 := e.tag + BitVec.ofNat 24 k

/-- The elements of a VAMO that have tags, in index order: the active ones from its VSTART on, operand word C (R370, DEDUCED, log entry 37). -/
def Hart.taggedElems (h : Hart) (r : Ifr) (e : IfrEntry) (i : Instr) : List Nat :=
  ((h.reissuingVector r e i).actives (insnRoles i).m).filter fun k => decide ((e.word 2).toNat ≤ k)

/-- The flags of a VAMO element whose old value a duplicate table holds (R263). -/
def Hart.toldFlags (h : Hart) (r : Ifr) (e : IfrEntry) (i : Instr) (k : Nat) (old : Word) : Flags :=
  match i with
  | .vamoAdd v _ _ ty _ _ _ _ _ _ =>
    let seed : Seed := ⟨e.word 4, e.word 5, e.word 3⟩
    (vamoRes .add ty.toNat (RMode.ofCode (bitsOf e.map 9 7)) (seed.rnd16 k) old.toNat ((h.reissuingVector r e i).elem v k)).flags
  | _ => 0

/-- Elements of a VAMO with their places among its tags are performed in turn, each under its own tag (R369). -/
def State.vamoEach (s : State) (r : Ifr) (e : IfrEntry) (i : Instr) : List (Nat × Nat) → Reissue
  | [] => .done s 0
  | (k, n) :: l => match s.reissueElements r (e.withTag (e.tagAt n)) i (some (BitVec.ofNat 8192 (2 ^ k))) with
    | .done t _ => State.vamoEach t r e i l
    | x => x

/-- The address register, the index register and the type of a VAMO. -/
def vamoAddress (i : Instr) : Option (XReg × VReg × Nat) :=
  match i with
  | .vamoAdd _ xb vi ty _ _ _ _ _ _ => some (xb, vi, ty.toNat)
  | .vamoMin _ xb vi ty _ _ _ _ _ _ => some (xb, vi, ty.toNat)
  | .vamoMax _ xb vi ty _ _ _ _ _ _ => some (xb, vi, ty.toNat)
  | .vamoSwap _ xb vi ty _ _ _ _ _ _ => some (xb, vi, ty.toNat)
  | _ => none

/-- The first failure among elements of a VAMO, under the translations of now (R392). -/
def State.vamoFailure (s : State) (r : Ifr) (e : IfrEntry) (i : Instr) (l : List Nat) : Option (Cause × Word) :=
  match vamoAddress i with
  | some (xb, vi, ty) =>
    let u := s.reissuing fun h => h.reissuingVector r e i
    (u.probeElems (u.indexAddr xb vi) (tyBits ty / 8) .write l).2.map fun p => (p.2, u.indexAddr xb vi p.1)
  | none => none

/-- Kind 3: every element that is not done is checked again (R392). Elements whose tags a duplicate table answers receive the recorded results; the others are
performed, once none of them is still on its way. -/
def State.reissueVamo (s : State) (r : Ifr) (e : IfrEntry) (i : Instr) : Reissue :=
  let undone := (e.undone e.dw2.toNat).getD (BitVec.allOnes 8192)
  let tagged := ((s.hart.taggedElems r e i).zipIdx).filter fun p => undone.getLsbD p.1
  let told := tagged.filterMap fun p => (s.answer r (e.tagAt p.2)).map fun v => (p.1, p.2, v)
  let left := tagged.filter fun p => (s.answer r (e.tagAt p.2)).isNone
  if left.any fun p => s.orphaned r (e.tagAt p.2) then .held s
  else match s.vamoFailure r e i (tagged.map (·.1)) with
  | some x => .failed x.1 x.2
  | none => match s.vamoEach r e i left with
  | .done t _ =>
    let put (h : Hart) : Hart := match (insnRoles i).va with
      | some v => told.foldl (fun g p => g.wv v (putBits (g.rv v) (elemPos (g.tagOf v) g.ebits p.1) (tagBits (g.tagOf v)) p.2.2.toNat)) h
      | none => h
    let flags := told.foldl (fun f p => f ||| s.hart.toldFlags r e i p.1 p.2.2) 0
    .done (told.foldl (fun u p => u.confirm r (e.tagAt p.2.1)) ((t.onHart put).orFlags flags)) (if told.isEmpty then 0 else 1)
  | x => x

/-- An open instance is the one of a gang entry: the member with a rank has executed it, selected and without its strip, under the operands of the instruction
(R282, R285). -/
def GangInst.awaits (x : GangInst) (rank : Nat) (i : Instr) (e : IfrEntry) : Bool :=
  x.selected.contains rank && !x.received.contains rank && x.vl == e.dw2.toNat &&
  match i with
  | .gstream v _ mask code ty => x.stream && x.v == v && x.mask == mask.toNat && x.code == code.toNat && x.ty == ty.toNat && x.xb == e.word 0
  | .gbcast v member mask code ty => !x.stream && x.v == v && x.mask == mask.toNat && x.code == code.toNat && x.ty == ty.toNat && x.member == member.toNat
  | _ => false

/-- A gang entry (kind 1): the strip of the oldest open instance that is its own, and that no earlier entry has taken, is awaited again (R283, R285). -/
def State.reissueStrip (s : State) (i : Instr) (e : IfrEntry) (v : VReg) (ty : Nat) : Reissue :=
  let h := s.hart
  let rank := h.csr.gangrank.toNat
  let kept : Kept := { Kept.zero with order := s.nextOrder, pc := e.dw1, insn := e.desc.getD 0 0, a := e.word 0 }
  match (s.gang h.job.gang).bind fun g => g.insts.find? fun x => x.awaits rank i e && !h.strips.any fun y => y.inst == x.index with
  | some x => .done ((({ s with nextOrder := s.nextOrder + 1 } : State).onHart fun h => { h with strips := h.strips ++ [⟨x.index, v, ty, x.vl, kept⟩] }).due [.gangStripLand h.id x.index]) 0
  | none => .done s 0

/-! ### Engine and queue entries (kinds 10, 11, 13, 14) -/

/-- What is kept of a reissued entry, so that a later freeze records it again. -/
def IfrEntry.kept (e : IfrEntry) (order : Nat) (h : Hart) (i : Instr) : Kept :=
  let roles := insnRoles i
  let img (r : Option VReg) : VBits := match r with
    | some v => h.rv v
    | none => 0
  let tag (r : Option VReg) : BitVec 8 := match r with
    | some v => h.tagOf v
    | none => 0
  { order := order, pc := e.dw1, insn := e.desc.getD 0 0, a := e.word 0, b := e.word 1, c := e.word 2, d := e.word 3, key := e.word 4, stream := e.word 5,
    mode := BitVec.ofNat 3 (bitsOf e.map 9 7), va := img roles.va, vaTag := tag roles.va, vb := img roles.vb, vbTag := tag roles.vb,
    vi := img roles.vi, viTag := tag roles.vi, mask := h.rm roles.m }

/-- Chunks that a stream entry calls done. -/
def IfrEntry.chunksDone (e : IfrEntry) : List Nat := (List.range 8).filter fun k => bitOf e.dw2.toNat k

/-- Kind 10: the chunks that are not done are transferred again, under the translations of now (R392, R416). -/
def State.reissueStream (s : State) (i : Instr) (r : Ifr) (e : IfrEntry) (o : StreamOp) : Reissue :=
  let t := inboxSize o.ty
  let n := if t = 0 then 0 else (e.word 1).toNat / t
  let h := bitsOf e.dw2.toNat 12 8
  let u := s.reissuing fun g => (g.reissuing r e i).withScalars [(o.xb, e.word 3), (o.xa, e.word 0)]
  let old := s.hart.handle h
  let buf : Nat × Nat := match bufferOffset (e.word 2) with
    | some b => (b, bufferSize n t)
    | none => (old.base, old.size)
  let redo := (List.range n).filter fun k => !e.chunksDone.contains (k * t / 512)
  let p := u.probeElems (u.streamAddr o) t (if o.out then .write else .read) redo
  match p.2 with
  | some (k, c) => .failed c (u.streamAddr o k)
  | none =>
    let loc (k : Nat) : Nat := match p.1.find? fun q => q.1 == k with
      | some q => q.2.loc
      | none => 0
    let done := e.chunksDone.filter fun k => decide (k < (n * t + 511) / 512)
    let f (w : State) : State := (({ w with
      streams := w.streams ++ [{ hart := s.hart.id, core := s.hart.id / 4, handle := h, out := o.out, size := t, count := n, locs := (List.range n).map loc, base := buf.1, mask := o.mask, post := if o.ev then .due else .done, chunksDone := done, asid := s.hart.sup.asid, asked := [], answered := [], kept := e.kept s.nextOrder u.hart i }]
      nextOrder := w.nextOrder + 1 } : State).due (streamDues o.out s.hart.id h ((n * t + 511) / 512)))
    let full := if o.out then fullLines (p.1.map fun q => (q.2.loc, t)) else []
    s.reissued (u.passGates i ((p.1.map (·.2)).filter fun q => q.pkg.isSome || !full.contains (q.loc / 64)) f) (fun g => g.setHandle h ⟨buf.1, buf.2, if o.out then .draining else .filling⟩) 0

/-- The last command of a copy queue is the reissue of an entry. -/
def State.markReplay (s : State) (die q : Nat) (e : IfrEntry) (kept : Kept) : State :=
  s.updCopies die q fun l => l.zipIdx.map fun p => if p.2 + 1 = l.length then { p.1 with replay := true, overlap := e.cls == 2, kept := kept } else p.1

/-- A recorded copy has completed before its replay: its event is posted now (R365). -/
def State.copyAnswered (s : State) (q : Nat) (e : IfrEntry) (ev : Bool) : State :=
  if ev then s.onHart fun h => { h with events := h.events.post { kind := 2, detail := BitVec.ofNat 8 q, payload := e.word 4 } (.copies (dieOf h.id) q) } else s

/-- The hart on which a copy is posted again: its operands from the entry. -/
def Hart.reissuingCopy (h : Hart) (r : Ifr) (e : IfrEntry) (i : Instr) (o : CopyOp) : Hart :=
  (h.reissuing r e i).withScalars
    [(o.xa, e.word 0), (nextX o.xa, e.word 1), (o.xb, e.word 2), (o.xc, e.word 4), (if o.xc = 0 then 0 else nextX o.xc, e.word 3)]

/-- The failure of a recorded copy under the translations of now (R392). -/
def State.copyFailure (s : State) (i : Instr) (r : Ifr) (e : IfrEntry) (o : CopyOp) : Option (Cause × Word) :=
  let u := s.reissuing fun g => g.reissuingCopy r e i o
  if !u.copyLegal o then some (.illegalOperand, BitVec.ofNat 64 (insnWord i))
  else match u.copyRanges o with
    | .error (c, a, _) => some (c, BitVec.ofNat 64 a)
    | .ok _ => none

/-- Kind 11: the copy is posted again; of class T under its tag. -/
def State.reissueCopy (s : State) (i : Instr) (r : Ifr) (e : IfrEntry) (o : CopyOp) : Reissue :=
  let again (s : State) : Reissue :=
    let u := s.reissuing fun g => g.reissuingCopy r e i o
    let t := u.xcopy i o
    let die := dieOf s.hart.id
    s.reissued (if t.hart.bound && t.hart.level == .app && t.hart.run != .waiting then t.markReplay die o.q.toNat e (e.kept s.nextOrder u.hart i) else t) id 0
  if e.cls = 2 then s.onceOnly r e (s.copyFailure i r e o) (fun _ t => t.copyAnswered o.q.toNat e o.ev) again else again s

/-- Kind 13: an append that has claimed writes its slots and commits (R269), unless its tags are answered. B and C of its descriptor hold VL and VSTART, D the
counter of its seed. -/
def State.reissueAppend (s : State) (i : Instr) (r : Ifr) (e : IfrEntry) (o : AppendOp) : Reissue :=
  let u := s.reissuing fun g =>
    let k := g.reissuing r e i
    { k with csr := { k.csr with vl := e.word 1, vstart := e.word 2 } }
  let h := u.hart
  let va := e.word 0
  match u.probe va 64 64 .write with
  | .error c => .failed c va
  | .ok p =>
    let d := u.descAt p.loc
    let act := h.actives o.m
    match u.slotPlaces d e.dw2 act.length with
    | .error (c, a) => .failed c a
    | .ok places =>
      if (s.answer r e.tag).isSome then .done ((List.range act.length).foldl (fun t n => t.confirm r (e.tagAt n)) s) 1
      else
        let mode := u.modeOf o.rnd
        let seed : Seed := ⟨e.word 4, e.word 5, e.word 3⟩
        let codes := act.map fun k => convertRes (o.srcType h) d.ty mode (o.sat || o.va.isNone) (seed.rnd16 k) (o.source h k)
        let f (t : State) : State := ({ t with
          mem := putSlots t.mem (inboxSize d.ty) (places.zip (codes.map (·.code)))
          nextOrder := t.nextOrder + 1
          appends := t.appends ++ [⟨h.id, r.context, r.issuer, p.loc, va, e.dw2, act.length, e.tag, .due, e.kept s.nextOrder h i⟩] } : State).due [.vappendCommit t.appends.length]
        s.reissued (u.passGates i (p :: places) f (fullLines (places.map fun q => (q.loc, inboxSize d.ty)))) id 0

/-- Kind 14: a train is sent again under its tag. B and C of its descriptor hold the end of its elements and VSTART, D the counter of its seed. -/
def State.reissueTrain (s : State) (i : Instr) (r : Ifr) (e : IfrEntry) (va vb : VReg) (ty : Nat) (m : MReg) (rnd : BitVec 3) (sat : Bool) : Reissue :=
  s.onceOnly r e none (fun _ t => t) fun s =>
    let u := s.reissuing fun g =>
      let k := g.reissuing r e i
      { k with csr := { k.csr with vl := e.word 1, vstart := e.word 2 } }
    let h := u.hart
    let die := e.dw1.toNat % 8
    let seed : Seed := ⟨e.word 4, e.word 5, e.word 3⟩
    let parcels := buildParcels (tagType (h.tagOf va)) ty (u.modeOf rnd) sat seed.rnd16 (h.elem va) (fun k => BitVec.ofNat 64 (h.elem vb k)) (h.actives m)
    let elems := parcelsFor die parcels
    .done (({ s with
      nextOrder := s.nextOrder + 1
      trains := s.trains ++ [{ hart := h.id, ctx := r.context, issuer := r.issuer, die := die, ty := ty, elems := elems, count := elems.length, tag := e.tag, replay := true, orphan := false, arrived := false, kept := e.kept s.nextOrder h i }] } : State).due [.trainArrival s.trains.length]) 0

/-! ### The replay (R375) -/

/-- An entry that is a release: it waits until earlier entries are acknowledged. -/
def IfrEntry.isRelease (e : IfrEntry) : Bool :=
  match e.kind with
  | 3 => match e.insn with
    | some (.vamoAdd _ _ _ _ _ _ _ _ ord _) => ord.getLsbD 1
    | some (.vamoMin _ _ _ _ _ _ _ _ ord _) => ord.getLsbD 1
    | some (.vamoMax _ _ _ _ _ _ _ _ ord _) => ord.getLsbD 1
    | some (.vamoSwap _ _ _ _ _ _ _ _ ord _) => ord.getLsbD 1
    | _ => false
  | 7 => bitOf e.dw2.toNat 5
  | 8 => bitOf e.dw2.toNat 5
  | 9 => true
  | _ => false

/-- Reissue an entry by its instruction (DEDUCED, log entry 40). -/
def State.reissueInsn (s : State) (r : Ifr) (e : IfrEntry) (i : Instr) : Reissue :=
  match i with
  | .gstream v _ _ _ ty => s.reissueStrip i e v ty.toNat
  | .gbcast v _ _ _ ty => s.reissueStrip i e v ty.toNat
  | .strm h xa xb xc ty k _ ix vi ev => s.reissueStream i r e ⟨false, h, xa, xb, xc, ty.toNat, k, ix, vi, ev⟩
  | .strmw h xa xb xc ty k _ ix vi ev => s.reissueStream i r e ⟨true, h, xa, xb, xc, ty.toNat, k, ix, vi, ev⟩
  | .xcopy q xa xb xc ty _ ev => s.reissueCopy i r e ⟨q, xa, xb, xc, ty.toNat, ev⟩
  | .vappend va xq m rnd sat _ => s.reissueAppend i r e ⟨some va, xq, m, rnd, sat⟩
  | .vappendIdx xq m rnd sat _ => s.reissueAppend i r e ⟨none, xq, m, rnd, sat⟩
  | .vscatr va vb ty m rnd sat _ => s.reissueTrain i r e va vb ty.toNat m rnd sat
  | _ => if e.kind = 3 then s.reissueVamo r e i else s.reissueElements r e i (e.undone e.dw2.toNat)

/-- Reissue an entry, under the instruction that performs the replay. -/
def State.reissue (s : State) (i : Instr) (r : Ifr) (e : IfrEntry) : Reissue :=
  if e.isRelease && s.releaseWaits then .held s
  else match e.kind with
    | 6 => s.reissueLoad i r e
    | 7 => s.reissueStore i r e
    | 8 => s.reissueAmo i r e
    | 9 => s.reissueSync i r e
    | 12 => s.reissueFence e
    | _ => match e.insn with
      | some j => s.reissueInsn r e j
      | none => .failed .illegalOperand 0

/-- The entries with their indices, in ascending order index. -/
def Ifr.indexed (r : Ifr) : List (Nat × IfrEntry) := r.inOrder.map fun e => (r.entries.findIdx fun f => f == e, e)

/-- One more entry of the held record has been reissued. -/
def State.countReplayed (s : State) (answers : Nat) : State :=
  s.onHart fun h => { h with ifr := h.ifr.map fun r => { r with replayed := r.replayed + 1, answered := r.answered + answers } }

/-- Reissue entries in turn: the state, and what stops the replay, with the entry's index. -/
def State.replayEntries (s : State) (i : Instr) (r : Ifr) : List (Nat × IfrEntry) → State × Option (Nat × Reissue)
  | [] => (s, none)
  | (k, e) :: l => match s.reissue i r e with
    | .done t n => State.replayEntries (t.countReplayed n) i r l
    | x => (s, some (k, x))

/-- Record a horizon for an issuer of a context at every target (R372). -/
def State.recordHorizon (s : State) (r : Ifr) : State :=
  { s with horizons := (r.context, r.issuer, r.epoch) :: s.horizons.filter fun h => !(h.1 == r.context && h.2.1 == r.issuer) }

/-- The record has been replayed: the horizon is set, and the context is no longer frozen. -/
def State.endReplay (s : State) (r : Ifr) : State := (s.recordHorizon r).onHart fun h => { h with ifr := none, freeze := .none }

/-- Replay the held record, then go on; `f` receives the answers from duplicate tables (R375, R392). -/
def State.replay (s : State) (i : Instr) (f : State → Nat → State) : State :=
  if s.hart.freeze = .begun ∨ s.hart.freeze = .settling then s.waits i
  else match s.hart.ifr with
    | none => f s 0
    | some r =>
      if s.unperformed then s.waits i else
      let x := s.replayEntries i r (r.indexed.drop r.replayed)
      match x.2 with
      | none => f (x.1.endReplay r) (match x.1.hart.ifr with
          | some q => q.answered
          | none => 0)
      | some (k, .failed c v) => x.1.raise i c v k
      | some (_, .stopped t) => t
      | some (_, .held t) => t.waits i
      | some (_, Reissue.done t _) => t

/-- R375, R177: IFRREPLAY; with no record held it writes 0. -/
def execIfrreplay (rd : XReg) (s : State) : Out :=
  let i := Instr.ifrreplay rd
  .next (s.privileged i fun s => s.replay i fun t n => t.ret rd (BitVec.ofNat 64 n))

/-! ### TRET (R176, R376, R377) -/

/-- A frozen context resumes on the current hart: its rank in its gang moves with it, and the binding of the hart where it froze ends when that
is another one; its DSM allocation there ends with its last hart (R349) (DEDUCED, log entry 42). -/
def State.resume (s : State) : State :=
  let id := s.hart.id
  let mine (p : Parked) : Bool := p.ctx == s.hart.sup.ctxid && p.issuer == s.hart.tags.issuer
  match s.parked.find? mine with
  | none => s
  | some p =>
    let s1 : State := { s with parked := s.parked.filter fun q => !mine q }
    if p.hart = id then s1
    else
      let s2 := s1.setLaunch fun l => { l with gangs := updWhere (fun g => g.id == p.job.gang) (fun g => { g with members := g.members.set s.hart.csr.gangrank.toNat id }) l.gangs }
      let left (h : Hart) : Bool := h.id == p.hart && h.freeze == .frozen && h.tags.issuer == p.issuer && h.sup.ctxid == p.ctx
      (((if s2.harts.any left then s2.dropQueue p.hart else s2).dropHarts left).endDsm p.ctx.toNat).schedule

/-- TRET at supervisor level: the refusal of a killed context, the replay, the return (DEDUCED, log entry 44). -/
def State.tret (s : State) (i : Instr) : State :=
  let toApp := !s.hart.sup.trapstat.getLsbD 63
  if toApp && (s.ctxEntry s.hart.sup.ctxid.toNat).killed then s.illegalOperand i
  else s.replay i fun t _ => (if toApp then t.resume else t).trapReturn

/-- R176: TRET; at application level it raises ILLEGAL_INSTRUCTION. -/
def execTret (s : State) : Out := .next (s.privileged .tret fun s => s.tret .tret)

end Sys2Proof.Machine
end

