-- ==== Sys2Proof/Machine/Scalar.lean ====
section
/-! DEFINITION. The scalar integer instructions (R147 to R150), the branches and the jumps (R161, R162). -/

namespace Sys2Proof.Machine


/-- 1 or 0 in a register. -/
def flagWord (b : Bool) : Word := if b then 1 else 0

/-- The signed product's high half (R147). -/
def mulHigh (a b : Word) : Word := BitVec.ofInt 64 (a.toInt * b.toInt / 2 ^ 64)

/-- The unsigned product's high half (R147). -/
def mulHighN (a b : Word) : Word := BitVec.ofNat 64 (a.toNat * b.toNat / 2 ^ 64)

/-- Signed division of any width, rounded toward zero: all ones for a zero divisor, the minimum for the minimum by -1 (R148). -/
def divSigned {w : Nat} (a b : BitVec w) : BitVec w := if b = 0 then BitVec.allOnes w else a.sdiv b

/-- Unsigned division: all ones for a zero divisor (R148). -/
def divUnsigned {w : Nat} (a b : BitVec w) : BitVec w := if b = 0 then BitVec.allOnes w else a / b

/-- Signed remainder: a for a zero divisor (R148). -/
def remSigned (a b : Word) : Word := if b = 0 then a else a.srem b

/-- Unsigned remainder: a for a zero divisor (R148). -/
def remUnsigned (a b : Word) : Word := if b = 0 then a else a % b

/-- The shift or rotate count b[5:0] (R147). -/
def count6 (b : Word) : Nat := b.toNat % 64

/-- Leading zeros of the low w bits of a number. -/
def leadingZeros : Nat → Nat → Nat
  | 0, _ => 0
  | w + 1, x => if x.testBit w then 0 else 1 + leadingZeros w x

/-- Trailing zeros of the low w bits of a number, w of zero. -/
def trailingZeros (w x : Nat) : Nat := ((List.range w).find? fun i => x.testBit i).getD w

/-- Set bits of the low w bits of a number. -/
def popCount (w x : Nat) : Nat := (List.range w).countP fun i => x.testBit i

/-- The width of an ew code 1 to 4 in bits (R149). -/
def btBits (ew : BitVec 3) : Nat := 4 * 2 ^ ew.toNat

/-- Sign-extend the low w bits of a number. -/
def signExt (w x : Nat) : Word := if x.testBit (w - 1) then BitVec.ofNat 64 (x % 2 ^ w + 2 ^ 64 - 2 ^ w) else BitVec.ofNat 64 (x % 2 ^ w)

/-- The immediates of the SI and SL forms, sign-extended (R118). -/
def sext64 {w : Nat} (imm : BitVec w) : Word := imm.signExtend 64

/-- A register result of two registers. -/
def State.binOp (s : State) (rd rs1 rs2 : XReg) (f : Word → Word → Word) : State := s.ret rd (f (s.rx rs1) (s.rx rs2))

/-- A register result of a register and an immediate. -/
def State.immOp (s : State) (rd rs1 : XReg) (f : Word → Word) : State := s.ret rd (f (s.rx rs1))

/-- R147: ADD. -/
def execAdd (rd rs1 rs2 : XReg) (s : State) : Out :=
  .next (s.binOp rd rs1 rs2 fun a b => a + b)

/-- R147: SUB. -/
def execSub (rd rs1 rs2 : XReg) (s : State) : Out :=
  .next (s.binOp rd rs1 rs2 fun a b => a - b)

/-- R147: AND. -/
def execAnd (rd rs1 rs2 : XReg) (s : State) : Out :=
  .next (s.binOp rd rs1 rs2 fun a b => a &&& b)

/-- R147: OR. -/
def execOr (rd rs1 rs2 : XReg) (s : State) : Out :=
  .next (s.binOp rd rs1 rs2 fun a b => a ||| b)

/-- R147: XOR. -/
def execXor (rd rs1 rs2 : XReg) (s : State) : Out :=
  .next (s.binOp rd rs1 rs2 fun a b => a ^^^ b)

/-- R147: SLL. -/
def execSll (rd rs1 rs2 : XReg) (s : State) : Out :=
  .next (s.binOp rd rs1 rs2 fun a b => a <<< count6 b)

/-- R147: SRL. -/
def execSrl (rd rs1 rs2 : XReg) (s : State) : Out :=
  .next (s.binOp rd rs1 rs2 fun a b => a >>> count6 b)

/-- R147: SRA. -/
def execSra (rd rs1 rs2 : XReg) (s : State) : Out :=
  .next (s.binOp rd rs1 rs2 fun a b => a.sshiftRight (count6 b))

/-- R147: ROTL. -/
def execRotl (rd rs1 rs2 : XReg) (s : State) : Out :=
  .next (s.binOp rd rs1 rs2 fun a b => a.rotateLeft (count6 b))

/-- R147: ROTR. -/
def execRotr (rd rs1 rs2 : XReg) (s : State) : Out :=
  .next (s.binOp rd rs1 rs2 fun a b => a.rotateRight (count6 b))

/-- R147: SLT. -/
def execSlt (rd rs1 rs2 : XReg) (s : State) : Out :=
  .next (s.binOp rd rs1 rs2 fun a b => flagWord (a.slt b))

/-- R147: SLTN. -/
def execSltn (rd rs1 rs2 : XReg) (s : State) : Out :=
  .next (s.binOp rd rs1 rs2 fun a b => flagWord (a.ult b))

/-- R147: MIN. -/
def execMin (rd rs1 rs2 : XReg) (s : State) : Out :=
  .next (s.binOp rd rs1 rs2 fun a b => if a.slt b then a else b)

/-- R147: MAX. -/
def execMax (rd rs1 rs2 : XReg) (s : State) : Out :=
  .next (s.binOp rd rs1 rs2 fun a b => if a.slt b then b else a)

/-- R147: MINN. -/
def execMinn (rd rs1 rs2 : XReg) (s : State) : Out :=
  .next (s.binOp rd rs1 rs2 fun a b => if a.ult b then a else b)

/-- R147: MAXN. -/
def execMaxn (rd rs1 rs2 : XReg) (s : State) : Out :=
  .next (s.binOp rd rs1 rs2 fun a b => if a.ult b then b else a)

/-- R147: MUL. -/
def execMul (rd rs1 rs2 : XReg) (s : State) : Out :=
  .next (s.binOp rd rs1 rs2 fun a b => a * b)

/-- R147: MULH. -/
def execMulh (rd rs1 rs2 : XReg) (s : State) : Out :=
  .next (s.binOp rd rs1 rs2 fun a b => mulHigh a b)

/-- R147: MULHN. -/
def execMulhn (rd rs1 rs2 : XReg) (s : State) : Out :=
  .next (s.binOp rd rs1 rs2 fun a b => mulHighN a b)

/-- R148: DIV. -/
def execDiv (rd rs1 rs2 : XReg) (s : State) : Out :=
  .next (s.binOp rd rs1 rs2 fun a b => divSigned a b)

/-- R148: DIVN. -/
def execDivn (rd rs1 rs2 : XReg) (s : State) : Out :=
  .next (s.binOp rd rs1 rs2 fun a b => divUnsigned a b)

/-- R148: REM. -/
def execRem (rd rs1 rs2 : XReg) (s : State) : Out :=
  .next (s.binOp rd rs1 rs2 fun a b => remSigned a b)

/-- R148: REMN. -/
def execRemn (rd rs1 rs2 : XReg) (s : State) : Out :=
  .next (s.binOp rd rs1 rs2 fun a b => remUnsigned a b)

/-- The width operations of MAJ 0x02: ew 0 raises ILLEGAL_OPERAND (R149). -/
def State.widthOp (s : State) (i : Instr) (rd rs1 : XReg) (w : BitVec 3) (f : Nat → Nat → Word) : State :=
  s.guardOperand i (w ≠ 0) fun s => s.ret rd (f (btBits w) (s.rx rs1).toNat)

/-- R149: CLZ. -/
def execClz (rd rs1 : XReg) (w : BitVec 3) (s : State) : Out :=
  .next (s.widthOp (.clz rd rs1 w) rd rs1 w fun w a => BitVec.ofNat 64 (leadingZeros w a))

/-- R149: CTZ. -/
def execCtz (rd rs1 : XReg) (w : BitVec 3) (s : State) : Out :=
  .next (s.widthOp (.ctz rd rs1 w) rd rs1 w fun w a => BitVec.ofNat 64 (trailingZeros w a))

/-- R149: POPC. -/
def execPopc (rd rs1 : XReg) (w : BitVec 3) (s : State) : Out :=
  .next (s.widthOp (.popc rd rs1 w) rd rs1 w fun w a => BitVec.ofNat 64 (popCount w a))

/-- R149: SEXT. -/
def execSext (rd rs1 : XReg) (w : BitVec 3) (s : State) : Out :=
  .next (s.widthOp (.sext rd rs1 w) rd rs1 w fun w a => signExt w a)

/-- R149: ZEXT. -/
def execZext (rd rs1 : XReg) (w : BitVec 3) (s : State) : Out :=
  .next (s.widthOp (.zext rd rs1 w) rd rs1 w fun w a => BitVec.ofNat 64 (a % 2 ^ w))

/-- R150: ADDI. -/
def execAddi (rd rs1 : XReg) (imm : BitVec 14) (s : State) : Out :=
  .next (s.immOp rd rs1 fun a => a + sext64 imm)

/-- R150: ANDI. -/
def execAndi (rd rs1 : XReg) (imm : BitVec 14) (s : State) : Out :=
  .next (s.immOp rd rs1 fun a => a &&& sext64 imm)

/-- R150: ORI. -/
def execOri (rd rs1 : XReg) (imm : BitVec 14) (s : State) : Out :=
  .next (s.immOp rd rs1 fun a => a ||| sext64 imm)

/-- R150: XORI. -/
def execXori (rd rs1 : XReg) (imm : BitVec 14) (s : State) : Out :=
  .next (s.immOp rd rs1 fun a => a ^^^ sext64 imm)

/-- R150: SLTI. -/
def execSlti (rd rs1 : XReg) (imm : BitVec 14) (s : State) : Out :=
  .next (s.immOp rd rs1 fun a => flagWord (a.slt (sext64 imm)))

/-- R150: SLLI. -/
def execSlli (rd rs1 : XReg) (sh : BitVec 6) (s : State) : Out :=
  .next (s.immOp rd rs1 fun a => a <<< sh.toNat)

/-- R150: SRLI. -/
def execSrli (rd rs1 : XReg) (sh : BitVec 6) (s : State) : Out :=
  .next (s.immOp rd rs1 fun a => a >>> sh.toNat)

/-- R150: SRAI. -/
def execSrai (rd rs1 : XReg) (sh : BitVec 6) (s : State) : Out :=
  .next (s.immOp rd rs1 fun a => a.sshiftRight sh.toNat)

/-- R150: LIH. -/
def execLih (rd : XReg) (imm : BitVec 19) (s : State) : Out :=
  .next (s.ret rd (sext64 imm <<< 14))

/-- R150: ADDPC. -/
def execAddpc (rd : XReg) (imm : BitVec 19) (s : State) : Out :=
  .next (s.ret rd (s.hart.pc + (sext64 imm <<< 14)))

/-- The target of a branch: pc plus four times the offset (R161). -/
def State.branchTarget (s : State) (off : BitVec 14) : Word := s.hart.pc + (sext64 off <<< 2)

/-- A branch: taken to its target, else past the instruction (R161). -/
def State.branch (s : State) (rs1 rs2 : XReg) (off : BitVec 14) (c : Word → Word → Bool) : State :=
  if c (s.rx rs1) (s.rx rs2) then s.setPc (s.branchTarget off) else s.adv 4

/-- R161: BEQ. -/
def execBeq (rs1 rs2 : XReg) (off : BitVec 14) (s : State) : Out :=
  .next (s.branch rs1 rs2 off fun a b => a == b)

/-- R161: BNE. -/
def execBne (rs1 rs2 : XReg) (off : BitVec 14) (s : State) : Out :=
  .next (s.branch rs1 rs2 off fun a b => a != b)

/-- R161: BLT. -/
def execBlt (rs1 rs2 : XReg) (off : BitVec 14) (s : State) : Out :=
  .next (s.branch rs1 rs2 off fun a b => a.slt b)

/-- R161: BGE. -/
def execBge (rs1 rs2 : XReg) (off : BitVec 14) (s : State) : Out :=
  .next (s.branch rs1 rs2 off fun a b => !a.slt b)

/-- R161: BLTN. -/
def execBltn (rs1 rs2 : XReg) (off : BitVec 14) (s : State) : Out :=
  .next (s.branch rs1 rs2 off fun a b => a.ult b)

/-- R161: BGEN. -/
def execBgen (rs1 rs2 : XReg) (off : BitVec 14) (s : State) : Out :=
  .next (s.branch rs1 rs2 off fun a b => !a.ult b)

/-- R162: JAL. -/
def execJal (rd : XReg) (off : BitVec 19) (s : State) : Out :=
  .next ((s.wx rd (s.hart.pc + 4)).setPc (s.hart.pc + (sext64 off <<< 2)))

/-- R162: JALR; a target that is not a multiple of 4 raises MISALIGNED as a fetch. -/
def execJalr (rd rs1 : XReg) (imm : BitVec 14) (s : State) : Out :=
  let t := s.rx rs1 + sext64 imm
  if t.toNat % 4 ≠ 0 then .next (s.accessTrap (.jalr rd rs1 imm) (.misaligned .fetch) t)
  else .next ((s.wx rd (s.hart.pc + 4)).setPc t)

end Sys2Proof.Machine
end

