-- ==== Sys2Proof/Machine/ScalarFloat.lean ====
section
/-! DEFINITION. Scalar floating point (R151 to R155) on values in scalar registers (R144). -/

namespace Sys2Proof.Machine

/-- The type code of a fmt bit. -/
def fmtTy (fmt : Bool) : Nat := if fmt then 14 else 0

/-- The low bits of a register as a code of a type (R144). -/
def regCode (t : Nat) (x : Word) : Nat := x.toNat % 2 ^ tyBits t

/-- A result code in a register: zero-extended, but an I32 is sign-extended (R144). -/
def codeReg (t code : Nat) : Word := if t = 11 then (BitVec.ofNat 32 code).signExtend 64 else BitVec.ofNat 64 (code % 2 ^ tyBits t)

/-- A scalar instruction that rounds once: a seed under SR, the result, its flags (R151). -/
def State.roundOp (s : State) (i : Instr) (rd : XReg) (t : Nat) (rnd : BitVec 3) (draws : Bool) (f : RMode → Nat → Res) : State :=
  let mode := s.modeOf rnd
  s.withSeed i mode draws 1 fun d u =>
    let r := f mode (d.rnd16 0)
    (u.orFlags r.flags).ret rd (codeReg t r.code)

/-- A source of a floating-point instruction. -/
def State.fpSrc (s : State) (fmt : Bool) (r : XReg) : Nat := regCode (fmtTy fmt) (s.rx r)

/-- R151: FADD. -/
def execFadd (rd rs1 rs2 : XReg) (fmt : Bool) (rnd : BitVec 3) (s : State) : Out :=
  .next (s.roundOp (.fadd rd rs1 rs2 fmt rnd) rd (fmtTy fmt) rnd true fun m r => arithRes (fmtTy fmt) 0 m r (s.fpSrc fmt rs1) (s.fpSrc fmt rs2))

/-- R151: FSUB. -/
def execFsub (rd rs1 rs2 : XReg) (fmt : Bool) (rnd : BitVec 3) (s : State) : Out :=
  .next (s.roundOp (.fsub rd rs1 rs2 fmt rnd) rd (fmtTy fmt) rnd true fun m r => arithRes (fmtTy fmt) 1 m r (s.fpSrc fmt rs1) (s.fpSrc fmt rs2))

/-- R151: FMUL. -/
def execFmul (rd rs1 rs2 : XReg) (fmt : Bool) (rnd : BitVec 3) (s : State) : Out :=
  .next (s.roundOp (.fmul rd rs1 rs2 fmt rnd) rd (fmtTy fmt) rnd true fun m r => arithRes (fmtTy fmt) 2 m r (s.fpSrc fmt rs1) (s.fpSrc fmt rs2))

/-- R151: FDIV. -/
def execFdiv (rd rs1 rs2 : XReg) (fmt : Bool) (rnd : BitVec 3) (s : State) : Out :=
  .next (s.roundOp (.fdiv rd rs1 rs2 fmt rnd) rd (fmtTy fmt) rnd true fun m r => arithRes (fmtTy fmt) 3 m r (s.fpSrc fmt rs1) (s.fpSrc fmt rs2))

/-- R151: FSQRT. -/
def execFsqrt (rd rs1 : XReg) (fmt : Bool) (rnd : BitVec 3) (s : State) : Out :=
  .next (s.roundOp (.fsqrt rd rs1 fmt rnd) rd (fmtTy fmt) rnd true fun m r => sqrtRes (fmtTy fmt) m r (s.fpSrc fmt rs1))

/-- R151: FMIN. -/
def execFmin (rd rs1 rs2 : XReg) (fmt : Bool) (s : State) : Out :=
  .next (s.ret rd (codeReg (fmtTy fmt) (minMaxCode (fmtTy fmt) false (s.fpSrc fmt rs1) (s.fpSrc fmt rs2))))

/-- R151: FMAX. -/
def execFmax (rd rs1 rs2 : XReg) (fmt : Bool) (s : State) : Out :=
  .next (s.ret rd (codeReg (fmtTy fmt) (minMaxCode (fmtTy fmt) true (s.fpSrc fmt rs1) (s.fpSrc fmt rs2))))

/-- R152: FCMP. -/
def execFcmp (rd rs1 rs2 : XReg) (fmt : Bool) (cond : BitVec 3) (s : State) : Out :=
  .next (s.ret rd (if condNum cond.toNat (toNum (fmtTy fmt) (s.fpSrc fmt rs1)) (toNum (fmtTy fmt) (s.fpSrc fmt rs2)) then 1 else 0))

/-- The types FCVT converts with fmt (R124, R153): its own type is refused. -/
def fcvtOk (fmt : Bool) (t : Nat) : Bool := [0, 1, 2, 11, 14, 16, 17, 19].contains t && t != fmtTy fmt

/-- R153: FCVT. -/
def execFcvt (rd rs1 : XReg) (ty : BitVec 5) (fmt : Bool) (rnd : BitVec 3) (dir : Bool) (s : State) : Out :=
  let i := Instr.fcvt rd rs1 ty fmt rnd dir
  let src := if dir then ty.toNat else fmtTy fmt
  let dst := if dir then fmtTy fmt else ty.toNat
  .next (s.guardOperand i (fcvtOk fmt ty.toNat) fun s =>
    s.roundOp i rd dst rnd (!convExact src dst) fun m r => convertRes src dst m false r (regCode src (s.rx rs1)))

/-- R154: FCLASS. -/
def execFclass (rd rs1 : XReg) (fmt : Bool) (s : State) : Out :=
  .next (s.ret rd (BitVec.ofNat 64 (classMask (fmtTy fmt) (s.fpSrc fmt rs1))))

/-- R155: FFMA. -/
def execFfma (rd rs1 rs2 rs3 : XReg) (fmt : Bool) (rnd : BitVec 3) (s : State) : Out :=
  let num (r : XReg) := toNum (fmtTy fmt) (s.fpSrc fmt r)
  .next (s.roundOp (.ffma rd rs1 rs2 rs3 fmt rnd) rd (fmtTy fmt) rnd true fun m r => fmaRes (fmtTy fmt) m r (num rs1) (num rs2) (num rs3))

end Sys2Proof.Machine
end

