-- ==== Sys2Proof/Machine/SfuLoad.lean ====
section
/-! DEFINITION. SFULOAD: the verification and installation of a special-function image (R177, R251, R427 to R429). -/

namespace Sys2Proof.Machine

/-- A private vector operand of the sequencer (R428). -/
def privV (r : VReg) : Bool := decide (r.val ≤ 7)

/-- A private mask operand, or no mask. -/
def privM (m : MReg) : Bool := decide (m.val ≤ 3)

/-- A private mask that a step writes: m1 to m3. -/
def privD (m : MReg) : Bool := m != 0 && privM m

/-- A step that an image may hold: its registers lie in v0 to v7 and m1 to m3 (R428). -/
def sfStepOk (i : Instr) : Bool :=
  match i with
  | .vsfrr vd va _ m _ _ => decide (vd.val ≤ 5) && privV va && privM m
  | .vsftab vd va _ m _ _ => privV vd && privV va && privM m
  | .vsfpoly vd va vb m _ _ _ => privV vd && privV va && privV vb && privM m
  | .vsfscl vd va vb m _ _ _ => privV vd && privV va && privV vb && privM m
  | .vaddi vd va _ m _ _ => privV vd && privV va && privM m
  | .vmerge vd va vb m _ _ => privV vd && privV va && privV vb && privM m
  | .vcmp md _ va vb m _ _ _ => privD md && privV va && privV vb && privM m
  | _ => false

/-- The step of a word, none for a word that an image may not hold. -/
def sfStep (w : Nat) : Option Instr := match decodeBytes (leBytes 4 w) with
  | .ok (i, _) => if sfStepOk i then some i else none
  | _ => none

/-- Step word k of a payload with a number of rows. -/
def sfStepWord (p : List Byte) (rows k : Nat) : Nat := leField p (0x40 + 32 * rows + 4 * k) 4

/-- The image of a kind-4 payload (R428), none when a field of its descriptor is out of range; its reserved flags and bytes are ignored (R8). Its
parameter b or w may be any code of its byte: R428 gives no range, also where 2^b rows are more than a table holds (DESIGN CHOICE, log entry 81). -/
def sfImage (p : List Byte) (digest : BitVec 256) : Option SfImage :=
  let kind := leField p 0 1
  let rows := leField p 2 1 + 1
  let degree := leField p 3 1
  let n := leField p 0x14 4
  let abs := bitOf (leField p 4 1) 0
  if decide (1 ≤ kind) && decide (kind ≤ 5) && decide (1 ≤ degree) && decide (degree ≤ 7) &&
      (!(abs && kind == 4) || leField p 0x10 4 == 0) && decide (1 ≤ n) && decide (n ≤ 64) &&
      p.length == (0x40 + 32 * rows + 4 * n + 63) / 64 * 64 && (List.range n).all (fun k => (sfStep (sfStepWord p rows k)).isSome) then
    some { kind := kind, b := leField p 1 1, rows := rows, degree := degree, abs := abs, kappa := BitVec.ofNat 64 (leField p 8 8)
           x0 := BitVec.ofNat 32 (leField p 0x10 4)
           table := (List.range (8 * rows)).map fun k => BitVec.ofNat 32 (leField p (0x40 + 4 * k) 4)
           steps := (List.range n).map fun k => BitVec.ofNat 32 (sfStepWord p rows k), digest := digest }
  else none

/-- Install an image, and compute measurement index 5 again (R429). -/
def State.install (s : State) (fn : Nat) (g : SfImage) : State :=
  let die := dieOf s.hart.id
  let core := coreOf s.hart.id
  let s1 := s.updCore die core fun c => { c with slots := (c.slots.filter fun p => decide (p.1 < fn)) ++ [(fn, g)] ++ c.slots.filter fun p => decide (fn < p.1) }
  s1.setMgmt fun m => m.setMeas 4 (slotsMeasure (s1.core die core).slots)

/-- The bytes of the image at a physical address: its header, then as many payload bytes as the header says. -/
def State.imageBytes (s : State) (pa : Nat) : List Byte :=
  let h := Memory.bytes s.mem (s.physLoc none pa) 0xC0
  h ++ Memory.bytes s.mem (s.physLoc none (pa + 0xC0)) (leField h 8 8)

/-- The status of an image and its effect (Table 5.7, R428) (DEDUCED, log entry 45). -/
def State.sfuload (s : State) (rd : XReg) (pa fn : Nat) : State :=
  let b := s.imageBytes pa
  let check := s.fuses.checkImage 4 b
  if 1 ≤ check ∧ check ≤ 3 then s.ret rd 1
  else if check = 4 ∨ pa % 4096 ≠ 0 then s.ret rd 2
  else match sfImage (b.drop 0xC0) (sha256 b) with
    | some g => (s.install fn g).ret rd 0
    | none => s.ret rd 2

/-- The lines of a physical range. -/
def State.paPlaces (s : State) (pa n : Nat) : List Place := (List.range ((n + 63) / 64)).map fun k => s.physPlace none true (pa + 64 * k)

/-- VSF instructions of the harts of the current core that use a function and have not completed (R179). -/
def State.sfInUse (s : State) (fn : Nat) : Bool :=
  s.myCore.window.any fun w => !w.complete && match w.insn with
    | .vsf _ _ f _ _ _ => f.toNat == fn
    | _ => false

/-- R177, R179, R428: SFULOAD: the number is checked first; it waits while VSF instructions of the core use the function; then the image is read, and a physical address beyond installed memory raises PERMISSION. -/
def execSfuload (rd rs1 rs2 : XReg) (s : State) : Out :=
  let i := Instr.sfuload rd rs1 rs2
  let pa := (s.rx rs1).toNat
  let fn := (s.rx rs2).toNat
  .next (s.privileged i fun s0 => s0.afterEarlier i fun s =>
    if fn < 32 ∨ 63 < fn then s.ret rd 3
    else if s.sfInUse fn then s.waits i
    else match s.firstAbsent pa 0xC0 with
      | some a => s.raise i (.permission .read) (BitVec.ofNat 64 a) 0
      | none =>
        let len := 0xC0 + leField (Memory.bytes s.mem (s.physLoc none pa) 0xC0) 8 8
        match s.firstAbsent pa len with
        | some a => s.raise i (.permission .read) (BitVec.ofNat 64 a) 0
        | none => s.passGates i (s.paPlaces pa len) fun t => t.sfuload rd pa fn)

end Sys2Proof.Machine
end

