-- ==== Sys2Proof/Machine/Dispatch.lean ====
section
/-! DEFINITION. The meaning of every row of the table of operations and events: one arm per constructor. -/

namespace Sys2Proof.Machine

/-- One instruction or device step. -/
def exec (i : Instr) (s : State) : Host.Outcome State Fault Refusal :=
  match i with
  | .add rd rs1 rs2 => Sys2Proof.Machine.execAdd rd rs1 rs2 s
  | .sub rd rs1 rs2 => Sys2Proof.Machine.execSub rd rs1 rs2 s
  | .and rd rs1 rs2 => Sys2Proof.Machine.execAnd rd rs1 rs2 s
  | .or rd rs1 rs2 => Sys2Proof.Machine.execOr rd rs1 rs2 s
  | .xor rd rs1 rs2 => Sys2Proof.Machine.execXor rd rs1 rs2 s
  | .sll rd rs1 rs2 => Sys2Proof.Machine.execSll rd rs1 rs2 s
  | .srl rd rs1 rs2 => Sys2Proof.Machine.execSrl rd rs1 rs2 s
  | .sra rd rs1 rs2 => Sys2Proof.Machine.execSra rd rs1 rs2 s
  | .rotl rd rs1 rs2 => Sys2Proof.Machine.execRotl rd rs1 rs2 s
  | .rotr rd rs1 rs2 => Sys2Proof.Machine.execRotr rd rs1 rs2 s
  | .slt rd rs1 rs2 => Sys2Proof.Machine.execSlt rd rs1 rs2 s
  | .sltn rd rs1 rs2 => Sys2Proof.Machine.execSltn rd rs1 rs2 s
  | .min rd rs1 rs2 => Sys2Proof.Machine.execMin rd rs1 rs2 s
  | .max rd rs1 rs2 => Sys2Proof.Machine.execMax rd rs1 rs2 s
  | .minn rd rs1 rs2 => Sys2Proof.Machine.execMinn rd rs1 rs2 s
  | .maxn rd rs1 rs2 => Sys2Proof.Machine.execMaxn rd rs1 rs2 s
  | .mul rd rs1 rs2 => Sys2Proof.Machine.execMul rd rs1 rs2 s
  | .mulh rd rs1 rs2 => Sys2Proof.Machine.execMulh rd rs1 rs2 s
  | .mulhn rd rs1 rs2 => Sys2Proof.Machine.execMulhn rd rs1 rs2 s
  | .div rd rs1 rs2 => Sys2Proof.Machine.execDiv rd rs1 rs2 s
  | .divn rd rs1 rs2 => Sys2Proof.Machine.execDivn rd rs1 rs2 s
  | .rem rd rs1 rs2 => Sys2Proof.Machine.execRem rd rs1 rs2 s
  | .remn rd rs1 rs2 => Sys2Proof.Machine.execRemn rd rs1 rs2 s
  | .clz rd rs1 w => Sys2Proof.Machine.execClz rd rs1 w s
  | .ctz rd rs1 w => Sys2Proof.Machine.execCtz rd rs1 w s
  | .popc rd rs1 w => Sys2Proof.Machine.execPopc rd rs1 w s
  | .sext rd rs1 w => Sys2Proof.Machine.execSext rd rs1 w s
  | .zext rd rs1 w => Sys2Proof.Machine.execZext rd rs1 w s
  | .fadd rd rs1 rs2 fmt rnd => Sys2Proof.Machine.execFadd rd rs1 rs2 fmt rnd s
  | .fsub rd rs1 rs2 fmt rnd => Sys2Proof.Machine.execFsub rd rs1 rs2 fmt rnd s
  | .fmul rd rs1 rs2 fmt rnd => Sys2Proof.Machine.execFmul rd rs1 rs2 fmt rnd s
  | .fdiv rd rs1 rs2 fmt rnd => Sys2Proof.Machine.execFdiv rd rs1 rs2 fmt rnd s
  | .fsqrt rd rs1 fmt rnd => Sys2Proof.Machine.execFsqrt rd rs1 fmt rnd s
  | .fmin rd rs1 rs2 fmt => Sys2Proof.Machine.execFmin rd rs1 rs2 fmt s
  | .fmax rd rs1 rs2 fmt => Sys2Proof.Machine.execFmax rd rs1 rs2 fmt s
  | .fcmp rd rs1 rs2 fmt cond => Sys2Proof.Machine.execFcmp rd rs1 rs2 fmt cond s
  | .fcvt rd rs1 ty fmt rnd dir => Sys2Proof.Machine.execFcvt rd rs1 ty fmt rnd dir s
  | .fclass rd rs1 fmt => Sys2Proof.Machine.execFclass rd rs1 fmt s
  | .ffma rd rs1 rs2 rs3 fmt rnd => Sys2Proof.Machine.execFfma rd rs1 rs2 rs3 fmt rnd s
  | .addi rd rs1 imm => Sys2Proof.Machine.execAddi rd rs1 imm s
  | .andi rd rs1 imm => Sys2Proof.Machine.execAndi rd rs1 imm s
  | .ori rd rs1 imm => Sys2Proof.Machine.execOri rd rs1 imm s
  | .xori rd rs1 imm => Sys2Proof.Machine.execXori rd rs1 imm s
  | .slli rd rs1 sh => Sys2Proof.Machine.execSlli rd rs1 sh s
  | .srli rd rs1 sh => Sys2Proof.Machine.execSrli rd rs1 sh s
  | .srai rd rs1 sh => Sys2Proof.Machine.execSrai rd rs1 sh s
  | .slti rd rs1 imm => Sys2Proof.Machine.execSlti rd rs1 imm s
  | .lih rd imm => Sys2Proof.Machine.execLih rd imm s
  | .addpc rd imm => Sys2Proof.Machine.execAddpc rd imm s
  | .ldI8 rd rs1 imm => Sys2Proof.Machine.execLdI8 rd rs1 imm s
  | .ldN8 rd rs1 imm => Sys2Proof.Machine.execLdN8 rd rs1 imm s
  | .ldI16 rd rs1 imm => Sys2Proof.Machine.execLdI16 rd rs1 imm s
  | .ldN16 rd rs1 imm => Sys2Proof.Machine.execLdN16 rd rs1 imm s
  | .ldI32 rd rs1 imm => Sys2Proof.Machine.execLdI32 rd rs1 imm s
  | .ldN32 rd rs1 imm => Sys2Proof.Machine.execLdN32 rd rs1 imm s
  | .ldI64 rd rs1 imm => Sys2Proof.Machine.execLdI64 rd rs1 imm s
  | .ldacq rd rs1 ew scope => Sys2Proof.Machine.execLdacq rd rs1 ew scope s
  | .st8 rs rs1 imm => Sys2Proof.Machine.execSt8 rs rs1 imm s
  | .st16 rs rs1 imm => Sys2Proof.Machine.execSt16 rs rs1 imm s
  | .st32 rs rs1 imm => Sys2Proof.Machine.execSt32 rs rs1 imm s
  | .st64 rs rs1 imm => Sys2Proof.Machine.execSt64 rs rs1 imm s
  | .strel rs rs1 ew scope => Sys2Proof.Machine.execStrel rs rs1 ew scope s
  | .amoAdd rd rs1 rs2 ord scope => Sys2Proof.Machine.execAmoAdd rd rs1 rs2 ord scope s
  | .amoAnd rd rs1 rs2 ord scope => Sys2Proof.Machine.execAmoAnd rd rs1 rs2 ord scope s
  | .amoOr rd rs1 rs2 ord scope => Sys2Proof.Machine.execAmoOr rd rs1 rs2 ord scope s
  | .amoXor rd rs1 rs2 ord scope => Sys2Proof.Machine.execAmoXor rd rs1 rs2 ord scope s
  | .amoMin rd rs1 rs2 ord scope => Sys2Proof.Machine.execAmoMin rd rs1 rs2 ord scope s
  | .amoMax rd rs1 rs2 ord scope => Sys2Proof.Machine.execAmoMax rd rs1 rs2 ord scope s
  | .amoSwap rd rs1 rs2 ord scope => Sys2Proof.Machine.execAmoSwap rd rs1 rs2 ord scope s
  | .amoCas rd rs1 rs2 ord scope => Sys2Proof.Machine.execAmoCas rd rs1 rs2 ord scope s
  | .prefetch st rs1 level => Sys2Proof.Machine.execPrefetch st rs1 level s
  | .pin st rs1 level => Sys2Proof.Machine.execPin st rs1 level s
  | .unpin st rs1 level => Sys2Proof.Machine.execUnpin st rs1 level s
  | .beq rs1 rs2 off => Sys2Proof.Machine.execBeq rs1 rs2 off s
  | .bne rs1 rs2 off => Sys2Proof.Machine.execBne rs1 rs2 off s
  | .blt rs1 rs2 off => Sys2Proof.Machine.execBlt rs1 rs2 off s
  | .bge rs1 rs2 off => Sys2Proof.Machine.execBge rs1 rs2 off s
  | .bltn rs1 rs2 off => Sys2Proof.Machine.execBltn rs1 rs2 off s
  | .bgen rs1 rs2 off => Sys2Proof.Machine.execBgen rs1 rs2 off s
  | .jal rd off => Sys2Proof.Machine.execJal rd off s
  | .jalr rd rs1 imm => Sys2Proof.Machine.execJalr rd rs1 imm s
  | .ecall => Sys2Proof.Machine.execEcall s
  | .ebreak => Sys2Proof.Machine.execEbreak s
  | .tret => Sys2Proof.Machine.execTret s
  | .halt => Sys2Proof.Machine.execHalt s
  | .yield => Sys2Proof.Machine.execYield s
  | .fence scope sets => Sys2Proof.Machine.execFence scope sets s
  | .vlsync => Sys2Proof.Machine.execVlsync s
  | .evpop rd rs1 => Sys2Proof.Machine.execEvpop rd rs1 s
  | .evwait rd rs1 => Sys2Proof.Machine.execEvwait rd rs1 s
  | .csrrw rd rs1 csr => Sys2Proof.Machine.execCsrrw rd rs1 csr s
  | .csrrs rd rs1 csr => Sys2Proof.Machine.execCsrrs rd rs1 csr s
  | .csrrc rd rs1 csr => Sys2Proof.Machine.execCsrrc rd rs1 csr s
  | .ifrsave rd => Sys2Proof.Machine.execIfrsave rd s
  | .ifrload rd => Sys2Proof.Machine.execIfrload rd s
  | .ifrreplay rd => Sys2Proof.Machine.execIfrreplay rd s
  | .ctxsavev rd => Sys2Proof.Machine.execCtxsavev rd s
  | .ctxloadv rd => Sys2Proof.Machine.execCtxloadv rd s
  | .genbump rd rs1 => Sys2Proof.Machine.execGenbump rd rs1 s
  | .lanecap rd rs1 rs2 => Sys2Proof.Machine.execLanecap rd rs1 rs2 s
  | .sfuload rd rs1 rs2 => Sys2Proof.Machine.execSfuload rd rs1 rs2 s
  | .launch rd rs1 rs2 => Sys2Proof.Machine.execLaunch rd rs1 rs2 s
  | .vadd vd va vb m ca cb z => Sys2Proof.Machine.execVadd vd va vb m ca cb z s
  | .vsub vd va vb m ca cb z => Sys2Proof.Machine.execVsub vd va vb m ca cb z s
  | .vmul vd va vb m ca cb z => Sys2Proof.Machine.execVmul vd va vb m ca cb z s
  | .vmulh vd va vb m ca cb z => Sys2Proof.Machine.execVmulh vd va vb m ca cb z s
  | .vdiv vd va vb m ca cb z => Sys2Proof.Machine.execVdiv vd va vb m ca cb z s
  | .vfma vd va vb m ca cb z => Sys2Proof.Machine.execVfma vd va vb m ca cb z s
  | .vfms vd va vb m ca cb z => Sys2Proof.Machine.execVfms vd va vb m ca cb z s
  | .vfnma vd va vb m ca cb z => Sys2Proof.Machine.execVfnma vd va vb m ca cb z s
  | .vmin vd va vb m ca cb z => Sys2Proof.Machine.execVmin vd va vb m ca cb z s
  | .vmax vd va vb m ca cb z => Sys2Proof.Machine.execVmax vd va vb m ca cb z s
  | .vadds vd va vb m ca cb z => Sys2Proof.Machine.execVadds vd va vb m ca cb z s
  | .vsubs vd va vb m ca cb z => Sys2Proof.Machine.execVsubs vd va vb m ca cb z s
  | .vand vd va vb m ca cb z => Sys2Proof.Machine.execVand vd va vb m ca cb z s
  | .vor vd va vb m ca cb z => Sys2Proof.Machine.execVor vd va vb m ca cb z s
  | .vxor vd va vb m ca cb z => Sys2Proof.Machine.execVxor vd va vb m ca cb z s
  | .vsll vd va vb m ca cb z => Sys2Proof.Machine.execVsll vd va vb m ca cb z s
  | .vsrl vd va vb m ca cb z => Sys2Proof.Machine.execVsrl vd va vb m ca cb z s
  | .vsra vd va vb m ca cb z => Sys2Proof.Machine.execVsra vd va vb m ca cb z s
  | .vcmp md cond va vb m ca cb z => Sys2Proof.Machine.execVcmp md cond va vb m ca cb z s
  | .vmerge vd va vb m ca cb => Sys2Proof.Machine.execVmerge vd va vb m ca cb s
  | .vmulsc vd va vb m ca cb z => Sys2Proof.Machine.execVmulsc vd va vb m ca cb z s
  | .vperm vd va vb m ca cb z => Sys2Proof.Machine.execVperm vd va vb m ca cb z s
  | .vzipLo vd va m ca z => Sys2Proof.Machine.execVzipLo vd va m ca z s
  | .vzipHi vd va m ca z => Sys2Proof.Machine.execVzipHi vd va m ca z s
  | .vunzipEven vd va m ca z => Sys2Proof.Machine.execVunzipEven vd va m ca z s
  | .vunzipOdd vd va m ca z => Sys2Proof.Machine.execVunzipOdd vd va m ca z s
  | .vsqrt vd va m ca z => Sys2Proof.Machine.execVsqrt vd va m ca z s
  | .vabs vd va m ca z => Sys2Proof.Machine.execVabs vd va m ca z s
  | .vneg vd va m ca z => Sys2Proof.Machine.execVneg vd va m ca z s
  | .vmov vd va m ca z => Sys2Proof.Machine.execVmov vd va m ca z s
  | .vreshuf vd va m ca z => Sys2Proof.Machine.execVreshuf vd va m ca z s
  | .vcompress vd va m ca => Sys2Proof.Machine.execVcompress vd va m ca s
  | .vexpand vd va m ca z => Sys2Proof.Machine.execVexpand vd va m ca z s
  | .viota vd m ca z => Sys2Proof.Machine.execViota vd m ca z s
  | .vcvt vd va ty sr m ca z => Sys2Proof.Machine.execVcvt vd va ty sr m ca z s
  | .vsf vd va fn m ca z => Sys2Proof.Machine.execVsf vd va fn m ca z s
  | .vsfrr vd va fn m ca z => Sys2Proof.Machine.execVsfrr vd va fn m ca z s
  | .vsftab vd va fn m ca z => Sys2Proof.Machine.execVsftab vd va fn m ca z s
  | .vsfpoly vd va vb m ca cb z => Sys2Proof.Machine.execVsfpoly vd va vb m ca cb z s
  | .vsfscl vd va vb m ca cb z => Sys2Proof.Machine.execVsfscl vd va vb m ca cb z s
  | .vrngN32 vd m z => Sys2Proof.Machine.execVrngN32 vd m z s
  | .vrngN64 vd m z => Sys2Proof.Machine.execVrngN64 vd m z s
  | .vrngF32 vd m z => Sys2Proof.Machine.execVrngF32 vd m z s
  | .vaddX vd va xs sw m ca z => Sys2Proof.Machine.execVaddX vd va xs sw m ca z s
  | .vsubX vd va xs sw m ca z => Sys2Proof.Machine.execVsubX vd va xs sw m ca z s
  | .vmulX vd va xs sw m ca z => Sys2Proof.Machine.execVmulX vd va xs sw m ca z s
  | .vfmaX vd va xs sw m ca z => Sys2Proof.Machine.execVfmaX vd va xs sw m ca z s
  | .vminX vd va xs sw m ca z => Sys2Proof.Machine.execVminX vd va xs sw m ca z s
  | .vmaxX vd va xs sw m ca z => Sys2Proof.Machine.execVmaxX vd va xs sw m ca z s
  | .vandX vd va xs sw m ca z => Sys2Proof.Machine.execVandX vd va xs sw m ca z s
  | .vorX vd va xs sw m ca z => Sys2Proof.Machine.execVorX vd va xs sw m ca z s
  | .vxorX vd va xs sw m ca z => Sys2Proof.Machine.execVxorX vd va xs sw m ca z s
  | .vsllX vd va xs sw m ca z => Sys2Proof.Machine.execVsllX vd va xs sw m ca z s
  | .vsrlX vd va xs sw m ca z => Sys2Proof.Machine.execVsrlX vd va xs sw m ca z s
  | .vsraX vd va xs sw m ca z => Sys2Proof.Machine.execVsraX vd va xs sw m ca z s
  | .vcmpX md cond va xs sw m ca z => Sys2Proof.Machine.execVcmpX md cond va xs sw m ca z s
  | .vbcast vd xs sw m z => Sys2Proof.Machine.execVbcast vd xs sw m z s
  | .vmvx xs va xi sw ca => Sys2Proof.Machine.execVmvx xs va xi sw ca s
  | .vxmv vd xs xi sw => Sys2Proof.Machine.execVxmv vd xs xi sw s
  | .vaddi vd va imm m ca z => Sys2Proof.Machine.execVaddi vd va imm m ca z s
  | .vandi vd va imm m ca z => Sys2Proof.Machine.execVandi vd va imm m ca z s
  | .vslli vd va imm m ca z => Sys2Proof.Machine.execVslli vd va imm m ca z s
  | .vsrli vd va imm m ca z => Sys2Proof.Machine.execVsrli vd va imm m ca z s
  | .vsrai vd va imm m ca z => Sys2Proof.Machine.execVsrai vd va imm m ca z s
  | .vslideup vd va imm m ca z => Sys2Proof.Machine.execVslideup vd va imm m ca z s
  | .vslidedn vd va imm m ca z => Sys2Proof.Machine.execVslidedn vd va imm m ca z s
  | .vring vd va imm m ca z => Sys2Proof.Machine.execVring vd va imm m ca z s
  | .vrsum vd va m ca => Sys2Proof.Machine.execVrsum vd va m ca s
  | .vrmax vd va m ca => Sys2Proof.Machine.execVrmax vd va m ca s
  | .vrmin vd va m ca => Sys2Proof.Machine.execVrmin vd va m ca s
  | .vrssq vd va m ca => Sys2Proof.Machine.execVrssq vd va m ca s
  | .vsoftmax vd va m ca z => Sys2Proof.Machine.execVsoftmax vd va m ca z s
  | .vrnormRms vd va m ca z => Sys2Proof.Machine.execVrnormRms vd va m ca z s
  | .vrnormLayer vd va m ca z => Sys2Proof.Machine.execVrnormLayer vd va m ca z s
  | .vtmovRow vd va xi ca => Sys2Proof.Machine.execVtmovRow vd va xi ca s
  | .vtmovCol vd va xi ca => Sys2Proof.Machine.execVtmovCol vd va xi ca s
  | .vsetvl rd rs1 ew => Sys2Proof.Machine.execVsetvl rd rs1 ew s
  | .vsettag v rs1 => Sys2Proof.Machine.execVsettag v rs1 s
  | .vgettag rd v => Sys2Proof.Machine.execVgettag rd v s
  | .modeV => Sys2Proof.Machine.execModeV s
  | .modeM => Sys2Proof.Machine.execModeM s
  | .mand md ma mb => Sys2Proof.Machine.execMand md ma mb s
  | .mor md ma mb => Sys2Proof.Machine.execMor md ma mb s
  | .mxor md ma mb => Sys2Proof.Machine.execMxor md ma mb s
  | .mandn md ma mb => Sys2Proof.Machine.execMandn md ma mb s
  | .mpopc x ma => Sys2Proof.Machine.execMpopc x ma s
  | .mfirst x ma => Sys2Proof.Machine.execMfirst x ma s
  | .mset md => Sys2Proof.Machine.execMset md s
  | .vld v xb ty z m => Sys2Proof.Machine.execVld v xb ty z m s
  | .vldff v xb ty z m => Sys2Proof.Machine.execVldff v xb ty z m s
  | .vldm v xb ty z m => Sys2Proof.Machine.execVldm v xb ty z m s
  | .vst v xb m ca => Sys2Proof.Machine.execVst v xb m ca s
  | .vstff v xb m ca => Sys2Proof.Machine.execVstff v xb m ca s
  | .mma vc va vb ta tb tacc tres fin half ca cb rnd sat => Sys2Proof.Machine.execMma vc va vb ta tb tacc tres fin half ca cb rnd sat s
  | .mmaRs va vb ta tb tacc tres ca cb rnd sat => Sys2Proof.Machine.execMmaRs va vb ta tb tacc tres ca cb rnd sat s
  | .mmax vc va vb vsa vsb ta tb tacc tres fin half ca cb rnd sat => Sys2Proof.Machine.execMmax vc va vb vsa vsb ta tb tacc tres fin half ca cb rnd sat s
  | .mmaxRs va vb vsa vsb ta tb tacc tres ca cb rnd sat => Sys2Proof.Machine.execMmaxRs va vb vsa vsb ta tb tacc tres ca cb rnd sat s
  | .mdrain v xs tres rnd => Sys2Proof.Machine.execMdrain v xs tres rnd s
  | .mattach seg => Sys2Proof.Machine.execMattach seg s
  | .mdetach => Sys2Proof.Machine.execMdetach s
  | .mpreload v xs => Sys2Proof.Machine.execMpreload v xs s
  | .mzero tres => Sys2Proof.Machine.execMzero tres s
  | .mdrainst xb xstride vi ix m tres rnd sat qos => Sys2Proof.Machine.execMdrainst xb xstride vi ix m tres rnd sat qos s
  | .vlds v xb xs ty m ff z qos => Sys2Proof.Machine.execVlds v xb xs ty m ff z qos s
  | .vldx v xb vi ty m ca ff z qos => Sys2Proof.Machine.execVldx v xb vi ty m ca ff z qos s
  | .vsts v xb xs m ca ff qos => Sys2Proof.Machine.execVsts v xb xs m ca ff qos s
  | .vstx v xb vi m ca ff qos => Sys2Proof.Machine.execVstx v xb vi m ca ff qos s
  | .vamoAdd v xb vi ty m ca z qos ord scope => Sys2Proof.Machine.execVamoAdd v xb vi ty m ca z qos ord scope s
  | .vamoMin v xb vi ty m ca z qos ord scope => Sys2Proof.Machine.execVamoMin v xb vi ty m ca z qos ord scope s
  | .vamoMax v xb vi ty m ca z qos ord scope => Sys2Proof.Machine.execVamoMax v xb vi ty m ca z qos ord scope s
  | .vamoSwap v xb vi ty m ca z qos ord scope => Sys2Proof.Machine.execVamoSwap v xb vi ty m ca z qos ord scope s
  | .vappend va xq m rnd sat qos => Sys2Proof.Machine.execVappend va xq m rnd sat qos s
  | .vappendIdx xq m rnd sat qos => Sys2Proof.Machine.execVappendIdx xq m rnd sat qos s
  | .vscatr va vb ty m rnd sat qos => Sys2Proof.Machine.execVscatr va vb ty m rnd sat qos s
  | .vroute vd va vb m qos => Sys2Proof.Machine.execVroute vd va vb m qos s
  | .vmxq vd vs va ty m rnd sat qos => Sys2Proof.Machine.execVmxq vd vs va ty m rnd sat qos s
  | .strm h xa xb xc ty mk qos ix vi ev => Sys2Proof.Machine.execStrm h xa xb xc ty mk qos ix vi ev s
  | .strmw h xa xb xc ty mk qos ix vi ev => Sys2Proof.Machine.execStrmw h xa xb xc ty mk qos ix vi ev s
  | .hwait xa h target => Sys2Proof.Machine.execHwait xa h target s
  | .hstate xa h => Sys2Proof.Machine.execHstate xa h s
  | .hfree h => Sys2Proof.Machine.execHfree h s
  | .xcopy q xa xb xc ty qos ev => Sys2Proof.Machine.execXcopy q xa xb xc ty qos ev s
  | .gstream v xb mask code ty => Sys2Proof.Machine.execGstream v xb mask code ty s
  | .gbcast v member mask code ty => Sys2Proof.Machine.execGbcast v member mask code ty s
  | .scntadd xd xh xv sys => Sys2Proof.Machine.execScntadd xd xh xv sys s
  | .scntrd xd xh sys => Sys2Proof.Machine.execScntrd xd xh sys s
  | .scntwait xd xh xv sys => Sys2Proof.Machine.execScntwait xd xh xv sys s
  | .sbararr xd xh sys => Sys2Proof.Machine.execSbararr xd xh sys s
  | .sbarwait xd xh xv sys => Sys2Proof.Machine.execSbarwait xd xh xv sys s
  | .ssemacq xd xh xv sys => Sys2Proof.Machine.execSsemacq xd xh xv sys s
  | .ssemrel xd xh xv sys => Sys2Proof.Machine.execSsemrel xd xh xv sys s
  | .sredadd xd xh xv ty sys => Sys2Proof.Machine.execSredadd xd xh xv ty sys s
  | .sredget xd xh xv ty sys => Sys2Proof.Machine.execSredget xd xh xv ty sys s
  | .scalarIssue core => Sys2Proof.Machine.execScalarIssue core s
  | .vectorDecode hart unit groups writes masks srcs skipped => Sys2Proof.Machine.execVectorDecode hart unit groups writes masks srcs skipped s
  | .microOpIssue core unit => Sys2Proof.Machine.execMicroOpIssue core unit s
  | .microOpPromotion core unit => Sys2Proof.Machine.execMicroOpPromotion core unit s
  | .groupAvailable core age group => Sys2Proof.Machine.execGroupAvailable core age group s
  | .modeSwitch hart => Sys2Proof.Machine.execModeSwitch hart s
  | .grantChange hart => Sys2Proof.Machine.execGrantChange hart s
  | .haltComplete hart => Sys2Proof.Machine.execHaltComplete hart s
  | .fenceComplete hart => Sys2Proof.Machine.execFenceComplete hart s
  | .vlsyncComplete hart => Sys2Proof.Machine.execVlsyncComplete hart s
  | .accessPerformed k => Sys2Proof.Machine.execAccessPerformed k s
  | .loadValueBound k => Sys2Proof.Machine.execLoadValueBound k s
  | .storeAcknowledge k => Sys2Proof.Machine.execStoreAcknowledge k s
  | .tagConfirm k => Sys2Proof.Machine.execTagConfirm k s
  | .scntwaitSatisfied hart => Sys2Proof.Machine.execScntwaitSatisfied hart s
  | .sbarwaitRelease hart => Sys2Proof.Machine.execSbarwaitRelease hart s
  | .ssemacqGrant sem => Sys2Proof.Machine.execSsemacqGrant sem s
  | .sredgetSatisfied hart => Sys2Proof.Machine.execSredgetSatisfied hart s
  | .hwaitWake hart => Sys2Proof.Machine.execHwaitWake hart s
  | .evwaitWake hart => Sys2Proof.Machine.execEvwaitWake hart s
  | .eventStallRelease hart => Sys2Proof.Machine.execEventStallRelease hart s
  | .chunkDone hart h c => Sys2Proof.Machine.execChunkDone hart h c s
  | .strmComplete hart h => Sys2Proof.Machine.execStrmComplete hart h s
  | .strmwComplete hart h => Sys2Proof.Machine.execStrmwComplete hart h s
  | .streamEngineRequest core => Sys2Proof.Machine.execStreamEngineRequest core s
  | .xcopyPost hart => Sys2Proof.Machine.execXcopyPost hart s
  | .copyExecute die cq => Sys2Proof.Machine.execCopyExecute die cq s
  | .copyComplete die cq => Sys2Proof.Machine.execCopyComplete die cq s
  | .vappendClaim hart => Sys2Proof.Machine.execVappendClaim hart s
  | .vappendCommit k => Sys2Proof.Machine.execVappendCommit k s
  | .trainArrival k => Sys2Proof.Machine.execTrainArrival k s
  | .trainAcknowledge k => Sys2Proof.Machine.execTrainAcknowledge k s
  | .trainRedirect k => Sys2Proof.Machine.execTrainRedirect k s
  | .gangStripLand hart n => Sys2Proof.Machine.execGangStripLand hart n s
  | .genbumpAck asid core => Sys2Proof.Machine.execGenbumpAck asid core s
  | .hostPush q off bytes => Sys2Proof.Machine.execHostPush q off bytes s
  | .heldPushAccept => Sys2Proof.Machine.execHeldPushAccept s
  | .hostPushTimeout => Sys2Proof.Machine.execHostPushTimeout s
  | .select => Sys2Proof.Machine.execSelect s
  | .selectionTimeout => Sys2Proof.Machine.execSelectionTimeout s
  | .bindGang choice => Sys2Proof.Machine.execBindGang choice s
  | .gangComplete gang => Sys2Proof.Machine.execGangComplete gang s
  | .preemptreq hart => Sys2Proof.Machine.execPreemptreq hart s
  | .laneReclaimDeadline hart => Sys2Proof.Machine.execLaneReclaimDeadline hart s
  | .preempt hart => Sys2Proof.Machine.execPreempt hart s
  | .settleWindow hart => Sys2Proof.Machine.execSettleWindow hart s
  | .recordFrozen hart => Sys2Proof.Machine.execRecordFrozen hart s
  | .uncorrectableError ctx source pa => Sys2Proof.Machine.execUncorrectableError ctx source pa s
  | .killedWrite ctx => Sys2Proof.Machine.execKilledWrite ctx s
  | .noticeDelivery => Sys2Proof.Machine.execNoticeDelivery s
  | .trvresetBarrier k => Sys2Proof.Machine.execTrvresetBarrier k s
  | .trvresetSemaphore k v => Sys2Proof.Machine.execTrvresetSemaphore k v s
  | .trvsetCounter k => Sys2Proof.Machine.execTrvsetCounter k s
  | .trvsetBarrier k n => Sys2Proof.Machine.execTrvsetBarrier k n s
  | .trvsetSemaphore k => Sys2Proof.Machine.execTrvsetSemaphore k s
  | .trvsetCell k n ty => Sys2Proof.Machine.execTrvsetCell k n ty s
  | .registerWrite off val => Sys2Proof.Machine.execRegisterWrite off val s
  | .hostCxlMemAccess pa len write bytes => Sys2Proof.Machine.execHostCxlMemAccess pa len write bytes s
  | .flitArrival die stop net input vc k => Sys2Proof.Machine.execFlitArrival die stop net input vc k s
  | .outputPortGrant die stop net out => Sys2Proof.Machine.execOutputPortGrant die stop net out s
  | .flitPromotion die stop net out => Sys2Proof.Machine.execFlitPromotion die stop net out s
  | .nocarb die val => Sys2Proof.Machine.execNocarb die val s
  | .nocarbApply die => Sys2Proof.Machine.execNocarbApply die s
  | .migrationGo slot => Sys2Proof.Machine.execMigrationGo slot s
  | .migrationClear slot => Sys2Proof.Machine.execMigrationClear slot s
  | .migrationLineCopy slot err => Sys2Proof.Machine.execMigrationLineCopy slot err s
  | .ladleIntervalEnd => Sys2Proof.Machine.execLadleIntervalEnd s
  | .inflightMessage k => Sys2Proof.Machine.execInflightMessage k s
  | .replicate e die => Sys2Proof.Machine.execReplicate e die s
  | .replicationVerify err => Sys2Proof.Machine.execReplicationVerify err s
  | .switchApply die => Sys2Proof.Machine.execSwitchApply die s
  | .switchAck die => Sys2Proof.Machine.execSwitchAck die s
  | .switchAckTimeout die => Sys2Proof.Machine.execSwitchAckTimeout die s
  | .retire e k => Sys2Proof.Machine.execRetire e k s
  | .drainEnd => Sys2Proof.Machine.execDrainEnd s
  | .wipe => Sys2Proof.Machine.execWipe s
  | .merge => Sys2Proof.Machine.execMerge s
  | .hold e => Sys2Proof.Machine.execHold e s
  | .unhold e => Sys2Proof.Machine.execUnhold e s
  | .reclaim e k => Sys2Proof.Machine.execReclaim e k s
  | .rejoin die => Sys2Proof.Machine.execRejoin die s
  | .forcedrain e k => Sys2Proof.Machine.execForcedrain e k s
  | .publish => Sys2Proof.Machine.execPublish s
  | .coldReset => Sys2Proof.Machine.execColdReset s
  | .warmReset => Sys2Proof.Machine.execWarmReset s
  | .bootStage image => Sys2Proof.Machine.execBootStage image s
  | .zeroFillComplete => Sys2Proof.Machine.execZeroFillComplete s
  | .lcreqProvisioned => Sys2Proof.Machine.execLcreqProvisioned s
  | .lcreqDeployed => Sys2Proof.Machine.execLcreqDeployed s
  | .lcreqRma => Sys2Proof.Machine.execLcreqRma s
  | .lcreqDecommissioned => Sys2Proof.Machine.execLcreqDecommissioned s
  | .getVersion => Sys2Proof.Machine.execGetVersion s
  | .getCapabilities => Sys2Proof.Machine.execGetCapabilities s
  | .negotiateAlgorithms => Sys2Proof.Machine.execNegotiateAlgorithms s
  | .getDigests => Sys2Proof.Machine.execGetDigests s
  | .getCertificate off len => Sys2Proof.Machine.execGetCertificate off len s
  | .challenge nonce => Sys2Proof.Machine.execChallenge nonce s
  | .getMeasurements index => Sys2Proof.Machine.execGetMeasurements index s
  | .routeWrite p val => Sys2Proof.Machine.execRouteWrite p val s
  | .fabricTimeout ctx pa => Sys2Proof.Machine.execFabricTimeout ctx pa s
  | .nsfailChange die v => Sys2Proof.Machine.execNsfailChange die v s
  | .memoryRequest stack kind source pch bank row write line => Sys2Proof.Machine.execMemoryRequest stack kind source pch bank row write line s
  | .batchFormation stack => Sys2Proof.Machine.execBatchFormation stack s
  | .bankCommandSlot stack pch bank => Sys2Proof.Machine.execBankCommandSlot stack pch bank s
  | .minorOverflowEnd page => Sys2Proof.Machine.execMinorOverflowEnd page s
  | .nimbusPatrolLine found => Sys2Proof.Machine.execNimbusPatrolLine found s
  | .rotate => Sys2Proof.Machine.execRotate s
  | .unitMapOut cls die index => Sys2Proof.Machine.execUnitMapOut cls die index s
  | .dierst die => Sys2Proof.Machine.execDierst die s
  | .dieDrainEnd die => Sys2Proof.Machine.execDieDrainEnd die s
  | .dieResetComplete die => Sys2Proof.Machine.execDieResetComplete die s
  | .powerEvaluation readings => Sys2Proof.Machine.execPowerEvaluation readings s
  | .zeroFillLine => Sys2Proof.Machine.execZeroFillLine s
  | .linkTrained link up => Sys2Proof.Machine.execLinkTrained link up s
  | .fabricAccess pa len write bytes => Sys2Proof.Machine.execFabricAccess pa len write bytes s

end Sys2Proof.Machine
end

