-- ==== Sys2Proof/Machine/Agenda.lean ====
section
/-! DEFINITION. The device steps that an earlier step has started, each run by the meaning of its row (DESIGN CHOICE, log entry 6), and the issue of the next
instruction. -/

namespace Sys2Proof.Machine

/-- The completion of a transfer, by its direction. -/
def State.streamEnd (s : State) (hart h : Nat) : Out := match s.streamOf hart h with
  | some c => if c.out then execStrmwComplete hart h s else execStrmComplete hart h s
  | none => .next s

/-- Run a due step (DESIGN CHOICE, log entry 53). -/
def Due.run (d : Due) (s : State) : Host.Outcome State Fault Refusal :=
  match d with
  | .input i => if i.isDeviceStep then exec i s else .fault .notADeviceStep
  | .preempt hart => execPreempt hart s
  | .settleWindow hart => execSettleWindow hart s
  | .recordFrozen hart => execRecordFrozen hart s
  | .eventStallRelease hart => execEventStallRelease hart s
  | .noticeDelivery => execNoticeDelivery s
  | .accessPerformed k => execAccessPerformed k s
  | .loadValueBound k => execLoadValueBound k s
  | .storeAcknowledge k => execStoreAcknowledge k s
  | .tagConfirm k => execTagConfirm k s
  | .chunkDone hart h c => execChunkDone hart h c s
  | .streamComplete hart h => s.streamEnd hart h
  | .copyExecute die q => execCopyExecute die q s
  | .copyComplete die q => execCopyComplete die q s
  | .vappendCommit k => execVappendCommit k s
  | .trainArrival k => execTrainArrival k s
  | .trainAcknowledge k => execTrainAcknowledge k s
  | .trainRedirect k => execTrainRedirect k s
  | .ladleIntervalEnd => execLadleIntervalEnd s
  | .gangStripLand hart n => execGangStripLand hart n s
  | .genbumpAck asid core => execGenbumpAck asid core s
  | .heldPushAccept => execHeldPushAccept s
  | .select => execSelect s
  | .bindGang => execBindGang [] s
  | .gangComplete gang => execGangComplete gang s
  | .haltComplete hart => execHaltComplete hart s
  | .migrationLineCopy slot => execMigrationLineCopy slot false s
  | .inflightMessage k => execInflightMessage k s
  | .replicationVerify => execReplicationVerify 0 s
  | .switchApply die => execSwitchApply die s
  | .switchAck die => execSwitchAck die s
  | .drainEnd => execDrainEnd s
  | .wipe => execWipe s
  | .merge => execMerge s
  | .dieDrainEnd die => execDieDrainEnd die s
  | .dieResetComplete die => execDieResetComplete die s
  | .streamRequest core => execStreamEngineRequest core s
  | .nocarbApply die => execNocarbApply die s
  | .meshTick => .next s.meshTick
  | .microOp core unit => execMicroOpIssue core unit s
  | .groupAvailable core age group => execGroupAvailable core age group s

/-! ### The requests of an instruction (R324, R327) -/

/-- The request of an instruction that sends one besides its loads and stores: PREFETCH, PIN, UNPIN and the read of LAUNCH, and the command that VAPPEND sends to its
queue, in the class of its qos field (DESIGN CHOICE, log entry 15). -/
def State.directRequest (s : State) (i : Instr) : Option (Request × XReg) :=
  let scalar := Request.scalar s.hart.csr.nocclass
  match i with
  | .prefetch _ rs1 _ => some (scalar, rs1)
  | .pin _ rs1 _ => some (scalar, rs1)
  | .unpin _ rs1 _ => some (scalar, rs1)
  | .launch _ rs1 _ => some (scalar, rs1)
  | .vappend _ xq _ _ _ qos => some (.coded qos, xq)
  | .vappendIdx xq _ _ _ qos => some (.coded qos, xq)
  | _ => none

/-- The request packets of an instruction at a state: those of the accesses that it makes, when it performs them at once (they are what it queues under the relaxed
policy), and its own request, which one that traps does not send. -/
def State.requestsOf (s : State) (i : Instr) (trapped : Bool) : List Packet :=
  let u := nextState (exec i { s with relaxed := true }) s
  let h := s.hart.id
  (if s.relaxed then [] else (u.accesses.drop s.accesses.length).filterMap fun a => a.site.map (u.requestOf a ·)).eraseDups ++
  (if trapped then none else (s.directRequest i).bind fun r => match s.probe (s.rx r.2) 1 1 .read with
    | .ok p => (siteOf (dieOf h) (coreOf h) p.loc).map fun d =>
        ⟨coreSite (dieOf h) (coreOf h), d, .access h s.nextOrder, r.1.channel, false, p.loc / 64, 64⟩
    | .error _ => none).toList

/-- The requests of an instruction that has gone on, from a state to the next, wait where its core enters the mesh. -/
def State.sendsFlits (s : State) (i : Instr) (t : State) : State :=
  let l := if t.hart.id = s.hart.id ∧ t.hart.run = .waiting then [] else s.requestsOf i (t.hart.level != s.hart.level)
  if l.isEmpty then t else (t.updNoc (dieOf s.hart.id) fun n => { n with waiting := n.waiting ++ l.map fun p => (0, p) }).dueOnce .meshTick

/-! ### The next instruction -/

/-- Run an instruction unless it is interlocked: one that passes vector decode enters the windows. One that would leave application level by a trap waits until
everything older is complete. -/
def State.issueInsn (s : State) (i : Instr) : Host.Outcome State Fault Refusal :=
  if s.quiet && (s.decodes i).isNone then exec i s
  else if s.interlocked i then .next (s.waits i)
  else match s.decodes i with
    | some p => s.passDecode i p (exec i)
    | none => match exec i s with
      | .next t => if s.hart.level == .app && t.hart.level == .sup && s.unsettled then .next (s.waits i) else .next t
      | o => o

/-- A fetch or an encoding traps, once everything older is complete. -/
def State.fetchTrap (s : State) (insn : Nat) (t : Trap) : State :=
  if s.hart.level == .app && s.unsettled then { s with hart := { s.hart with run := .waiting, wait := none } } else s.trap insn t

/-- Orphans go on while a hart waits. -/
def State.orphanDues (s : State) : List Due := if s.orphans.isEmpty then [] else [.accessPerformed s.accesses.length]

/-- Strips of the current hart that can land. -/
def State.stripDues (s : State) : List Due :=
  (s.hart.strips.filter fun x => !s.stripAtPort s.hart x && (s.instOf s.hart.job.gang x.inst).any (·.data.isSome)).map fun x => .gangStripLand s.hart.id x.inst

/-- While a GENBUMP of the current hart waits, the harts of the cores that have yet to acknowledge it go on with their accesses, and each of these cores is asked again
(R391). -/
def State.bumpDues (s : State) : List Due :=
  (s.bumps.filter fun b => b.hart == s.hart.id).flatMap fun b => b.cores.flatMap fun c =>
    ((s.harts.filter fun h => h.id / 4 == c).flatMap fun h => s.accessDue h.id ++ s.retryDues h.id) ++ [.genbumpAck b.asid.toNat c]

/-- Steps that are due while the current hart waits: its own accesses, trains, appends and strips, the windows of its core, the orphans,
the duplicate tables, the acknowledgements of its GENBUMP, and the record of its freeze. -/
def State.waitDues (s : State) : List Due :=
  s.accessDue s.hart.id ++ s.pipeDues (s.hart.id / 4) ++ s.stripDues ++ s.orphanDues ++ s.confirmDue ++ s.retryDues s.hart.id ++ s.bumpDues ++ if s.hart.freeze = .settling then [.recordFrozen s.hart.id] else []

end Sys2Proof.Machine
end

