-- ==== Sys2Proof/Machine/Step.lean ====
section
/-! DEFINITION. One step of the package: the next due device step, or the instruction of the hart whose turn it is. -/

namespace Sys2Proof.Machine

/-- The current hart issues the instruction at its pc. -/
def issue (s : State) : Host.Outcome State Fault Refusal :=
  match s.fetch with
  | .insn i => mapNext (s.sendsFlits i) (s.issueInsn i)
  | .trap insn t => .next (s.fetchTrap insn t)
  | .stopped p => .next (s.fetchStopped p)

/-- One step. -/
def step (s : State) : Host.Outcome State Fault Refusal :=
  match s.agenda with
  | d :: rest => d.run { s with agenda := rest }
  | [] =>
    let s := s.arbitrate
    if s.hart.bound then
      match s.hart.run with
      | .running => mapNext s.endTurn (issue s)
      | .waiting => .next (({ s with hart := { s.hart with run := .running } }.due s.waitDues).rotate)
      | .blocked => .next s.rotate
    else .next s.rotate

/-- The state with an instruction stored where the next step fetches it: the hart is bound as a launch binds it (DESIGN CHOICE, log entry 10) and the word,
with zeros above it, stands at the pc. -/
def State.withFetchWord (s : State) (_nbits w : Nat) : State := s.boundAt (leBytes 8 w)

end Sys2Proof.Machine
end

