-- ==== Sys2Proof/Certificates/Slice0/Obligations.lean ====
section
/-! DEFINITION. The statements for the provers, in the order of OBLIGATIONS.json, with the vocabulary they share. -/

namespace Sys2Proof.Claim

open Sys2Proof.Machine

/-- The registers of the bank that is not the hart's current one. -/
def otherBank (h : Hart) : Vector Word 32 := match h.level with
  | .app => h.sx
  | .sup => h.x

/-- From s to t an instruction of n bytes wrote v to rd (nothing, when rd is x0), moved past itself, and changed nothing else. -/
def WritesReg (s t : State) (n : Nat) (rd : XReg) (v : Word) : Prop :=
  t.rx 0 = 0 ∧ (rd ≠ 0 → t.rx rd = v) ∧ (∀ r, r ≠ rd → t.rx r = s.rx r) ∧ otherBank t.hart = otherBank s.hart ∧
  t = { s with hart := { s.hart with x := t.hart.x, sx := t.hart.sx, pc := s.hart.pc + BitVec.ofNat 64 n, run := .running, wait := none } }

/-- The instruction answers a next state in which rd holds v and nothing else has changed but the pc. -/
def Yields (i : Instr) (s : State) (n : Nat) (rd : XReg) (v : Word) : Prop := ∃ t, exec i s = .next t ∧ WritesReg s t n rd v

/-- From s to t the pc went to p and nothing else changed: the hart goes on running. -/
def Jumps (s t : State) (p : Word) : Prop := t = { s with hart := { s.hart with pc := p, run := .running, wait := none } }

/-- From s to t the hart took a trap at an instruction word with a cause code, TRAPVAL and TRAPELEM: the trap registers, the level, the vector and the argument
registers are as R174 and R358 say, a grant that a VSETVL decided is decided anew, and everything else of the package is unchanged. -/
def Traps (insn : Nat) (s t : State) (code : Nat) (val elem : Word) : Prop :=
  t.hart.level = .sup ∧ t.hart.pc = s.hart.sup.trapvec ∧ t.hart.sup.trappc = s.hart.pc ∧ t.hart.sup.trapcause = BitVec.ofNat 64 code ∧
  t.hart.sup.trapval = val ∧ t.hart.sup.trapelem = elem ∧ 
  t.hart.sup.trapstat = BitVec.ofNat 64 ((if code = 10 ∨ code = 11 then 0 else insn % 256 + 256 * funcField insn + if s.hart.csr.vstart.getLsbD 63 then 2 ^ 17 else 0) +
    if s.hart.level = .sup then 2 ^ 63 else 0) ∧
  (∀ r : XReg, t.hart.sx.get r = if s.hart.level = .app ∧ 8 ≤ r.val ∧ r.val < 16 then s.hart.x.get r else s.hart.sx.get r) ∧
  t.hart.x = s.hart.x ∧ t.hart.csr = s.hart.csr ∧ t.hart.vec = s.hart.vec ∧
  t = { s with hart := t.hart } ∧
  t.hart = { s.hart with level := t.hart.level, pc := t.hart.pc, run := .running, wait := none, sx := t.hart.sx, sup := t.hart.sup, grant := { s.hart.grant with decided := none } } ∧
  t.hart.sup = { s.hart.sup with trapcause := t.hart.sup.trapcause, trappc := t.hart.sup.trappc, trapval := t.hart.sup.trapval,
                                 trapelem := t.hart.sup.trapelem, trapstat := t.hart.sup.trapstat }

/-- The instruction raises ILLEGAL_OPERAND: the trap, with the instruction word in TRAPVAL. -/
def IllegalOperand (i : Instr) (s : State) : Prop := ∃ t, exec i s = .next t ∧ Traps (insnWord i) s t 2 (BitVec.ofNat 64 (insnWord i)) 0

/-- The instruction raises ILLEGAL_INSTRUCTION. -/
def IllegalInstruction (i : Instr) (s : State) : Prop := ∃ t, exec i s = .next t ∧ Traps (insnWord i) s t 1 (BitVec.ofNat 64 (insnWord i)) 0

/-- An instruction under a rounding mode draws the seed d, which leaves u; without stochastic rounding d is no seed and u is s. With it nothing of the hart waits to be
performed: the seed's log record comes after everything earlier. -/
def Draws (s : State) (mode : RMode) (draws : Bool) (n : Nat) (d : Seed) (u : State) : Prop :=
  s.seedFor mode draws n = .ok (d, u) ∧ (mode = .sr → s.unperformed = false)

/-- 1 for a true condition, else 0. -/
def bit (b : Bool) : Word := if b then 1 else 0

end Sys2Proof.Claim

open Sys2Proof Sys2Proof.Machine Sys2Proof.Claim

/-! ### Encoding, fetch and step -/

/-- Decode of encode is the identity: for every well-formed instruction that is no device step, every operand included, the bytes of the word it
encodes to decode to it, and so does the word as the opcode table numbers it. -/
def Sys2Proof.Claim.EveryEncodedInstructionDecodesToItself : Prop :=
  ∀ (i : Instr) (n w : Nat), i.wellFormed = true → encode i = some (n, w) →
    decodeBytes (toBytes (n / 8) w) = .ok (i, n / 8) ∧ decodeTableWord n w = some i

/-- What decodes is a well-formed instruction and no device step, 4 or 8 bytes long, and it encodes to the very bytes it was read from: no
reserved field or reserved code reaches a meaning, and no two words are one instruction. -/
def Sys2Proof.Claim.DecodedInstructionsAreWellFormedAndReencode : Prop :=
  ∀ (l : List Byte) (i : Instr) (n : Nat), decodeBytes l = .ok (i, n) →
    i.wellFormed = true ∧ i.isDeviceStep = false ∧ (n = 4 ∨ n = 8) ∧ n ≤ l.length ∧ encode i = some (8 * n, ofBytes (l.take n))

/-- Decode and encode agree: the two claims above, for every instruction and every word. -/
def Obligations.DecodeAndEncodeAgreeOnEveryInstruction : Prop := Claim.EveryEncodedInstructionDecodesToItself ∧ Claim.DecodedInstructionsAreWellFormedAndReencode

/-- Words of the manual's encoding tables decode to the instructions beside them: `addi x5, x6, -4`, `div x5, x6, x7`, `fmul.f64.rtz x5, x6, x7`,
`ld.i32 x5, [x6 + 8]`, `amo.cas.acqrel.pkg x5, [x10], x6`, `csrrs x5, fflags, x0`, `halt`, `vadd v3, v1, v2, m2`, `vsetvl x5, x8, e16`,
`mma.bf16.bf16.f32 v40, v4, v16`, `vst v2, [x10]`, `sync.scntadd x5, x6, x7` and `ifrsave x5`. -/
def Obligations.TableWordsDecodeToTheirInstructions : Prop :=
  decodeTableWord 32 0xFFF0C510 = some (.addi 5 6 0x3FFC) ∧ decodeTableWord 32 0x099CC502 = some (.div 5 6 7) ∧
  decodeTableWord 32 0x191CC506 = some (.fmul 5 6 7 true 1) ∧ decodeTableWord 32 0x0020C538 = some (.ldI32 5 6 8) ∧
  decodeTableWord 32 0x7B99454A = some (.amoCas 5 10 6 3 3) ∧ decodeTableWord 32 0x00200564 = some (.csrrs 5 0 0x008) ∧
  decodeTableWord 32 0x000C0060 = some .halt ∧ decodeTableWord 32 0x68204380 = some (.vadd 3 1 2 2 true true false) ∧
  decodeTableWord 32 0x000905F4 = some (.vsetvl 5 8 2) ∧
  decodeTableWord 64 0x0000600045012803 = some (.mma 40 4 16 1 1 0 0 false false true true 0 false) ∧
  decodeTableWord 32 0x200282FA = some (.vst 2 10 0 true) ∧ decodeTableWord 64 0x1CC561 = some (.scntadd 5 6 7 false) ∧
  decodeTableWord 32 0x00000568 = some (.ifrsave 5)

/-- At its turn a core's front end takes a ready hart of it; the hart whose turn it is keeps it, when no other hart is on its core or its own next instruction is not ready. -/
def Sys2Proof.Claim.TheFrontEndTakesAReadyHart : Prop :=
  ∀ s : State, ((∀ h ∈ s.others, h.id / 4 ≠ s.hart.id / 4) ∨ s.canIssue = false → s.arbitrate = s) ∧
    (s.arbitrate = s ∨ ∃ id h, s.hartById id = some h ∧ id / 4 = s.hart.id / 4 ∧ s.arbitrate = s.swapTo id ∧ s.arbitrate.canIssue = true)

/-- A step runs the decoded instruction. No device step is due, the hart that the core's front end takes is running, the fetch at its pc passes its checks and its
gate, and the bytes there decode to i. With nothing outstanding and i not one that passes vector decode, the step is exec of i and then the end of the turn. With work outstanding
that i must wait for, i waits. Otherwise the step is exec of i, except that an instruction that would leave application level waits for what is before it, and that one that
passes vector decode enters the windows of its core, or waits for room there. The requests of an instruction that goes on wait where its core enters the mesh. At the end of a turn a hart that has issued is the last of its core, and the next hart's turn comes. -/
def Obligations.StepRunsTheDecodedInstruction : Prop := Claim.TheFrontEndTakesAReadyHart ∧
  (∀ (s0 : State) (p : Place) (i : Instr) (n : Nat), let s := s0.arbitrate
    s0.agenda = [] → s.hart.bound = true → s.hart.run = .running →
    s.probe s.hart.pc 4 4 .fetch = .ok p → s.gate p = .opened → decodeBytes (s.codeBytes p.loc) = .ok (i, n) →
    (s.quiet = true → s.decodes i = none → step s0 = mapNext (fun t => s.endTurn (s.sendsFlits i t)) (exec i s)) ∧
    (s.quiet = false ∨ s.decodes i ≠ none → s.interlocked i = true → step s0 = .next (s.endTurn (s.waits i))) ∧
    (s.quiet = false → s.decodes i = none → s.interlocked i = false → ∀ t, exec i s = .next t →
      step s0 = .next (s.endTurn (s.sendsFlits i (if s.hart.level = .app ∧ t.hart.level = .sup ∧ s.unsettled = true then s.waits i else t)))) ∧
    (∀ q, s.decodes i = some q → s.interlocked i = false →
      (s.decodeRoom q = false → step s0 = .next (s.endTurn (s.waits i))) ∧
      (s.decodeRoom q = true → ∀ t, exec i s = .next t → t.hart.level = s.hart.level → t.hart.bound = true → t.hart.csr.vl = s.hart.csr.vl → t.hart.run = .running →
        ∃ u w, step s0 = .next (s.endTurn u) ∧ w.insn = i ∧ w.hart = s.hart.id ∧ w.pipe = q ∧ w.before = s.hart ∧ u.mem = t.mem ∧ u.accesses = t.accesses ∧
          u.hart = { t.hart with csr := { t.hart.csr with fflags := u.hart.csr.fflags } } ∧ (s.core (dieOf s.hart.id) (coreOf s.hart.id) = t.core (dieOf s.hart.id) (coreOf s.hart.id) →
            u.windows s.hart.id = s.windows s.hart.id ++ [w])))) ∧
  (∀ s t : State, (t.hart.id = s.hart.id ∧ t.hart.run = .waiting → s.endTurn t = t.rotate) ∧ (t.hart.id ≠ s.hart.id ∨ t.hart.run ≠ .waiting →
    s.endTurn t = (t.updCore (dieOf s.hart.id) (coreOf s.hart.id) fun c => { c with last := hartOf s.hart.id }).rotate)) ∧
  (∀ (s t : State) (i : Instr), (t.hart.id = s.hart.id → t.hart.run = .waiting → s.sendsFlits i t = t) ∧
    (t.hart.id ≠ s.hart.id ∨ t.hart.run ≠ .waiting → let l := s.requestsOf i (t.hart.level != s.hart.level)
      s.sendsFlits i t = if l = [] then t else (t.updNoc (dieOf s.hart.id) fun n => { n with waiting := n.waiting ++ l.map fun p => (0, p) }).dueOnce .meshTick))

/-- A step whose turn finds a due device step runs that step and takes it off the agenda; a waiting hart is tried again at its next turn, and a
hart whose instruction is under way in another agent, or that is not bound, gives up its turn. -/
def Sys2Proof.Claim.StepTakesDueStepsAndSkipsWaitingHarts : Prop :=
  (∀ (s : State) (d : Due) (rest : List Due), s.agenda = d :: rest → step s = d.run { s with agenda := rest }) ∧
  (∀ s : State, s.agenda = [] → s.hart.bound = true → s.hart.run = .waiting →
    ∃ t, step s = .next t.rotate ∧ t = { s with hart := { s.hart with run := .running }, agenda := s.waitDues }) ∧
  (∀ s : State, s.agenda = [] → s.hart.bound = true → s.hart.run = .blocked → step s = .next s.rotate) ∧
  (∀ s : State, s.agenda = [] → s.hart.bound = false → step s = .next s.rotate)

/-- A fetch that fails a check, and bytes that decode to nothing, trap: the first with the fetch's cause and the pc in TRAPVAL, the second with
ILLEGAL_INSTRUCTION and the word in TRAPVAL. An application hart has nothing outstanding then: with work outstanding it waits first. -/
def Sys2Proof.Claim.FailedFetchesAndReservedWordsTrap : Prop :=
  ∀ s0 : State, let s := s0.arbitrate
    s0.agenda = [] → s.hart.bound = true → s.hart.run = .running →
    ((∃ c, s.probe s.hart.pc 4 4 .fetch = .error c) → s.hart.level = .app → s.unsettled = true → step s0 = .next (s.endTurn { s with hart := { s.hart with run := .waiting, wait := none } })) ∧
    ((s.hart.level = .app → s.unsettled = false) →
    (∀ c, s.probe s.hart.pc 4 4 .fetch = .error c → ∃ t, step s0 = .next (s.endTurn t) ∧ Traps 0 s t c.code s.hart.pc 0) ∧
    (∀ p e, s.probe s.hart.pc 4 4 .fetch = .ok p → s.gate p = .opened → decodeBytes (s.codeBytes p.loc) = .error e →
      ∃ t, step s0 = .next (s.endTurn t) ∧ Traps (leNat (s.codeBytes p.loc)) s t 1 (BitVec.ofNat 64 (leNat (s.codeBytes p.loc))) 0))

/-- The steps at which no instruction runs: due device steps, waiting and unbound harts, failed fetches and reserved words. -/
def Obligations.StepsThatRunNoInstruction : Prop := Claim.StepTakesDueStepsAndSkipsWaitingHarts ∧ Claim.FailedFetchesAndReservedWordsTrap

/-- Every step keeps memory in its canonical form: addresses strictly rising and no byte listed that equals what an unlisted address reads, so
that equal memories are equal data. -/
def Obligations.EveryStepKeepsMemoryCanonical : Prop :=
  ∀ s t : State, Memory.wf s.mem = true → step s = .next t → Memory.wf t.mem = true

/-- What the package holds right after a cold reset: no hart is bound, every byte of memory reads zero and the fill starts at line 0, every
queue is closed, every LANEPOL of a hart has DEADLINE 200 and GROW 1, the Trivet, the contexts and the replica table are zero, and memory is canonical. -/
def Obligations.ResetStateIsAsTheManualGivesIt : Prop :=
  Memory.wf State.reset.mem = true ∧ (∀ a, Memory.byte State.reset.mem a = 0) ∧ State.reset.mgmt.fillptr = 0 ∧ State.reset.mgmt.fill = true ∧
  State.reset.hart.bound = false ∧ State.reset.others = [] ∧ (∀ r : XReg, State.reset.rx r = 0) ∧
  State.reset.hart.sup.deadline = 200 ∧ State.reset.hart.sup.grow = true ∧
  (∀ q : Fin 64, (State.reset.launch.queues.get q).opened = false ∧ (State.reset.launch.queues.get q).recs = []) ∧
  (∀ k, State.reset.counter k = 0 ∧ State.reset.sem k = ⟨0, []⟩ ∧ State.reset.barrier k = ⟨0, 0, 0, false, []⟩ ∧ State.reset.cell k = ⟨0, 0, 0, 0, []⟩) ∧ State.reset.ladle.table = [] ∧
  State.reset.launch.ctxs = [] ∧
  (∀ d : Fin 8, (State.reset.dies.get d).noc.nocarb = 0x400214 ∧ (State.reset.dies.get d).power.cap = 280) ∧ State.reset.mgmt.fabtmo = 10000

/-! ### Numbers -/

namespace Sys2Proof.Claim

/-- The number that a value stands for; 0 for an infinity or a NaN. -/
def amount : Machine.Num → Rat
  | .fin neg m e _ => (if neg then -1 else 1) * (m : Rat) * (2 : Rat) ^ e
  | _ => 0

/-- A value is a number, known exactly. -/
def exactly : Machine.Num → Bool
  | .fin _ _ _ sticky => !sticky
  | _ => false

/-- A row of Table 2.1: a type code, exponent and fraction bits, the bias, and the codes of the largest finite value and of the canonical NaN (Table 2.3; 0 where there is none). -/
structure FloatRow where
  t : Nat
  e : Nat
  m : Nat
  bias : Nat
  max : Nat
  nan : Nat
  deriving DecidableEq, Repr

/-- Table 2.1: F64, F32, BF16, F16, E5M2, E4M3, E3M2, E2M3 and E2M1. -/
def floatRows : List FloatRow :=
  [⟨14, 11, 52, 1023, 0x7FEFFFFFFFFFFFFF, 0x7FF8000000000000⟩, ⟨0, 8, 23, 127, 0x7F7FFFFF, 0x7FC00000⟩, ⟨1, 8, 7, 127, 0x7F7F, 0x7FC0⟩, ⟨2, 5, 10, 15, 0x7BFF, 0x7E00⟩,
    ⟨4, 5, 2, 15, 0x7B, 0x7E⟩, ⟨3, 4, 3, 7, 0x7E, 0x7F⟩, ⟨5, 3, 2, 3, 0x1F, 0⟩, ⟨6, 2, 3, 1, 0x1F, 0⟩, ⟨7, 2, 1, 1, 7, 0⟩]

/-- Table 2.4: the integer types with their least and greatest values, and the codes of MXI8 elements. -/
def intRows : List (Nat × Int × Int) :=
  [(12, -8, 7), (8, -128, 127), (9, 0, 255), (10, -32768, 32767), (18, 0, 65535), (11, -2 ^ 31, 2 ^ 31 - 1), (19, 0, 2 ^ 32 - 1), (16, -2 ^ 63, 2 ^ 63 - 1), (17, 0, 2 ^ 64 - 1)]

/-- The value of a row's largest finite code, and the one below it. -/
def FloatRow.largest (r : FloatRow) : Rat := amount (toNum r.t r.max)

/-- One unit in the last place at the largest finite value. -/
def FloatRow.lastUnit (r : FloatRow) : Rat := r.largest - amount (toNum r.t (r.max - 1))

/-- The square of the distance of two numbers. -/
def apart (y q : Rat) : Rat := (y - q) * (y - q)

/-- A number of magnitude between n and n + 1 units of 2^l, with f the first 16 bits of the fraction beyond them (R60). -/
def Discards (q : Rat) (n : Nat) (l : Int) (f : Nat) : Prop :=
  let u : Rat := (2 : Rat) ^ l / 65536
  f < 65536 ∧ ((65536 * n + f : Nat) * u) * ((65536 * n + f : Nat) * u) ≤ q * q ∧ q * q < ((65536 * n + f + 1 : Nat) * u) * ((65536 * n + f + 1 : Nat) * u)

/-- The code c holds the finite number to which a mode rounds q in a format (Table 2.5, R60): no code of the format holds one that suits the mode better. -/
def RoundsTo (r : FloatRow) (mode : RMode) (rnd : Nat) (q : Rat) (c : Nat) : Prop :=
  let y := amount (toNum r.t c)
  let held := fun z : Rat => ∃ k, k < 2 ^ tyBits r.t ∧ exactly (toNum r.t k) = true ∧ amount (toNum r.t k) = z
  c < 2 ^ tyBits r.t ∧ exactly (toNum r.t c) = true ∧ 0 ≤ y * q ∧
  match mode with
  | .rtz => y * y ≤ q * q ∧ ∀ z, held z → 0 ≤ z * q → z * z ≤ q * q → z * z ≤ y * y
  | .rdn => y ≤ q ∧ ∀ z, held z → z ≤ q → z ≤ y
  | .rup => q ≤ y ∧ ∀ z, held z → q ≤ z → y ≤ z
  | .rne => ∀ z, held z → apart y q ≤ apart z q ∧ (apart z q = apart y q → z ≠ y → c % 2 = 0)
  | .rna => ∀ z, held z → apart y q ≤ apart z q ∧ (apart z q = apart y q → z * z ≤ y * y)
  | .sr => ∃ (n f : Nat) (l : Int), Discards q n l f ∧ 1 - (r.bias : Int) - r.m ≤ l ∧ n < 2 ^ (r.m + 1) ∧ (2 ^ r.m ≤ n ∨ l = 1 - (r.bias : Int) - r.m) ∧
      y * y = (((if 65536 ≤ f + rnd then n + 1 else n : Nat) : Rat) * (2 : Rat) ^ l) * (((if 65536 ≤ f + rnd then n + 1 else n : Nat) : Rat) * (2 : Rat) ^ l)

/-- The integer k to which a mode rounds q. -/
def RoundsToInt (mode : RMode) (rnd : Nat) (q : Rat) (k : Int) : Prop :=
  0 ≤ (k : Rat) * q ∧
  match mode with
  | .rtz => (k : Rat) * k ≤ q * q ∧ ∀ z : Int, 0 ≤ (z : Rat) * q → (z : Rat) * z ≤ q * q → z * z ≤ k * k
  | .rdn => (k : Rat) ≤ q ∧ q < k + 1
  | .rup => q ≤ (k : Rat) ∧ (k : Rat) - 1 < q
  | .rne => ∀ z : Int, apart k q ≤ apart z q ∧ (apart z q = apart k q → z ≠ k → k % 2 = 0)
  | .rna => ∀ z : Int, apart k q ≤ apart z q ∧ (apart z q = apart k q → z * z ≤ k * k)
  | .sr => ∃ n f : Nat, Discards q n 0 f ∧ k.natAbs = if 65536 ≤ f + rnd then n + 1 else n

end Sys2Proof.Claim

/-- What a code stands for. Floating point with sign S, exponent e and fraction m: (-1)^S × 2^(1-B) × m/2^M for e = 0, and for other e (-1)^S × 2^(e-B) × (1 + m/2^M), but in F64, F32, BF16, F16
and E5M2 the highest e is an infinity for m = 0 and a NaN otherwise, and in E4M3 e = 15 with m = 7 is a NaN. E8M0 code e is 2^(e-127), 255 a NaN: it has no sign, no zero and no infinity. An MXI8
code q is an I8 value times 2^-6, and every code is valid. -/
def Obligations.CodesStandForTheirValues : Prop :=
  (∀ r ∈ floatRows, ∀ (sign : Bool) (e m : Nat), e < 2 ^ r.e → m < 2 ^ r.m →
    let x := toNum r.t ((if sign then 2 ^ (r.e + r.m) else 0) + e * 2 ^ r.m + m); let sg : Rat := if sign then -1 else 1; let ieee := r.t ∈ [0, 1, 2, 4, 14]
    (e = 0 → exactly x = true ∧ x.neg? = sign ∧ amount x = sg * (2 : Rat) ^ (1 - (r.bias : Int)) * ((m : Rat) / (2 : Rat) ^ r.m)) ∧
    (0 < e → ¬ (ieee ∧ e = 2 ^ r.e - 1) → ¬ (r.t = 3 ∧ e = 15 ∧ m = 7) →
      exactly x = true ∧ x.neg? = sign ∧ amount x = sg * (2 : Rat) ^ ((e : Int) - r.bias) * (1 + (m : Rat) / (2 : Rat) ^ r.m)) ∧
    (ieee → e = 2 ^ r.e - 1 → x = if m = 0 then .inf sign else .nan) ∧ (r.t = 3 → e = 15 → m = 7 → x = .nan)) ∧
  (∀ e, e < 255 → exactly (toNum 13 e) = true ∧ amount (toNum 13 e) = (2 : Rat) ^ ((e : Int) - 127)) ∧ toNum 13 255 = .nan ∧
  (∀ q, q < 256 → exactly (toNum 15 q) = true ∧ amount (toNum 15 q) = (((if 128 ≤ q then (q : Int) - 256 else q) : Int) : Rat) / 64)

/-- Rounding. A number within a format's range is delivered, under every mode and in every format, as the number of the format that the mode names, with its sign: NX exactly when that differs from it, UF only
with NX below the smallest normal value and always in its lower half, and no other flag. -/
def Sys2Proof.Claim.NumbersRoundOnceByTheirMode : Prop :=
  ∀ r ∈ floatRows, ∀ (mode : RMode) (rnd : Nat) (sat : Bool) (x : Machine.Num), rnd < 65536 → exactly x = true →
    let q := amount x; let v := (fpFormat r.t).round mode sat false rnd x; let y := amount (toNum r.t v.code); let normal : Rat := (2 : Rat) ^ (1 - (r.bias : Int))
    q * q ≤ r.largest * r.largest → RoundsTo r mode rnd q v.code ∧ (toNum r.t v.code).neg? = x.neg? ∧ (v.flags &&& fNX ≠ 0 ↔ y ≠ q) ∧
      v.flags &&& ~~~(fNX ||| fUF) = 0 ∧ (v.flags &&& fUF ≠ 0 → y ≠ q ∧ q * q < normal * normal) ∧ (y ≠ q → 4 * q * q ≤ normal * normal → v.flags &&& fUF ≠ 0)

/-- Table 2.6: a number a unit or more beyond the largest, an infinity and a NaN are delivered as the destination says, with its flags. -/
def Sys2Proof.Claim.OverflowsAndSpecialsAreDelivered : Prop :=
  ∀ r ∈ floatRows, ∀ (mode : RMode) (rnd : Nat) (sat : Bool), let f := fun x => (fpFormat r.t).round mode sat false rnd x
    let sg := fun neg : Bool => if neg then 2 ^ (r.e + r.m) else 0; let ieee := r.t ∈ [0, 1, 2, 4, 14]
    (∀ x, exactly x = true → (r.largest + r.lastUnit) * (r.largest + r.lastUnit) ≤ amount x * amount x → let neg := x.neg?
      (ieee → sat = false → f x = ⟨sg neg + (if mode = .rtz ∨ (mode = .rdn ∧ neg = false) ∨ (mode = .rup ∧ neg = true) then r.max else r.max + 1), fOF ||| fNX⟩) ∧
      (r.t = 3 → sat = false → f x = ⟨r.nan, fOF ||| fNX⟩) ∧ (sat = true ∨ r.t ∈ [5, 6, 7] → f x = ⟨sg neg + r.max, fSAT ||| fNX⟩)) ∧
    (∀ neg, (ieee → sat = false → f (.inf neg) = ⟨sg neg + r.max + 1, 0⟩) ∧ (r.t = 3 → sat = false → f (.inf neg) = ⟨r.nan, fNV⟩) ∧
      (sat = true ∨ r.t ∈ [5, 6, 7] → f (.inf neg) = ⟨sg neg + r.max, fSAT⟩)) ∧
    f .nan = if r.t ∈ [5, 6, 7] then ⟨0, fNV⟩ else ⟨r.nan, 0⟩

/-- Conversions to integers and to E8M0. A number becomes the integer that the mode rounds it to, clamped to the type's range: SAT exactly when it is clamped, NX exactly when the source is floating point and the
result differs; an infinity is clamped, a NaN gives 0 with NV. An MXI8 code is that of 64 times the number. E8M0 takes the floor of the exponent, clamped with SAT; 0 gives 0 with SAT, an infinity or
NaN 255 with NV. -/
def Sys2Proof.Claim.ConversionsToIntegersClamp : Prop :=
  (∀ p ∈ (15, -128, 127) :: intRows, ∀ (mode : RMode) (rnd : Nat) (sat fp : Bool), rnd < 65536 → let f := fun x => deliver p.1 mode sat fp rnd x
    (∀ x, exactly x = true → let q : Rat := amount x * if p.1 = 15 then 64 else 1; let v := intOf p.1 (f x).code
      ∃ k, RoundsToInt mode rnd q k ∧ v = max p.2.1 (min p.2.2 k) ∧ ((f x).flags &&& fSAT ≠ 0 ↔ v ≠ k) ∧ ((f x).flags &&& fNX ≠ 0 ↔ fp = true ∧ (v : Rat) ≠ q) ∧
        (f x).flags &&& ~~~(fSAT ||| fNX) = 0) ∧
    (∀ neg, intOf p.1 (f (.inf neg)).code = (if neg then p.2.1 else p.2.2) ∧ (f (.inf neg)).flags = fSAT) ∧ f .nan = ⟨0, fNV⟩) ∧
  (∀ (mode : RMode) (rnd : Nat) (sat fp : Bool), let f := fun x => deliver 13 mode sat fp rnd x
    (∀ x, exactly x = true → let a := amount x * amount x; let p := fun k : Int => (2 : Rat) ^ k * (2 : Rat) ^ k
      (a = 0 → f x = ⟨0, fSAT⟩) ∧ (a < p (-127) → f x = ⟨0, fSAT⟩) ∧ (p 128 ≤ a → f x = ⟨254, fSAT⟩) ∧
      (∀ e : Nat, e < 255 → p ((e : Int) - 127) ≤ a → a < p ((e : Int) - 126) → f x = ⟨e, 0⟩)) ∧
    (∀ neg, f (.inf neg) = ⟨255, fNV⟩) ∧ f .nan = ⟨255, fNV⟩)

/-- Every rounding and conversion delivers what its mode and destination say. -/
def Obligations.RoundingFollowsItsMode : Prop := Claim.NumbersRoundOnceByTheirMode ∧ Claim.OverflowsAndSpecialsAreDelivered ∧ Claim.ConversionsToIntegersClamp

/-- Sums, differences, products, quotients, fused results and square roots of finite operands, within the range of the type, are the exact result rounded once by the mode; a zero sum of operands of
opposite sign is +0, -0 under RDN. -/
def Sys2Proof.Claim.ResultsAreExactBeforeTheyRound : Prop :=
  ∀ r ∈ floatRows, ∀ (mode : RMode) (rnd a b c : Nat), rnd < 65536 → let n := toNum r.t; let x := amount (n a); let y := amount (n b); let z := amount (n c)
    let inside := fun q : Rat => q * q ≤ r.largest * r.largest
    exactly (n a) = true → exactly (n b) = true → exactly (n c) = true →
    (inside (x + y) → RoundsTo r mode rnd (x + y) (arithRes r.t 0 mode rnd a b).code) ∧ (inside (x - y) → RoundsTo r mode rnd (x - y) (arithRes r.t 1 mode rnd a b).code) ∧
    (inside (x * y) → RoundsTo r mode rnd (x * y) (arithRes r.t 2 mode rnd a b).code) ∧ (y ≠ 0 → inside (x / y) → RoundsTo r mode rnd (x / y) (arithRes r.t 3 mode rnd a b).code) ∧
    (inside (x * y + z) → RoundsTo r mode rnd (x * y + z) (fmaRes r.t mode rnd (n a) (n b) (n c)).code) ∧
    (x + y = 0 → (n a).neg? ≠ (n b).neg? → (n (arithRes r.t 0 mode rnd a b).code).neg? = decide (mode = .rdn)) ∧
    (0 ≤ x → let w := amount (n (sqrtRes r.t mode rnd a).code); 0 ≤ w ∧ ∀ k, k < 2 ^ tyBits r.t → exactly (n k) = true → let v := amount (n k); 0 ≤ v →
      (mode = .rtz ∨ mode = .rdn → w * w ≤ x ∧ (v * v ≤ x → v ≤ w)) ∧ (mode = .rup → x ≤ w * w ∧ (x ≤ v * v → w ≤ v)) ∧
      (mode = .rne ∨ mode = .rna → (w < v → 4 * x ≤ (w + v) * (w + v)) ∧ (v < w → (w + v) * (w + v) ≤ 4 * x)))

/-- Invalid operations (∞ - ∞, 0 × ∞, 0/0, ∞/∞, the root of a number below -0) give the canonical NaN and NV, 0 × ∞ in a fused form even when c is NaN; a NaN operand alone gives the canonical NaN and no flag;
a finite number other than 0 divided by ±0 gives an infinity and DZ; √-0 is -0. -/
def Sys2Proof.Claim.InvalidOperationsGiveNan : Prop :=
  ∀ r ∈ floatRows, r.t ∈ [0, 1, 2, 14] → ∀ (mode : RMode) (rnd a b c : Nat), let n := toNum r.t; let bad : Res := ⟨r.nan, fNV⟩; let quiet : Res := ⟨r.nan, 0⟩
    let zero := fun k : Nat => exactly (n k) = true ∧ amount (n k) = 0; let op := fun k => arithRes r.t k mode rnd a b
    (n a = .nan ∨ n b = .nan → op 0 = quiet ∧ op 1 = quiet ∧ op 2 = quiet ∧ op 3 = quiet) ∧ (n a = .nan → sqrtRes r.t mode rnd a = quiet) ∧
    (∀ p q, n a = .inf p → n b = .inf q → (p ≠ q → op 0 = bad) ∧ (p = q → op 1 = bad) ∧ op 3 = bad) ∧
    (∀ p, n a = .inf p → zero b → op 2 = bad ∧ fmaRes r.t mode rnd (n a) (n b) (n c) = bad) ∧ (zero a → zero b → op 3 = bad) ∧
    (exactly (n a) = true → amount (n a) ≠ 0 → zero b → op 3 = ⟨(if (n a).neg? = (n b).neg? then 0 else 2 ^ (r.e + r.m)) + r.max + 1, fDZ⟩) ∧
    (exactly (n a) = true → amount (n a) < 0 → sqrtRes r.t mode rnd a = bad) ∧ (sqrtRes r.t mode rnd (2 ^ (r.e + r.m))).code = 2 ^ (r.e + r.m)

/-- Arithmetic forms its exact result and rounds it once; invalid operations give NaN. -/
def Obligations.ArithmeticIsExactBeforeItRounds : Prop := Claim.ResultsAreExactBeforeTheyRound ∧ Claim.InvalidOperationsGiveNan

/-! ### Scalar instructions -/

/-- The S3 functions compute their results from a = rs1 and b = rs2, with n = b[5:0] the shift and rotate count: rd holds the result (x0 stays
zero), the pc moves past the instruction, and nothing else changes: no flag, no register of either bank, no byte of memory. -/
def Sys2Proof.Claim.RegisterArithmeticGivesItsResults : Prop :=
  ∀ (s : State) (rd rs1 rs2 : XReg), let a := s.rx rs1; let b := s.rx rs2; let n := b.toNat % 64
    ∀ p ∈ [(Instr.add rd rs1 rs2, a + b), (.sub rd rs1 rs2, a - b), (.and rd rs1 rs2, a &&& b), (.or rd rs1 rs2, a ||| b), (.xor rd rs1 rs2, a ^^^ b),
        (.sll rd rs1 rs2, a <<< n), (.srl rd rs1 rs2, a >>> n), (.sra rd rs1 rs2, a.sshiftRight n),
        (.rotl rd rs1 rs2, (a <<< n) ||| (a >>> (64 - n))), (.rotr rd rs1 rs2, (a >>> n) ||| (a <<< (64 - n))),
        (.slt rd rs1 rs2, bit (decide (a.toInt < b.toInt))), (.sltn rd rs1 rs2, bit (decide (a.toNat < b.toNat))),
        (.min rd rs1 rs2, if a.toInt ≤ b.toInt then a else b), (.max rd rs1 rs2, if a.toInt ≤ b.toInt then b else a),
        (.minn rd rs1 rs2, if a.toNat ≤ b.toNat then a else b), (.maxn rd rs1 rs2, if a.toNat ≤ b.toNat then b else a),
        (.mul rd rs1 rs2, BitVec.ofNat 64 (a.toNat * b.toNat)), (.mulh rd rs1 rs2, BitVec.ofInt 64 ((a.toInt * b.toInt) / 2 ^ 64)),
        (.mulhn rd rs1 rs2, BitVec.ofNat 64 (a.toNat * b.toNat / 2 ^ 64))],
      Yields p.1 s 4 rd p.2

/-- Division: the quotient is rounded toward zero and the remainder is a - b × quotient, so a nonzero one has the sign of a. A divisor of zero
gives all ones and a; the minimum by -1 gives the minimum and 0. No case traps, and nothing but rd and the pc changes. -/
def Sys2Proof.Claim.DivisionRoundsTowardZeroAndNeverTraps : Prop :=
  ∀ (s : State) (rd rs1 rs2 : XReg), let a := s.rx rs1; let b := s.rx rs2
    Yields (.div rd rs1 rs2) s 4 rd (if b = 0 then BitVec.allOnes 64 else BitVec.ofInt 64 (Int.tdiv a.toInt b.toInt)) ∧
    Yields (.rem rd rs1 rs2) s 4 rd (if b = 0 then a else BitVec.ofInt 64 (a.toInt - b.toInt * Int.tdiv a.toInt b.toInt)) ∧
    Yields (.divn rd rs1 rs2) s 4 rd (if b = 0 then BitVec.allOnes 64 else BitVec.ofNat 64 (a.toNat / b.toNat)) ∧
    Yields (.remn rd rs1 rs2) s 4 rd (if b = 0 then a else BitVec.ofNat 64 (a.toNat - b.toNat * (a.toNat / b.toNat)))

/-- The edge cases of division: a zero divisor gives all ones and a, and -2^63 by -1 gives -2^63 with remainder 0; none of them traps. -/
def Sys2Proof.Claim.DivisionEdgeCases : Prop :=
  ∀ (s : State) (rd rs1 rs2 : XReg),
    (s.rx rs2 = 0 → Yields (.div rd rs1 rs2) s 4 rd 0xFFFFFFFFFFFFFFFF ∧ Yields (.divn rd rs1 rs2) s 4 rd 0xFFFFFFFFFFFFFFFF ∧
      Yields (.rem rd rs1 rs2) s 4 rd (s.rx rs1) ∧ Yields (.remn rd rs1 rs2) s 4 rd (s.rx rs1)) ∧
    (s.rx rs1 = 0x8000000000000000 → s.rx rs2 = 0xFFFFFFFFFFFFFFFF →
      Yields (.div rd rs1 rs2) s 4 rd 0x8000000000000000 ∧ Yields (.rem rd rs1 rs2) s 4 rd 0) ∧
    (∀ p ∈ [Instr.div rd rs1 rs2, .divn rd rs1 rs2, .rem rd rs1 rs2, .remn rd rs1 rs2], ∃ v, Yields p s 4 rd v)

/-- Division and its edge cases. -/
def Obligations.DivisionsRoundTowardZeroAndNeverTrap : Prop := Claim.DivisionRoundsTowardZeroAndNeverTraps ∧ Claim.DivisionEdgeCases

/-- The width operations read x = rs1[w-1:0] for w = 8, 16, 32 or 64 (ew 1 to 4): CLZ and CTZ count the zeros above the highest and below the
lowest set bit, w for zero; POPC counts the set bits; SEXT and ZEXT extend x. ew 0 raises ILLEGAL_OPERAND. Nothing but rd and the pc changes. -/
def Sys2Proof.Claim.WidthOperationsReadTheLowBits : Prop :=
  ∀ (s : State) (rd rs1 : XReg) (ew : BitVec 3),
    (1 ≤ ew.toNat → ew.toNat ≤ 4 → let w : Nat := 4 * 2 ^ ew.toNat; let x : Nat := (s.rx rs1).toNat % 2 ^ w
      (∃ n, Yields (.clz rd rs1 ew) s 4 rd (BitVec.ofNat 64 n) ∧ n ≤ w ∧ x < 2 ^ (w - n) ∧ (n < w → 2 ^ (w - n - 1) ≤ x)) ∧
      (∃ n, Yields (.ctz rd rs1 ew) s 4 rd (BitVec.ofNat 64 n) ∧ n ≤ w ∧ x % 2 ^ n = 0 ∧ (n < w → x / 2 ^ n % 2 = 1)) ∧
      Yields (.popc rd rs1 ew) s 4 rd (BitVec.ofNat 64 ((List.range w).filter fun i => x.testBit i).length) ∧
      Yields (.sext rd rs1 ew) s 4 rd (BitVec.ofInt 64 (if 2 ^ (w - 1) ≤ x then (x : Int) - 2 ^ w else x)) ∧
      Yields (.zext rd rs1 ew) s 4 rd (BitVec.ofNat 64 x)) ∧
    (∀ i ∈ [Instr.clz rd rs1 0, .ctz rd rs1 0, .popc rd rs1 0, .sext rd rs1 0, .zext rd rs1 0], IllegalOperand i s)

/-- The immediate forms combine rs1 with the sign-extended immediate, or shift by the unsigned one; LIH and ADDPC form rd from the upper
immediate and, for ADDPC, the instruction's own pc. Nothing but rd and the pc changes. -/
def Sys2Proof.Claim.ImmediateFormsGiveTheirResults : Prop :=
  ∀ (s : State) (rd rs1 : XReg) (imm : BitVec 14) (sh : BitVec 6) (up : BitVec 19), let a := s.rx rs1; let c : Word := BitVec.ofInt 64 imm.toInt
    ∀ p ∈ [(Instr.addi rd rs1 imm, a + c), (.andi rd rs1 imm, a &&& c), (.ori rd rs1 imm, a ||| c), (.xori rd rs1 imm, a ^^^ c),
        (.slti rd rs1 imm, bit (decide (a.toInt < imm.toInt))), (.slli rd rs1 sh, a <<< sh.toNat), (.srli rd rs1 sh, a >>> sh.toNat),
        (.srai rd rs1 sh, a.sshiftRight sh.toNat), (.lih rd up, BitVec.ofInt 64 (up.toInt * 2 ^ 14)),
        (.addpc rd up, s.hart.pc + BitVec.ofInt 64 (up.toInt * 2 ^ 14))],
      Yields p.1 s 4 rd p.2

/-- The register, immediate and width forms of scalar integer arithmetic. -/
def Obligations.ScalarIntegerFormsGiveTheirResults : Prop := Claim.RegisterArithmeticGivesItsResults ∧ Claim.ImmediateFormsGiveTheirResults ∧ Claim.WidthOperationsReadTheLowBits

/-- A branch whose condition on rs1 and rs2 holds goes to pc + 4 × off14, sign-extended; otherwise to pc + 4. Nothing else changes. -/
def Sys2Proof.Claim.BranchesGoWhereTheirConditionSays : Prop :=
  ∀ (s : State) (rs1 rs2 : XReg) (off : BitVec 14), let a := s.rx rs1; let b := s.rx rs2
    ∀ p ∈ [(Instr.beq rs1 rs2 off, decide (a = b)), (.bne rs1 rs2 off, decide (a ≠ b)), (.blt rs1 rs2 off, decide (a.toInt < b.toInt)),
        (.bge rs1 rs2 off, decide (b.toInt ≤ a.toInt)), (.bltn rs1 rs2 off, decide (a.toNat < b.toNat)), (.bgen rs1 rs2 off, decide (b.toNat ≤ a.toNat))],
      ∃ t, exec p.1 s = .next t ∧ Jumps s t (if p.2 then s.hart.pc + BitVec.ofInt 64 (4 * off.toInt) else s.hart.pc + 4)

/-- JAL writes pc + 4 to rd and goes to pc + 4 × off19. JALR forms its target t from rs1 as it was before: with t[1:0] = 0 it writes pc + 4 to rd
and goes to t; otherwise it raises MISALIGNED as a fetch, with t in TRAPVAL, and writes no register. -/
def Sys2Proof.Claim.JumpsLinkAndTrapOnMisalignedTargets : Prop :=
  (∀ (s : State) (rd : XReg) (off : BitVec 19), ∃ t u, exec (.jal rd off) s = .next t ∧ WritesReg s u 4 rd (s.hart.pc + 4) ∧
    Jumps u t (s.hart.pc + BitVec.ofInt 64 (4 * off.toInt))) ∧
  (∀ (s : State) (rd rs1 : XReg) (imm : BitVec 14), let a := s.rx rs1 + BitVec.ofInt 64 imm.toInt
    (a.toNat % 4 = 0 → ∃ t u, exec (.jalr rd rs1 imm) s = .next t ∧ WritesReg s u 4 rd (s.hart.pc + 4) ∧ Jumps u t a) ∧
    (a.toNat % 4 ≠ 0 → ∃ t, exec (.jalr rd rs1 imm) s = .next t ∧ Traps (insnWord (.jalr rd rs1 imm)) s t (3 + 256 * 2) a 0))

/-- Branches and jumps. -/
def Obligations.BranchesAndJumpsGoToTheirTargets : Prop := Claim.BranchesGoWhereTheirConditionSays ∧ Claim.JumpsLinkAndTrapOnMisalignedTargets

/-- Scalar floating point. A rounding form reads its operands as values of F32 or F64 (an F32 source reads only the low 32 bits), computes the
exact sum, difference, product, quotient, root or fused result, rounds it once in the mode that rnd (or FRM) names, writes the code zero-extended
and ORs the exceptions into FFLAGS. `Draws` gives the seed d and the state u that has drawn it (the same state unless the mode is SR).
Nothing else changes. -/
def Sys2Proof.Claim.ScalarFloatsRoundOnceAndAccumulateFlags : Prop :=
  ∀ (s u : State) (d : Seed) (rd rs1 rs2 rs3 : XReg) (fmt : Bool) (rnd : BitVec 3), let ty := if fmt then 14 else 0; let w := if fmt then 64 else 32
    let mode := s.modeOf rnd; let src := fun r => (s.rx r).toNat % 2 ^ w
    Draws s mode true 1 d u →
    ∀ p ∈ [(Instr.fadd rd rs1 rs2 fmt rnd, arithRes ty 0 mode (d.rnd16 0) (src rs1) (src rs2)),
        (.fsub rd rs1 rs2 fmt rnd, arithRes ty 1 mode (d.rnd16 0) (src rs1) (src rs2)),
        (.fmul rd rs1 rs2 fmt rnd, arithRes ty 2 mode (d.rnd16 0) (src rs1) (src rs2)),
        (.fdiv rd rs1 rs2 fmt rnd, arithRes ty 3 mode (d.rnd16 0) (src rs1) (src rs2)),
        (.fsqrt rd rs1 fmt rnd, sqrtRes ty mode (d.rnd16 0) (src rs1)),
        (.ffma rd rs1 rs2 rs3 fmt rnd, fmaRes ty mode (d.rnd16 0) (toNum ty (src rs1)) (toNum ty (src rs2)) (toNum ty (src rs3)))],
      ∃ t, exec p.1 s = .next t ∧ WritesReg (u.orFlags p.2.flags) t 4 rd (BitVec.ofNat 64 (p.2.code % 2 ^ w))

/-- FCVT converts between fmt and one of F32, F64, BF16, F16, I32, I64, N32 and N64, never fmt itself, which raises ILLEGAL_OPERAND; an I32
result is sign-extended and any other zero-extended, and the flags are ORed into FFLAGS. -/
def Sys2Proof.Claim.ScalarConversionsExtendTheirResults : Prop :=
  ∀ (s : State) (rd rs1 : XReg) (ty : BitVec 5) (fmt dir : Bool) (rnd : BitVec 3), let f := if fmt then 14 else 0
    (ty.toNat ∈ [0, 1, 2, 11, 14, 16, 17, 19] → ty.toNat ≠ f →
      let src := if dir then ty.toNat else f; let dst := if dir then f else ty.toNat; let mode := s.modeOf rnd
      ∀ d u, Draws s mode (!convExact src dst) 1 d u →
        let r := convertRes src dst mode false (d.rnd16 0) ((s.rx rs1).toNat % 2 ^ tyBits src)
        ∃ t, exec (.fcvt rd rs1 ty fmt rnd dir) s = .next t ∧ WritesReg (u.orFlags r.flags) t 4 rd
          (if dst = 11 then (BitVec.ofNat 32 r.code).signExtend 64 else BitVec.ofNat 64 (r.code % 2 ^ tyBits dst))) ∧
    ((ty.toNat ∉ [0, 1, 2, 11, 14, 16, 17, 19] ∨ ty.toNat = f) → IllegalOperand (.fcvt rd rs1 ty fmt rnd dir) s)

/-- FMIN, FMAX, FCMP and FCLASS touch no flag: the first two give the code that minimum and maximum select, FCMP 1 or 0 for the condition on the
two values, FCLASS the mask of the class. Nothing but rd and the pc changes. -/
def Sys2Proof.Claim.FloatSelectionsSetNoFlag : Prop :=
  ∀ (s : State) (rd rs1 rs2 : XReg) (fmt : Bool) (cond : BitVec 3), let ty := if fmt then 14 else 0; let w := if fmt then 64 else 32
    let a := (s.rx rs1).toNat % 2 ^ w; let b := (s.rx rs2).toNat % 2 ^ w
    Yields (.fmin rd rs1 rs2 fmt) s 4 rd (BitVec.ofNat 64 (minMaxCode ty false a b % 2 ^ w)) ∧
    Yields (.fmax rd rs1 rs2 fmt) s 4 rd (BitVec.ofNat 64 (minMaxCode ty true a b % 2 ^ w)) ∧
    Yields (.fcmp rd rs1 rs2 fmt cond) s 4 rd (bit (condNum cond.toNat (toNum ty a) (toNum ty b))) ∧
    Yields (.fclass rd rs1 fmt) s 4 rd (BitVec.ofNat 64 (classMask ty a))

/-- Scalar floating point: the rounding forms, the conversions and the selections. -/
def Obligations.ScalarFloatingPointRoundsOnce : Prop := Claim.ScalarFloatsRoundOnceAndAccumulateFlags ∧ Claim.ScalarConversionsExtendTheirResults ∧ Claim.FloatSelectionsSetNoFlag

/-! ### Traps, the system group and the control registers -/

/-- Taking a trap, at either level: the five trap registers are written, PP is the level the trap came from, application x8 to x15 are copied into
the supervisor bank only when it came from application level, the level becomes supervisor and the pc TRAPVEC. ECALL and EBREAK take one, with
causes ECALL and BREAKPOINT and the instruction's own pc in TRAPPC; the one operation by which every instruction traps does the same for any cause, value and
element; nothing else of the package changes. TRAPSTAT holds the fields of R358, its function field as log entry 21 reads it; that a trap drops the grant which a VSETVL had decided is the
model's own (log entry 51). -/
def Obligations.SystemCallsAndBreakpointsTakeTheirTrap : Prop :=
  (∀ s : State, (∃ t, exec .ecall s = .next t ∧ Traps (insnWord .ecall) s t 9 0 0) ∧ (∃ t, exec .ebreak s = .next t ∧ Traps (insnWord .ebreak) s t 8 0 0)) ∧
  (∀ (s : State) (insn : Nat) (x : Trap), Traps insn s (s.trap insn x) x.cause.code x.val x.elem)

/-- TRET, with no record to replay, no freeze under way and no frozen context of the hart to resume (log entry 42), to supervisor level or to a context that is not killed (a killed one is refused on the way to
application level alone: log entry 44): at supervisor level the level becomes PP and the pc TRAPPC; after an ECALL from application level supervisor x8
and x9 are copied into application x8 and x9; the other registers, the control registers and memory are unchanged. A pending PREEMPT or notice
becomes due on the way to application level. At application level TRET raises ILLEGAL_INSTRUCTION. -/
def Sys2Proof.Claim.TrapReturnRestoresLevelAndPc : Prop :=
  (∀ s : State, s.hart.level = .sup → s.hart.ifr = none → s.hart.freeze ≠ .begun → s.hart.freeze ≠ .settling →
    (∀ p ∈ s.parked, p.ctx = s.hart.sup.ctxid → p.issuer ≠ s.hart.tags.issuer) →
    (s.hart.sup.trapstat.getLsbD 63 = true ∨ (s.ctxEntry s.hart.sup.ctxid.toNat).killed = false) → ∃ t, exec .tret s = .next t ∧
    t.hart.level = (if s.hart.sup.trapstat.getLsbD 63 then .sup else .app) ∧ t.hart.pc = s.hart.sup.trappc ∧ t.hart.run = .running ∧
    (∀ r : XReg, t.hart.x.get r = if (r = 8 ∨ r = 9) ∧ s.hart.sup.trapstat.getLsbD 63 = false ∧ s.hart.sup.trapcause.toNat % 256 = 9
      then s.hart.sx.get r else s.hart.x.get r) ∧
    t = { s with hart := { s.hart with level := t.hart.level, pc := t.hart.pc, x := t.hart.x, run := .running, wait := none, seed := t.hart.seed }, agenda := t.agenda } ∧
    (t.hart.seed = s.hart.seed ∨ t.hart.seed = none) ∧
    (t.hart.level = .app → s.hart.preempt ≠ none → Due.preempt s.hart.id ∈ t.agenda) ∧
    (t.hart.level = .app → s.launch.notices ≠ [] → Due.noticeDelivery ∈ t.agenda)) ∧
  (∀ s : State, s.hart.level = .app → IllegalInstruction .tret s) ∧
  (∀ s : State, s.hart.level = .sup → s.hart.sup.trapstat.getLsbD 63 = false → (s.ctxEntry s.hart.sup.ctxid.toNat).killed = true → IllegalOperand .tret s)

namespace Sys2Proof.Claim

/-- A supervisor instruction may reissue the record r now: it is held, no freeze is under way, everything of the hart has been performed, and translations are not cached
(DESIGN CHOICE, log entry 9). -/
def MayReissue (s : State) (r : Ifr) : Prop :=
  s.hart.level = .sup ∧ s.hart.bound = true ∧ s.hart.freeze ≠ .begun ∧ s.hart.freeze ≠ .settling ∧ s.hart.ifr = some r ∧ r.replayed = 0 ∧ r.answered = 0 ∧ s.unperformed = false ∧
  s.caching = false ∧ s.appends = [] ∧ s.trains = []

/-- The application hart under which an entry is reissued, its items performed at once (DEDUCED, log entry 35). -/
def reissuing (s : State) (r : Ifr) (e : IfrEntry) (i : Instr) : State := { s with relaxed := false, hart := s.hart.reissuing r e i }

/-- The store entry e is one whose address passes its checks at a place that no gate closes. -/
def StoreEntry (s : State) (r : Ifr) (i : Instr) (e : IfrEntry) (p : Place) : Prop :=
  let n := 2 ^ (e.dw2.toNat % 16 - 1)
  e.kind = 7 ∧ (reissuing s r e i).probe e.dw1 n n .write = .ok p ∧ p.reg = none ∧ (reissuing s r e i).gate p = .opened

/-- Memory after a store entry. -/
def entryStored (m : List Host.Cell) (e : IfrEntry) (p : Place) : List Host.Cell := Memory.put m p.loc (leBytes (2 ^ (e.dw2.toNat % 16 - 1)) e.dw3.toNat)

/-- The record r has been reissued: no record is held, the context is not frozen, and the horizon of its issuer is its epoch (R375). -/
def replayed (u : State) (r : Ifr) : State :=
  { u with horizons := (r.context, r.issuer, r.epoch) :: u.horizons.filter fun h => !(h.1 == r.context && h.2.1 == r.issuer)
           hart := { u.hart with ifr := none, freeze := .none } }

end Sys2Proof.Claim

/-- TRET that holds a record of stores, to a context that is not killed and has no frozen hart to resume, reissues it as IFRREPLAY does (log entries 35 and 42): the bytes are in memory, the horizon is set, and then the
level and the pc are as without a record. -/
def Sys2Proof.Claim.TrapReturnReissuesItsRecord : Prop :=
  ∀ (s : State) (r : Ifr) (e : IfrEntry) (p : Place), MayReissue s r → r.entries = [e] → StoreEntry s r .tret e p → s.parked = [] →
    (s.hart.sup.trapstat.getLsbD 63 = true ∨ (s.ctxEntry s.hart.sup.ctxid.toNat).killed = false) → ∃ t, exec .tret s = .next t ∧
      t.mem = entryStored s.mem e p ∧ t.horizons = (replayed s r).horizons ∧ t.hart.ifr = none ∧ t.hart.freeze = .none ∧ t.hart.run = .running ∧
      t.hart.level = (if s.hart.sup.trapstat.getLsbD 63 then .sup else .app) ∧ t.hart.pc = s.hart.sup.trappc ∧ t.hart.vec = s.hart.vec ∧ t.hart.csr = s.hart.csr ∧ t.hart.sx = s.hart.sx ∧
      (∀ q : XReg, q ≠ 8 → q ≠ 9 → t.hart.x.get q = s.hart.x.get q)

/-- Returning from a trap, with and without a record to replay. -/
def Obligations.TrapReturnRestoresLevelAndPc : Prop := Claim.TrapReturnRestoresLevelAndPc ∧ Claim.TrapReturnReissuesItsRecord

/-- The privileged instructions of MAJ 0x34 and TRET raise ILLEGAL_INSTRUCTION at application level, and so does an access to a supervisor
control register. -/
def Sys2Proof.Claim.PrivilegedFormsTrapAtApplicationLevel : Prop :=
  ∀ (s : State) (rd rs1 rs2 : XReg) (csr : BitVec 12), s.hart.level = .app →
    (∀ i ∈ [Instr.ifrsave rd, .ifrload rd, .ifrreplay rd, .ctxsavev rd, .ctxloadv rd, .genbump rd rs1, .lanecap rd rs1 rs2, .sfuload rd rs1 rs2, .tret],
      IllegalInstruction i s) ∧
    (0x100 ≤ csr.toNat → ∀ i ∈ [Instr.csrrw rd rs1 csr, .csrrs rd rs1 csr, .csrrc rd rs1 csr], IllegalInstruction i s)

/-- YIELD is a hint, FENCE completes when nothing of its sets is outstanding, and VLSYNC when every access of the hart has been performed and
its response has come: each then moves past itself and changes nothing. Otherwise FENCE and VLSYNC wait at their pc. -/
def Obligations.FencesWaitForWhatTheyOrder : Prop :=
  ∀ (s : State) (scope sets : BitVec 3), let past := { s with hart := { s.hart with pc := s.hart.pc + 4, run := .running, wait := none } }
    exec .yield s = .next past ∧
    ((∀ a ∈ s.accesses, a.hart = s.hart.id → (sets.getLsbD 0 = true → a.reads = false) ∧ (sets.getLsbD 1 = true → a.writes = false)) →
      (sets.getLsbD 2 = true → s.enginesBusy s.hart = false) → exec (.fence scope sets) s = .next past) ∧
    ((∀ a ∈ s.accesses, a.hart = s.hart.id → a.reads = false ∧ a.writes = false) → exec .vlsync s = .next past) ∧
    ((∃ a ∈ s.accesses, a.hart = s.hart.id ∧ (a.reads = true ∨ a.writes = true)) → exec .vlsync s = .next (s.waits .vlsync)) ∧
    ((∃ a ∈ s.accesses, a.hart = s.hart.id ∧ ((sets.getLsbD 0 = true ∧ a.reads = true) ∨ (sets.getLsbD 1 = true ∧ a.writes = true))) →
      exec (.fence scope sets) s = .next (s.waits (.fence scope sets))) ∧
    (sets.getLsbD 2 = true → s.enginesBusy s.hart = true → exec (.fence scope sets) s = .next (s.waits (.fence scope sets)))

/-- A control-register instruction on a number that the level may access reads the old value into rd and then writes: CSRRW rs1, CSRRS old | rs1,
CSRRC old & ~rs1, through the register's write rule. CSRRS and CSRRC with rs1 = x0 only read. A read of CYCLE gives a count that is fewer than 2^32 cycles above the
last one: how many is free (the model's choice, log entry 8). A number that does not exist, a supervisor number at application level and a write of a read-only
number raise ILLEGAL_INSTRUCTION. -/
def Sys2Proof.Claim.ControlRegisterAccessesReadThenWrite : Prop :=
  ∀ (s : State) (rd rs1 : XReg) (csr : BitVec 12), let n := csr.toNat; let old := s.csrValue n; let x := s.rx rs1
    (csrExists n = true → (0x100 ≤ n → s.hart.level = .sup) → n ≠ 0x017 →
      (csrReadOnly n = false →
        (∃ t, exec (.csrrw rd rs1 csr) s = .next t ∧ WritesReg (s.setCsr n x) t 4 rd old) ∧
        (rs1 ≠ 0 → (∃ t, exec (.csrrs rd rs1 csr) s = .next t ∧ WritesReg (s.setCsr n (old ||| x)) t 4 rd old) ∧
          ∃ t, exec (.csrrc rd rs1 csr) s = .next t ∧ WritesReg (s.setCsr n (old &&& ~~~x)) t 4 rd old)) ∧
      (rs1 = 0 → Yields (.csrrs rd rs1 csr) s 4 rd old ∧ Yields (.csrrc rd rs1 csr) s 4 rd old)) ∧
    (n = 0x017 → rs1 = 0 → ∀ i ∈ [Instr.csrrs rd rs1 csr, .csrrc rd rs1 csr], ∃ t, ∃ c : Word, exec i s = .next t ∧ c.toNat < 2 ^ 32 ∧
      WritesReg { s with free := s.free + 1, hart := { s.hart with csr := { s.hart.csr with cycle := old + c } } } t 4 rd (old + c)) ∧
    (csrExists n = false ∨ (0x100 ≤ n ∧ s.hart.level = .app) → ∀ i ∈ [Instr.csrrw rd rs1 csr, .csrrs rd rs1 csr, .csrrc rd rs1 csr], IllegalInstruction i s) ∧
    (csrReadOnly n = true → IllegalInstruction (.csrrw rd rs1 csr) s ∧
      (rs1 ≠ 0 → IllegalInstruction (.csrrs rd rs1 csr) s ∧ IllegalInstruction (.csrrc rd rs1 csr) s))

/-- What a write leaves in a control register, read back at supervisor level: VL is capped at VLMAX, a FRM of 6 or 7 becomes 0, FFLAGS keeps 9
bits, SRMODE and NOCCLASS 2, VSTART, ROWLEN, MKLEN, MROWS and CTXID 32, ASID 16, SFMODE 1; SRLOG, TRAPVEC, PTROOT, IFRBASE and PINQUOTA lose their
low bits; RNGKEY, RNGSTREAM, RNGCTR, RACC and the trap values keep all of them; a DEADLINE of 0 becomes 200; SRCTL keeps FORCECTR and reads NSFAIL, which a write leaves
as the noise source of the die has it. -/
def Sys2Proof.Claim.WriteRulesOfControlRegisters : Prop :=
  ∀ (s : State) (v : Word), let f := fun n => (s.setCsr n v).csrValue n
    f 0x000 = (if v.toNat ≤ s.hart.vlmax then v else BitVec.ofNat 64 s.hart.vlmax) ∧ f 0x007 = (if v.toNat % 8 < 6 then v &&& 7 else 0) ∧
    f 0x008 = v &&& 0x1FF ∧ f 0x009 = v &&& 3 ∧ f 0x00E = v &&& 3 ∧ f 0x018 = v &&& 1 ∧
    (∀ n ∈ [0x002, 0x003, 0x004, 0x005, 0x107], f n = v &&& 0xFFFFFFFF) ∧ f 0x108 = v &&& 0xFFFF ∧
    f 0x00A = v &&& 0xFFFFFFFFFFFFFFF0 ∧ f 0x100 = v &&& 0xFFFFFFFFFFFFFFF8 ∧ f 0x106 = v &&& 0xFFFFFFFFFFFFF000 ∧
    f 0x10A = v &&& 0xFFFFFFFFFF000 ∧ f 0x10D = v &&& 0xFFFFFFFFFFFFFFC0 ∧
    (∀ n ∈ [0x00B, 0x00C, 0x00D, 0x019, 0x102, 0x103, 0x104, 0x10C], f n = v) ∧ f 0x101 = v &&& 0x3FF ∧ f 0x105 = v &&& 0x800000000003FFFF ∧
    f 0x10E = (v &&& 1) + (if (s.die (dieOf s.hart.id)).nsfail then 2 else 0) ∧
    f 0x10B &&& 0xFFFFFFFE = (if v.toNat / 2 ^ 16 % 2 ^ 16 = 0 then (v &&& 2) + 0xC80000 else v &&& 0xFFFF0002)

/-- Control-register accesses and what a write leaves. -/
def Obligations.ControlRegistersReadThenWriteByTheirRules : Prop := Claim.ControlRegisterAccessesReadThenWrite ∧ Claim.WriteRulesOfControlRegisters

/-- The instructions that only an application hart executes (R146): HALT and the vector, matrix, vector-memory, engine and gang groups. -/
def Sys2Proof.Claim.appOnly : Instr → Bool
  | .halt | .vadd .. | .vsub .. | .vmul .. | .vmulh .. | .vdiv .. | .vfma .. | .vfms .. | .vfnma .. | .vmin .. | .vmax .. | .vadds .. | .vsubs .. | .vand ..
    | .vor .. | .vxor .. | .vsll .. | .vsrl .. | .vsra .. | .vcmp .. | .vmerge .. | .vmulsc .. | .vperm .. | .vzipLo .. | .vzipHi .. | .vunzipEven ..
    | .vunzipOdd .. | .vsqrt .. | .vabs .. | .vneg .. | .vmov .. | .vreshuf .. | .vcompress .. | .vexpand .. | .viota .. | .vcvt .. | .vsf .. | .vsfrr ..
    | .vsftab .. | .vsfpoly .. | .vsfscl .. | .vrngN32 .. | .vrngN64 .. | .vrngF32 .. | .vaddX .. | .vsubX .. | .vmulX .. | .vfmaX .. | .vminX .. | .vmaxX ..
    | .vandX .. | .vorX .. | .vxorX .. | .vsllX .. | .vsrlX .. | .vsraX .. | .vcmpX .. | .vbcast .. | .vmvx .. | .vxmv .. | .vaddi .. | .vandi .. | .vslli ..
    | .vsrli .. | .vsrai .. | .vslideup .. | .vslidedn .. | .vring .. | .vrsum .. | .vrmax .. | .vrmin .. | .vrssq .. | .vsoftmax .. | .vrnormRms ..
    | .vrnormLayer .. | .vtmovRow .. | .vtmovCol .. | .vsetvl .. | .vsettag .. | .vgettag .. | .modeV | .modeM | .mand .. | .mor .. | .mxor .. | .mandn ..
    | .mpopc .. | .mfirst .. | .mset .. | .vld .. | .vldff .. | .vldm .. | .vst .. | .vstff .. | .mma .. | .mmaRs .. | .mmax .. | .mmaxRs .. | .mdrain ..
    | .mattach .. | .mdetach | .mpreload .. | .mzero .. | .mdrainst .. | .vlds .. | .vldx .. | .vsts .. | .vstx .. | .vamoAdd .. | .vamoMin .. | .vamoMax ..
    | .vamoSwap .. | .vappend .. | .vappendIdx .. | .vscatr .. | .vroute .. | .vmxq .. | .strm .. | .strmw .. | .hwait .. | .hstate .. | .hfree .. | .xcopy ..
    | .gstream .. | .gbcast .. => true
  | _ => false

/-- At supervisor level every vector, matrix, vector-memory, engine and gang instruction, whatever its operands, and HALT raise ILLEGAL_OPERAND. -/
def Sys2Proof.Claim.VectorAndEngineFormsTrapAtSupervisorLevel : Prop :=
  ∀ (s : State) (i : Instr), s.hart.level = .sup → Claim.appOnly i = true → IllegalOperand i s

/-- Which instructions a level may not execute, and the trap they take there. -/
def Obligations.FormsTrapAtTheWrongLevel : Prop := Claim.PrivilegedFormsTrapAtApplicationLevel ∧ Claim.VectorAndEngineFormsTrapAtSupervisorLevel

/-! ### Scalar memory -/

namespace Sys2Proof.Claim

/-- From s to t n bytes x were stored from a location on, the pc moved past n4 bytes of instruction, and nothing else changed, no other byte of memory. -/
def Stores (s t : State) (loc n x : Nat) : Prop :=
  (∀ k, k < n → Memory.byte t.mem (loc + k) = BitVec.ofNat 8 (x / 256 ^ k)) ∧
  (∀ a, a < loc ∨ loc + n ≤ a → Memory.byte t.mem a = Memory.byte s.mem a) ∧
  t = { s with mem := t.mem, hart := { s.hart with pc := s.hart.pc + 4, run := .running, wait := none } }

/-- From s to t an access was queued on the scalar side behind the others of the hart, with the ordering given, and the pc moved past the instruction: memory is
unchanged. -/
def Queues (s t : State) (loc : Nat) (va : Word) (op : AccessOp) (release acquire : Bool) (scope : BitVec 3) : Prop :=
  t = { s with accesses := s.accesses ++ [{ s.newAccess 0 loc va op with release := release, acquire := acquire, scope := scope }], nextOrder := s.nextOrder + 1
               hart := { s.hart with pc := s.hart.pc + 4, run := .running, wait := none } }

/-- The n-byte number x, sign- or zero-extended to a register. -/
def extended (signed : Bool) (n x : Nat) : Word := BitVec.ofInt 64 (if signed = true ∧ 2 ^ (8 * n - 1) ≤ x then (x : Int) - 2 ^ (8 * n) else x)

end Sys2Proof.Claim

/-- A scalar load of n bytes at rs1 + imm14, once the checks of R88 give its place and nothing holds the access: the n bytes there, sign- or zero-extended, go to
rd; in the model's relaxed policy (log entry 7) the load is queued instead. At the register window, once every earlier access of the hart has been performed, an 8-byte load of the
supervisor reads the register and any other load, an application's among them, zero (the model's reading, log entry 67); until then it waits. A failed check traps with its cause and the address. No byte of memory changes. (u is s
with the page's translation remembered.) -/
def Sys2Proof.Claim.ScalarLoadsReadTheirBytes : Prop :=
  ∀ (s : State) (rd rs1 : XReg) (imm : BitVec 14), let va := s.rx rs1 + BitVec.ofInt 64 imm.toInt; let u := s.cachePage va
    ∀ q ∈ [(Instr.ldI8 rd rs1 imm, 1, true), (.ldN8 rd rs1 imm, 1, false), (.ldI16 rd rs1 imm, 2, true), (.ldN16 rd rs1 imm, 2, false),
        (.ldI32 rd rs1 imm, 4, true), (.ldN32 rd rs1 imm, 4, false), (.ldI64 rd rs1 imm, 8, true)],
      (∀ p, s.probe va q.2.1 q.2.1 .read = .ok p → u.gate p = .opened →
        (p.reg = none → s.relaxed = false → ∃ t, exec q.1 s = .next t ∧
          WritesReg u t 4 rd (extended q.2.2 q.2.1 (Memory.num s.mem p.loc q.2.1))) ∧
        (p.reg = none → s.relaxed = true → ∃ t, exec q.1 s = .next t ∧ Queues u t p.loc va (.load rd q.2.1 q.2.2) false false 0) ∧
        (∀ off, p.reg = some off → s.unperformed = false → ∃ t, exec q.1 s = .next t ∧
          WritesReg u t 4 rd (if q.2.1 = 8 ∧ s.hart.level = .sup then u.regRead off else 0)) ∧
        (∀ off, p.reg = some off → s.unperformed = true → exec q.1 s = .next (u.waits q.1))) ∧
      (∀ c, s.probe va q.2.1 q.2.1 .read = .error c → ∃ t, exec q.1 s = .next t ∧ Traps (insnWord q.1) s t c.code va 0)

/-- A scalar store writes the n low bytes of rs, little-endian, at the place of rs1 + imm14 and no other byte; in the relaxed policy it is queued. At the register
window, once every earlier access of the hart has been performed, an 8-byte store of the supervisor writes the register, a shorter one of it is what `shortWrite`
says (as log entry 50 reads R423), and a store of an application changes nothing (the model's reading, log entry 67). A failed check traps, and nothing is written. STREL stores at rs1 as a release; its ew 0 raises ILLEGAL_OPERAND. -/
def Obligations.ScalarStoresWriteTheirBytes : Prop :=
  ∀ (s : State) (rs rs1 : XReg) (imm : BitVec 14) (ew scope : BitVec 3), Memory.wf s.mem = true →
    (∀ q ∈ [(Instr.st8 rs rs1 imm, 1, s.rx rs1 + BitVec.ofInt 64 imm.toInt, false), (.st16 rs rs1 imm, 2, s.rx rs1 + BitVec.ofInt 64 imm.toInt, false),
        (.st32 rs rs1 imm, 4, s.rx rs1 + BitVec.ofInt 64 imm.toInt, false), (.st64 rs rs1 imm, 8, s.rx rs1 + BitVec.ofInt 64 imm.toInt, false)] ++
        (if ew = 0 then [] else [(.strel rs rs1 ew scope, 2 ^ (ew.toNat - 1), s.rx rs1, true)]),
      let va := q.2.2.1; let n := q.2.1; let u := s.cachePage va
      (∀ p, s.probe va n n .write = .ok p → u.gate p = .opened →
        (p.reg = none → s.relaxed = false → ∃ t, exec q.1 s = .next t ∧ Stores u t p.loc n (s.rx rs).toNat) ∧
        (p.reg = none → s.relaxed = true → ∃ t, exec q.1 s = .next t ∧
          Queues u t p.loc va (.store (leBytes n (s.rx rs).toNat)) q.2.2.2 false (if q.2.2.2 then scope else 0)) ∧
        (∀ off, p.reg = some off → s.unperformed = false → exec q.1 s = .next ((if s.hart.level = .app then u
          else if n = 8 then u.regWrite off (s.rx rs) else u.shortWrite off n (s.rx rs)).adv 4)) ∧
        (∀ off, p.reg = some off → s.unperformed = true → exec q.1 s = .next (u.waits q.1))) ∧
      (∀ c, s.probe va n n .write = .error c → ∃ t, exec q.1 s = .next t ∧ Traps (insnWord q.1) s t c.code va 0)) ∧
    IllegalOperand (.strel rs rs1 0 scope) s

/-- LDACQ writes the zero-extended 1, 2, 4 or 8 bytes at rs1 to rd, and changes nothing else; in the relaxed policy it is queued as an acquire at its scope. At the
register window it reads as a load does (log entry 67). ew 0 raises ILLEGAL_OPERAND. -/
def Sys2Proof.Claim.LoadAcquireBindsAtOnce : Prop :=
  ∀ (s : State) (rd rs1 : XReg) (ew scope : BitVec 3), let va := s.rx rs1; let n := 2 ^ (ew.toNat - 1); let u := s.cachePage va
    (ew ≠ 0 →
      (∀ p, s.probe va n n .read = .ok p → u.gate p = .opened →
        (p.reg = none → s.relaxed = false → ∃ t, exec (.ldacq rd rs1 ew scope) s = .next t ∧ WritesReg u t 4 rd (BitVec.ofNat 64 (Memory.num s.mem p.loc n))) ∧
        (p.reg = none → s.relaxed = true → ∃ t, exec (.ldacq rd rs1 ew scope) s = .next t ∧ Queues u t p.loc va (.load rd n false) false true scope) ∧
        (∀ off, p.reg = some off → s.unperformed = false → ∃ t, exec (.ldacq rd rs1 ew scope) s = .next t ∧
          WritesReg u t 4 rd (if n = 8 ∧ s.hart.level = .sup then u.regRead off else 0))) ∧
      (∀ c, s.probe va n n .read = .error c → ∃ t, exec (.ldacq rd rs1 ew scope) s = .next t ∧ Traps (insnWord (.ldacq rd rs1 ew scope)) s t c.code va 0)) ∧
    IllegalOperand (.ldacq rd rs1 0 scope) s

/-- Scalar loads and LDACQ. -/
def Obligations.LoadsReadTheirBytes : Prop := Claim.ScalarLoadsReadTheirBytes ∧ Claim.LoadAcquireBindsAtOnce

/-- AMO, when fewer than 8,192 tags of the hart are unconfirmed and the word at rs1 may be written: rd holds the old word, the word becomes the sum, conjunction,
disjunction, exclusive or, signed minimum or maximum, or rs2, and for CAS rs2 when the old word equals rd; no other byte changes, the hart takes one tag and the
target's duplicate table, which has room, an entry. In the model's relaxed policy (log entry 7) the access queued is that operation on rs2, with rd's old value to compare,
under its tag, a release and an acquire as ord says; without a tag it waits, and at the register window it writes zero to rd alone. -/
def Obligations.AtomicsReadModifyWriteTheirWord : Prop :=
  ∀ (s : State) (rd rs1 rs2 : XReg) (ord : BitVec 2) (scope : BitVec 3) (p : Place), let va := s.rx rs1; let u := s.cachePage va
    let old : Word := BitVec.ofNat 64 (Memory.num s.mem p.loc 8); let x := s.rx rs2
    Memory.wf s.mem = true → s.probe va 8 8 .write = .ok p → u.gate p = .opened →
    ∀ q ∈ [(Instr.amoAdd rd rs1 rs2 ord scope, old + x, AmoOp.add), (.amoAnd rd rs1 rs2 ord scope, old &&& x, .and), (.amoOr rd rs1 rs2 ord scope, old ||| x, .or),
        (.amoXor rd rs1 rs2 ord scope, old ^^^ x, .xor), (.amoMin rd rs1 rs2 ord scope, if x.toInt < old.toInt then x else old, .min),
        (.amoMax rd rs1 rs2 ord scope, if old.toInt < x.toInt then x else old, .max), (.amoSwap rd rs1 rs2 ord scope, x, .swap),
        (.amoCas rd rs1 rs2 ord scope, if old = s.rx rd then x else old, .cas)],
      (s.tagsFull 1 = true → exec q.1 s = .next (s.waits q.1)) ∧
      (s.tagsFull 1 = false → p.reg = none → s.relaxed = false → s.tableFull (dupSlice p.loc) 1 = false →
        ∃ t m, exec q.1 s = .next t ∧ BitVec.ofNat 64 (Memory.num m p.loc 8) = q.2.1 ∧
          (∀ a, a < p.loc ∨ p.loc + 8 ≤ a → Memory.byte m a = Memory.byte s.mem a) ∧
          WritesReg (({ u with mem := m } : State).tagged (dupSlice p.loc) old) t 4 rd old) ∧
      (s.tagsFull 1 = false → p.reg = none → s.relaxed = true → ∃ t a, exec q.1 s = .next t ∧ t.accesses = s.accesses ++ [a] ∧ a.loc = p.loc ∧ a.va = va ∧
        a.op = .amo rd q.2.2.code x (s.rx rd) ∧ a.release = ord.getLsbD 1 ∧ a.acquire = ord.getLsbD 0 ∧ a.scope = scope ∧ a.tag = s.hart.tags.value ∧
        a.performed = false ∧ t.hart.x = s.hart.x ∧ t.hart.pc = s.hart.pc + 4 ∧ t.mem = s.mem) ∧
      (s.tagsFull 1 = false → p.reg ≠ none → s.unperformed = false → ∃ t, exec q.1 s = .next t ∧ WritesReg u t 4 rd 0)

/-- PREFETCH completes: its status register reads 0 and nothing else changes. PIN of a line whose address passes its checks completes with the status of R96: 3 for an
uncacheable line or a die without cache ways, 0 when the context has pinned it already, 2 beyond the quota, 1 when the ways of its set that can hold pins do, else 0;
with 0 the context's pin is on the line. How many ways of a die are cache ways, on which statuses 1 and 3 rest, is the model's reading (log entry 73), and so is the set of a line (log entry 31). UNPIN completes with 0 and takes the context's pin off the line, and no pin of another line. Level 2 raises ILLEGAL_OPERAND, and
an address that fails a check traps. No byte of memory changes. -/
def Obligations.CacheControlTouchesOnlyPins : Prop :=
  ∀ (s : State) (st rs1 : XReg) (level : BitVec 2), let va := s.rx rs1; let u := s.cachePage va; let ctx := s.hart.sup.ctxid
    Yields (.prefetch st rs1 level) s 4 st 0 ∧
    (level ≠ 2 → ∀ p, s.probe va 1 1 .read = .ok p → u.gate p = .opened →
      let lv := if level = 0 then 0 else dieOf s.hart.id + 1; let line := p.loc / 64; let held := s.pins.filter fun q => q.holders.any fun x => x.1 == ctx
      let k := if p.uncacheable = true ∨ (lv ≠ 0 ∧ s.cacheWays (lv - 1) = 0) then 3 else if ∃ q ∈ held, q.level = lv ∧ q.line = line then 0
        else if s.hart.sup.pinquota.toNat < 64 * (held.length + 1) then 2 else if (s.pinSet lv line).1 ≤ (s.pinSet lv line).2 then 1 else 0
      (∃ t, exec (.pin st rs1 level) s = .next t ∧ WritesReg { u with pins := t.pins } t 4 st (BitVec.ofNat 64 k) ∧
        (k ≠ 0 → t.pins = s.pins) ∧ (k = 0 → ∃ q ∈ t.pins, q.level = lv ∧ q.line = line ∧ (ctx, s.hart.job.launch) ∈ q.holders) ∧
        (∀ q ∈ s.pins, (q.level ≠ lv ∨ q.line ≠ line) → q ∈ t.pins) ∧ (∀ q ∈ t.pins, (q.level ≠ lv ∨ q.line ≠ line) → q ∈ s.pins)) ∧
      (∃ t, exec (.unpin st rs1 level) s = .next t ∧ WritesReg { u with pins := t.pins } t 4 st 0 ∧
        (∀ q ∈ t.pins, q.level = lv → q.line = line → ∀ x ∈ q.holders, x.1 ≠ ctx) ∧
        (∀ q ∈ s.pins, (q.level ≠ lv ∨ q.line ≠ line) → q.holders ≠ [] → q ∈ t.pins) ∧ (∀ q ∈ t.pins, (q.level ≠ lv ∨ q.line ≠ line) → q ∈ s.pins))) ∧
    (level ≠ 2 → ∀ c, s.probe va 1 1 .read = .error c → ∀ i ∈ [Instr.pin st rs1 level, .unpin st rs1 level], ∃ t, exec i s = .next t ∧ Traps (insnWord i) s t c.code va 0) ∧
    IllegalOperand (.pin st rs1 2) s ∧ IllegalOperand (.unpin st rs1 2) s

/-! ### Vector instructions -/

namespace Sys2Proof.Claim

/-- A vector instruction may act: application level, vector mode, the core's array not lent. -/
def VecReady (s : State) : Prop := s.hart.level = .app ∧ s.hart.vec.matrix = false ∧ s.lent = false

/-- What an elementwise or permuting instruction leaves in the elements below VL (R193): those below VSTART and the masked-off ones keep their old
code (a masked-off one is 0 with z), the active ones take f. -/
def elementCodes (h : Hart) (vd : VReg) (tag : BitVec 8) (m : MReg) (z : Bool) (f : Nat → Nat) : List Nat :=
  (List.range h.vl).map fun i => if i < h.vs then h.elemAs vd tag i else if h.active m i then f i else if z then 0 else h.elemAs vd tag i

/-- The same where VSTART plays no part, with positions that are kept whatever z holds. -/
def permuteCodes (h : Hart) (vd : VReg) (tag : BitVec 8) (m : MReg) (z : Bool) (keep : Nat → Bool) (f : Nat → Nat) : List Nat :=
  (List.range h.vl).map fun i =>
    if keep i then h.elemAs vd tag i else if h.active m i then f i else if z then 0 else h.elemAs vd tag i

/-- The union of the flags of the elements that were computed. -/
def computedFlags (h : Hart) (m : MReg) (f : Nat → Flags) : Flags :=
  ((List.range h.vl).filter fun i => decide (h.vs ≤ i) && h.active m i).foldl (fun a i => a ||| f i) 0

/-- From u to t an instruction of n bytes wrote the codes, as elements of a tag with a zero tail, to vd alone, took the tag, ORed flags into FFLAGS,
cleared VSTART[31:0] and moved past itself; nothing else of the package changed. -/
def VecWrites (u t : State) (n : Nat) (vd : VReg) (tag : BitVec 8) (codes : List Nat) (flags : Flags) : Prop :=
  t.hart.rv vd = packElems tag u.hart.ebits codes ∧ t.hart.tagOf vd = tag ∧
  (∀ r, r ≠ vd → t.hart.rv r = u.hart.rv r ∧ t.hart.tagOf r = u.hart.tagOf r) ∧
  t = { u with hart := { u.hart with
    pc := u.hart.pc + BitVec.ofNat 64 n, run := .running, wait := none
    vec := { u.hart.vec with v := t.hart.vec.v, tag := t.hart.vec.tag }
    csr := { u.hart.csr with vstart := u.hart.csr.vstart &&& 0x8000000000000000, fflags := u.hart.csr.fflags ||| flags } } }

/-- The state with VSTART[31:0] cleared, as every instruction of the vector groups that completes leaves it (R89). -/
def vstartCleared (s : State) : State := { s with hart := { s.hart with csr := { s.hart.csr with vstart := s.hart.csr.vstart &&& 0x8000000000000000 } } }

/-- From s to t the mask register md took the bits f, and nothing else changed but VSTART[31:0] and the pc. -/
def MaskWrites (s t : State) (md : MReg) (f : Nat → Bool) : Prop :=
  (∀ i, i < 8192 → (t.hart.rm md).getLsbD i = f i) ∧ (∀ q, q ≠ md → t.hart.rm q = s.hart.rm q) ∧
  t = { s with hart := { s.hart with
    pc := s.hart.pc + 4, run := .running, wait := none, vec := { s.hart.vec with m := t.hart.vec.m }
    csr := { s.hart.csr with vstart := s.hart.csr.vstart &&& 0x8000000000000000 } } }

end Sys2Proof.Claim

/-- Elements written to a register under a tag read back: element i of the image of a list of codes is the i-th code cut to the tag's width, and 0
past the list, for packed and spread registers of every type and both planes of the six-bit types, as long as the register has room. -/
def Sys2Proof.Claim.PackedElementsReadBack : Prop :=
  ∀ (tag : BitVec 8) (ew : BitVec 3) (codes : List Nat) (i : Nat), tagLegal tag = true → ew.toNat ≤ 4 →
    (tagSpread tag = true → tagBits tag ≤ ewBits ew) → codes.length ≤ 32768 / (if tagSpread tag then ewBits ew else tagBits tag) →
    regElem (packElems tag (ewBits ew) codes) tag (ewBits ew) i = codes.getD i 0 % 2 ^ tagBits tag

/-- Elementwise arithmetic in its vector, unary, scalar and immediate forms. When the source tags are legal (va fits VL, the other sources carry
its tag, and the operation accepts its type) the elements of vd are: kept below VSTART; for active ones the operation on va's element, the second
operand (vb's element, the scalar, the immediate) and, for the fused forms, vd's old element; kept or zeroed where masked off; zero from VL on. vd
takes va's tag, the flags of the computed elements go into FFLAGS, VSTART[31:0] is cleared, and no other register, memory byte or state changes.
`Draws` gives the seed d and the state u after drawing it (u = s unless the mode is SR). -/
def Obligations.ElementwiseArithmeticWritesOnlyItsDestination : Prop :=
  ∀ (s u : State) (d : Seed) (vd va vb : VReg) (m : MReg) (ca cb z sw : Bool) (xs : XReg) (imm : BitVec 6),
    let h := s.hart; let tag := h.tagOf va; let ty := tagType tag; let w := tyBits ty
    let e := fun k => h.elem vb k; let x := fun (_ : Nat) => (s.rx xs).toNat; let y := fun (_ : Nat) => (s.rx xs).toNat % 2 ^ w
    let c := fun (_ : Nat) => (imm.signExtend w).toNat; let n := fun (_ : Nat) => imm.toNat; let o := fun (_ : Nat) => 0
    ∀ q ∈ [(Instr.vadd vd va vb m ca cb z, VOp.add, [vb], false, e), (.vsub vd va vb m ca cb z, .sub, [vb], false, e), (.vmul vd va vb m ca cb z, .mul, [vb], false, e),
        (.vmulh vd va vb m ca cb z, .mulh, [vb], false, e), (.vdiv vd va vb m ca cb z, .div, [vb], false, e), (.vfma vd va vb m ca cb z, .fma, [vd, vb], false, e),
        (.vfms vd va vb m ca cb z, .fms, [vd, vb], false, e), (.vfnma vd va vb m ca cb z, .fnma, [vd, vb], false, e), (.vmin vd va vb m ca cb z, .min, [vb], false, e),
        (.vmax vd va vb m ca cb z, .max, [vb], false, e), (.vadds vd va vb m ca cb z, .adds, [vb], false, e), (.vsubs vd va vb m ca cb z, .subs, [vb], false, e),
        (.vand vd va vb m ca cb z, .and, [vb], false, e), (.vor vd va vb m ca cb z, .or, [vb], false, e), (.vxor vd va vb m ca cb z, .xor, [vb], false, e),
        (.vsll vd va vb m ca cb z, .sll, [vb], false, e), (.vsrl vd va vb m ca cb z, .srl, [vb], false, e), (.vsra vd va vb m ca cb z, .sra, [vb], false, e),
        (.vsqrt vd va m ca z, .sqrt, [], false, o), (.vabs vd va m ca z, .abs, [], false, o), (.vneg vd va m ca z, .neg, [], false, o), (.vmov vd va m ca z, .mov, [], false, o),
        (.vaddX vd va xs sw m ca z, .add, [], sw, y), (.vsubX vd va xs sw m ca z, .sub, [], sw, y), (.vmulX vd va xs sw m ca z, .mul, [], sw, y),
        (.vfmaX vd va xs sw m ca z, .fma, [vd], sw, y), (.vminX vd va xs sw m ca z, .min, [], sw, y), (.vmaxX vd va xs sw m ca z, .max, [], sw, y),
        (.vandX vd va xs sw m ca z, .and, [], sw, y), (.vorX vd va xs sw m ca z, .or, [], sw, y), (.vxorX vd va xs sw m ca z, .xor, [], sw, y),
        (.vsllX vd va xs sw m ca z, .sll, [], sw, x), (.vsrlX vd va xs sw m ca z, .srl, [], sw, x), (.vsraX vd va xs sw m ca z, .sra, [], sw, x),
        (.vandi vd va imm m ca z, .and, [], false, c), (.vslli vd va imm m ca z, .sll, [], false, n), (.vsrli vd va imm m ca z, .srl, [], false, n),
        (.vsrai vd va imm m ca z, .sra, [], false, n)] ++ (if tyIN ty then [(.vaddi vd va imm m ca z, .add, [], false, c)] else []),
      let op := q.2.1; let b := q.2.2.2.2
      let r := fun k => if q.2.2.2.1 then op.eval ty s.frmMode (d.rnd16 k) (b k) (h.elem va k) (h.elem vd k)
        else op.eval ty s.frmMode (d.rnd16 k) (h.elem va k) (b k) (h.elem vd k)
      VecReady s → h.fits tag = true → (∀ g ∈ q.2.2.1, h.tagOf g = tag) → op.accepts ty = true →
      Draws s s.frmMode (op.rounds ty) h.vl d u →
      ∃ t, exec q.1 s = .next t ∧ VecWrites u t 4 vd tag (elementCodes h vd tag m z fun k => (r k).code) (computedFlags h m fun k => (r k).flags)

/-- Integer elements of w bits: sums, differences and products wrap modulo 2^w; MULH is the high half; a zero divisor gives all ones, the minimum by -1 gives that minimum, and other
quotients round toward zero; minimum and maximum compare in the type's signedness; saturating forms clamp and set SAT alone; SRA fills the vacated bits with bit w - 1 whatever
the type's sign, and all of them from a count of w on, where the other shifts give 0; VABS leaves the minimum and every unsigned value as it is; no other flag is set. -/
def Sys2Proof.Claim.IntegerElementsWrapClampAndDivide : Prop :=
  ∀ (t a b c r : Nat) (mode : RMode), tyIN t = true → a < 2 ^ tyBits t → b < 2 ^ tyBits t → let w := tyBits t; let x := intOf t a; let y := intOf t b
    (VOp.eval .add t mode r a b c) = ⟨(a + b) % 2 ^ w, 0⟩ ∧ (VOp.eval .sub t mode r a b c) = ⟨(a + 2 ^ w - b) % 2 ^ w, 0⟩ ∧
    (VOp.eval .mul t mode r a b c) = ⟨a * b % 2 ^ w, 0⟩ ∧ intOf t (VOp.eval .mulh t mode r a b c).code = x * y / 2 ^ w ∧
    (b = 0 → (VOp.eval .div t mode r a b c) = ⟨2 ^ w - 1, 0⟩) ∧
    (y ≠ 0 → ¬ (x = intMin t ∧ y = -1) → intOf t (VOp.eval .div t mode r a b c).code = Int.tdiv x y) ∧
    (x = intMin t → y = -1 → (VOp.eval .div t mode r a b c) = ⟨a, 0⟩) ∧ (VOp.eval .div t mode r a b c).flags = 0 ∧ (VOp.eval .mulh t mode r a b c).flags = 0 ∧
    intOf t (VOp.eval .min t mode r a b c).code = min x y ∧ intOf t (VOp.eval .max t mode r a b c).code = max x y ∧
    (∀ q ∈ [(VOp.adds, x + y), (VOp.subs, x - y)], let v := VOp.eval q.1 t mode r a b c
      intOf t v.code = max (intMin t) (min (intMax t) q.2) ∧ (v.flags = if intMin t ≤ q.2 ∧ q.2 ≤ intMax t then 0 else fSAT)) ∧
    (∀ n, (VOp.eval .sll t mode r a n c).code = (if w ≤ n then 0 else a * 2 ^ n % 2 ^ w) ∧ (VOp.eval .srl t mode r a n c).code = (if w ≤ n then 0 else a / 2 ^ n)) ∧
    (∀ n, n < w → (VOp.eval .sra t mode r a n c).code = (if 2 ^ (w - 1) ≤ a then a / 2 ^ n + (2 ^ n - 1) * 2 ^ (w - n) else a / 2 ^ n)) ∧
    (∀ n, w ≤ n → (VOp.eval .sra t mode r a n c).code = if 2 ^ (w - 1) ≤ a then 2 ^ w - 1 else 0) ∧
    (∀ n, ∀ op ∈ [VOp.sll, .srl, .sra], (VOp.eval op t mode r a n c).flags = 0) ∧ (∀ op ∈ [VOp.min, .max, .and, .or, .xor], (VOp.eval op t mode r a b c).flags = 0) ∧
    (VOp.eval .neg t mode r a b c) = ⟨(2 ^ w - a) % 2 ^ w, 0⟩ ∧ (VOp.eval .abs t mode r a b c) = ⟨if x < 0 then 2 ^ w - a else a, 0⟩

/-- Packed elements read back, and integer elements compute as their type says. -/
def Obligations.ElementsReadBackAndIntegersWrap : Prop := Claim.PackedElementsReadBack ∧ Claim.IntegerElementsWrapClampAndDivide

/-- The instructions that vector mode alone executes (R24): the elementwise, cross-lane, row-group and special-function instructions, the mask group, VROUTE, VMXQ and VRNG. -/
def Sys2Proof.Claim.vectorOnly : Instr → Bool
  | .vadd .. | .vsub .. | .vmul .. | .vmulh .. | .vdiv .. | .vfma .. | .vfms .. | .vfnma .. | .vmin .. | .vmax .. | .vadds .. | .vsubs .. | .vand ..
    | .vor .. | .vxor .. | .vsll .. | .vsrl .. | .vsra .. | .vcmp .. | .vmerge .. | .vmulsc .. | .vperm .. | .vzipLo .. | .vzipHi .. | .vunzipEven ..
    | .vunzipOdd .. | .vsqrt .. | .vabs .. | .vneg .. | .vmov .. | .vreshuf .. | .vcompress .. | .vexpand .. | .viota .. | .vcvt .. | .vsf .. | .vsfrr ..
    | .vsftab .. | .vsfpoly .. | .vsfscl .. | .vrngN32 .. | .vrngN64 .. | .vrngF32 .. | .vaddX .. | .vsubX .. | .vmulX .. | .vfmaX .. | .vminX .. | .vmaxX ..
    | .vandX .. | .vorX .. | .vxorX .. | .vsllX .. | .vsrlX .. | .vsraX .. | .vcmpX .. | .vbcast .. | .vmvx .. | .vxmv .. | .vaddi .. | .vandi .. | .vslli ..
    | .vsrli .. | .vsrai .. | .vslideup .. | .vslidedn .. | .vring .. | .vrsum .. | .vrmax .. | .vrmin .. | .vrssq .. | .vsoftmax .. | .vrnormRms ..
    | .vrnormLayer .. | .mand .. | .mor .. | .mxor .. | .mandn .. | .mpopc .. | .mfirst .. | .mset .. | .vroute .. | .vmxq .. => true
  | _ => false

/-- The instructions that matrix mode alone executes (R24). -/
def Sys2Proof.Claim.matrixOnly : Instr → Bool
  | .mma .. | .mmaRs .. | .mmax .. | .mmaxRs .. | .mdrain .. | .mdrainst .. | .mattach .. | .mdetach | .mpreload .. | .mzero .. => true
  | _ => false

/-- The instructions that wait while their core's array is lent (R41): those of one mode but the store MDRAINST, and the tile moves. -/
def Sys2Proof.Claim.usesArray : Instr → Bool
  | .vtmovRow .. | .vtmovCol .. => true
  | .mdrainst .. => false
  | i => Claim.vectorOnly i || Claim.matrixOnly i

/-- Every instruction of vector mode alone raises ILLEGAL_OPERAND in matrix mode and at supervisor level, and every one of matrix mode alone in vector mode. Whatever its form, an instruction that uses the array, and that
is not refused where the array is not lent, waits at its pc while it is (log entry 26). -/
def Sys2Proof.Claim.FormsBelongToTheirMode : Prop :=
  (∀ (s : State) (i : Instr), (Claim.vectorOnly i = true → s.hart.level = .sup ∨ s.hart.vec.matrix = true → IllegalOperand i s) ∧
    (Claim.matrixOnly i = true → s.hart.level = .sup ∨ s.hart.vec.matrix = false → IllegalOperand i s)) ∧
  (∀ (s u : State) (i : Instr), Claim.usesArray i = true → s.lent = true → u = { s with cores := u.cores } → u.lent = false → (∀ fn, u.sfSource fn = s.sfSource fn) →
    ¬ IllegalOperand i u → exec i s = .next (s.waits i))

/-- Operands that are not legal raise ILLEGAL_OPERAND: a register too short for VL, sources whose tags differ, a type that the operation does not accept, a function number without a function. A legal VMOV waits while the array is lent. -/
def Sys2Proof.Claim.IllegalVectorOperandsAreRefused : Prop :=
  ∀ (s : State) (vd va vb : VReg) (m : MReg) (ca cb z : Bool) (fn : BitVec 6), let h := s.hart; let ty := tagType (h.tagOf va)
    (s.hart.level = .sup ∨ s.hart.vec.matrix = true ∨ h.fits (h.tagOf va) = false → ∀ i ∈ [Instr.vadd vd va vb m ca cb z, .vfma vd va vb m ca cb z,
      .vsqrt vd va m ca z, .vperm vd va vb m ca cb z, .vreshuf vd va m ca z, .vsfpoly vd va vb m ca cb z, .vrsum vd va m ca, .vsoftmax vd va m ca z],
      IllegalOperand i s) ∧
    (h.tagOf vb ≠ h.tagOf va → ∀ i ∈ [Instr.vadd vd va vb m ca cb z, .vsub vd va vb m ca cb z, .vmul vd va vb m ca cb z, .vmulh vd va vb m ca cb z, .vdiv vd va vb m ca cb z,
      .vfma vd va vb m ca cb z, .vfms vd va vb m ca cb z, .vfnma vd va vb m ca cb z, .vmin vd va vb m ca cb z, .vmax vd va vb m ca cb z, .vadds vd va vb m ca cb z,
      .vsubs vd va vb m ca cb z, .vand vd va vb m ca cb z, .vor vd va vb m ca cb z, .vxor vd va vb m ca cb z, .vsll vd va vb m ca cb z, .vsrl vd va vb m ca cb z, .vsra vd va vb m ca cb z,
      .vcmp m 0 va vb m ca cb z, .vmerge vd va vb m ca cb, .vsfpoly vd va vb m ca cb z], IllegalOperand i s) ∧
    (h.tagOf vd ≠ h.tagOf va → ∀ i ∈ [Instr.vfma vd va vb m ca cb z, .vfms vd va vb m ca cb z, .vfnma vd va vb m ca cb z, .vsfpoly vd va vb m ca cb z], IllegalOperand i s) ∧
    (ty ∈ [3, 4, 5, 6, 7, 12, 13, 15] → ∀ i ∈ [Instr.vadd vd va vb m ca cb z, .vsub vd va vb m ca cb z, .vmul vd va vb m ca cb z, .vmulh vd va vb m ca cb z, .vdiv vd va vb m ca cb z,
      .vfma vd va vb m ca cb z, .vmin vd va vb m ca cb z, .vmax vd va vb m ca cb z, .vadds vd va vb m ca cb z, .vsll vd va vb m ca cb z, .vsqrt vd va m ca z, .vabs vd va m ca z,
      .vneg vd va m ca z, .vcmp m 0 va vb m ca cb z], IllegalOperand i s) ∧
    (14 ≤ fn.toNat → fn.toNat < 32 → IllegalOperand (.vsf vd va fn m ca z) s) ∧
    (s.hart.level = .app → s.hart.vec.matrix = false → s.lent = true → h.fits (h.tagOf va) = true → tyBW ty = true →
      exec (.vmov vd va m ca z) s = .next (s.waits (.vmov vd va m ca z)))

/-- Which vector and matrix forms are refused, and which wait for the array. -/
def Obligations.VectorFormsAreRefusedOrWait : Prop := Claim.FormsBelongToTheirMode ∧ Claim.IllegalVectorOperandsAreRefused

/-- Compares write a mask: for active positions from VSTART to VL the condition on the two values, the second being vb's element or the scalar,
their order exchanged by sw; positions below VSTART keep their bit, masked-off ones keep it or are 0 with z, and bits from VL on are 0. No flag is set and
only md, VSTART and the pc change. VMERGE selects per element between va and vb and sets no flag. -/
def Sys2Proof.Claim.ComparesWriteMasksAndMergeSelects : Prop :=
  ∀ (s : State) (md m : MReg) (cond : BitVec 3) (vd va vb : VReg) (xs : XReg) (ca cb z sw : Bool), let h := s.hart; let tag := h.tagOf va; let ty := tagType tag
    VecReady s → h.fits tag = true →
    ((tyFA ty = true ∨ tyIN ty = true) → md ≠ 0 → s.maskOwned md = false → h.vl ≤ 8192 →
      let old := fun i => (h.rm md).getLsbD i
      let f := fun (g : Nat → Bool) i => if h.vl ≤ i then false else if i < h.vs then old i else if h.active m i then g i else !z && old i
      (h.tagOf vb = tag → ∃ t, exec (.vcmp md cond va vb m ca cb z) s = .next t ∧
        MaskWrites s t md (f fun i => condNum cond.toNat (toNum ty (h.elem va i)) (toNum ty (h.elem vb i)))) ∧
      (let x := toNum ty ((s.rx xs).toNat % 2 ^ tyBits ty)
        ∃ t, exec (.vcmpX md cond va xs sw m ca z) s = .next t ∧
          MaskWrites s t md (f fun i => if sw then condNum cond.toNat x (toNum ty (h.elem va i)) else condNum cond.toNat (toNum ty (h.elem va i)) x))) ∧
    (tyBW ty = true → h.tagOf vb = tag → ∃ t, exec (.vmerge vd va vb m ca cb) s = .next t ∧
      VecWrites s t 4 vd tag (elementCodes h vd tag 0 false fun k => if h.active m k then h.elem va k else h.elem vb k) 0)

/-- The cross-lane permutes, when their source conditions and R183's hold: each writes vd alone under its result tag, every source read before. VRESHUF
gives the other layout; VPERM gathers by vb, 0 beyond va's capacity; VZIP and VUNZIP take from the pair va, va + 1; VSLIDEUP keeps the positions below its
count and VSLIDEDN moves zeros in at VL; VRING turns the lanes; VEXPAND hands elements to active positions in order; VIOTA counts them; VCOMPRESS packs the
active elements and clears the rest. That they take every element below VL whatever VSTART holds is the model's reading (log entry 22), and so is that VIOTA has a ca bit, as the opcode table
has it (log entry 64). -/
def Sys2Proof.Claim.PermutesMoveElements : Prop :=
  ∀ (s : State) (vd va vb : VReg) (m : MReg) (ca cb z : Bool) (imm : BitVec 6), let h := s.hart; let tag := h.tagOf va; let packed := mkTag (tagType tag) false
    let c := h.capacity tag; let none' := fun (_ : Nat) => false; let src := h.fits tag && tyBW (tagType tag); let pair := src && va != 63 && h.tagOf (va + 1) == tag
    let two := fun (b : Bool) k => if b then h.elem (va + 1) k else h.elem va k; let row := fun k => if k < c then h.elem va k else h.elem (va + 1) (k - c)
    VecReady s →
    (∀ q ∈ [(Instr.vreshuf vd va m ca z, vd != va && decide (tagBits tag ≤ h.ebits) && h.fits tag, tag ^^^ 0x20, none', fun i => h.elem va i),
        (.vperm vd va vb m ca cb z, src && h.permSource vb && [9, 18, 19].contains (tagType (h.tagOf vb)), packed, none',
          fun i => if h.elem vb i < c then h.elem va (h.elem vb i) else 0),
        (.vzipLo vd va m ca z, pair, packed, none', fun i => two (i % 2 == 1) (i / 2)),
        (.vzipHi vd va m ca z, pair, packed, none', fun i => two (i % 2 == 1) (c / 2 + i / 2)),
        (.vunzipEven vd va m ca z, pair, packed, none', fun i => row (2 * i)), (.vunzipOdd vd va m ca z, pair, packed, none', fun i => row (2 * i + 1)),
        (.vslideup vd va imm m ca z, src && vd != va, packed, fun i => decide (i < imm.toNat), fun i => h.elem va (i - imm.toNat)),
        (.vslidedn vd va imm m ca z, src, packed, none', fun i => if i + imm.toNat < h.vl then h.elem va (i + imm.toNat) else 0),
        (.vring vd va imm m ca z, !tagSpread tag, tag, none', fun i => regElem (ringMove (h.rv va) h.lanes imm.toNat) tag h.ebits i),
        (.vexpand vd va m ca z, src, packed, none', fun i => h.elem va ((List.range i).countP fun k => h.active m k)),
        (.viota vd m ca z, h.vec.ew != 0, mkTag h.iotaType false, none', fun i => (List.range i).countP fun k => h.active m k)],
      q.2.1 = true → h.fits q.2.2.1 = true →
      ∃ t, exec q.1 s = .next t ∧ VecWrites s t 4 vd q.2.2.1 (permuteCodes h vd q.2.2.1 m z q.2.2.2.1 q.2.2.2.2) 0) ∧
    (src = true → vd ≠ va → h.fits packed = true → ∃ t, exec (.vcompress vd va m ca) s = .next t ∧
      VecWrites s t 4 vd packed (((List.range h.vl).filter fun i => h.active m i).map fun i => h.elem va i) 0)

/-- VRNG writes to every active element below VL the stream value at its index, as N32, N64 or an exact F32 in [0, 1), masked-off ones merged or zeroed, and
advances RNGCTR by VL; no flag, and only vd, RNGCTR, VSTART and the pc change. -/
def Sys2Proof.Claim.RandomElementsComeFromTheCounter : Prop :=
  ∀ (s : State) (vd : VReg) (m : MReg) (z : Bool), let h := s.hart; let g := fun k => mix64 h.csr.rngkey h.csr.rngstream (h.csr.rngctr + BitVec.ofNat 64 k)
    VecReady s → ∀ q ∈ [(Instr.vrngN32 vd m z, mkTag 19 false, fun k => (g k).toNat % 2 ^ 32), (.vrngN64 vd m z, mkTag 17 false, fun k => (g k).toNat),
        (.vrngF32 vd m z, mkTag 0 false, fun k => ((fpFormat 0).round .rne false false 0 (.fin false ((g k).toNat / 2 ^ 40) (-24) false)).code)],
      h.fits q.2.1 = true → ∃ t u, exec q.1 s = .next t ∧ VecWrites s u 4 vd q.2.1 (permuteCodes h vd q.2.1 m z (fun _ => false) q.2.2) 0 ∧
        t = u.onHart fun k => { k with csr := { k.csr with rngctr := h.csr.rngctr + BitVec.ofNat 64 h.vl } }

/-- VCVT converts each active element once, in FRM's mode or SR, to the target type, under the layout rules of R204 to R206: it writes vd alone, or the nibble
plane to vd and the crumb plane to vd + 1 for a six-bit target, and ORs the flags into FFLAGS. VMULSC multiplies each element by its lane's scale. -/
def Sys2Proof.Claim.VectorConversionsRoundOnce : Prop :=
  ∀ (s u : State) (d : Seed) (vd va vb : VReg) (ty : BitVec 5) (sr ca cb z : Bool) (m : MReg), let h := s.hart; let src := tagType (h.tagOf va); let dst := ty.toNat
    let mode := if sr then RMode.sr else s.frmMode; let tag := h.cvtTag va dst
    VecReady s →
    (h.cvtLegal vd va dst = true → Draws s mode (cvtDraws src dst) h.vl d u →
      let r := fun k => convertRes src dst mode false (d.rnd16 k) (if isSix src then h.elem (va + 1) k * 16 + h.elem va k else h.elem va k)
      let flags := computedFlags h m fun k => (r k).flags
      (isSix dst = false → ∃ t, exec (.vcvt vd va ty sr m ca z) s = .next t ∧ VecWrites u t 4 vd tag (elementCodes h vd tag m z fun k => (r k).code) flags) ∧
      (isSix dst = true → ∃ t v codes, exec (.vcvt vd va ty sr m ca z) s = .next t ∧
        codes = (List.range h.vl).map (fun i => let old := h.elemAs (vd + 1) (tag ||| 0x40) i * 16 + h.elemAs vd tag i
          if i < h.vs then old else if h.active m i then (r i).code else if z then 0 else old) ∧
        VecWrites u v 4 vd tag (codes.map (· % 16)) flags ∧ t = v.onHart fun k => k.setVec (vd + 1) (tag ||| 0x40) (packElems (tag ||| 0x40) h.ebits (codes.map (· / 16))))) ∧
    (src ∈ [0, 1, 2] → h.fits (h.tagOf va) = true → tagType (h.tagOf vb) = 13 → Draws s s.frmMode true h.vl d u →
      let sc := fun k => (h.rv vb).toNat / 2 ^ (512 * (elemPos (h.tagOf va) h.ebits k / 512)) % 256
      let r := fun k => scaleElem src s.frmMode (d.rnd16 k) (h.elem va k) (sc k)
      ∃ t, exec (.vmulsc vd va vb m ca cb z) s = .next t ∧
        VecWrites u t 4 vd (h.tagOf va) (elementCodes h vd (h.tagOf va) m z fun k => (r k).code) (computedFlags h m fun k => (r k).flags))

/-- VRNG, VCVT and VMULSC. -/
def Obligations.RandomElementsAndConversions : Prop := Claim.RandomElementsComeFromTheCounter ∧ Claim.VectorConversionsRoundOnce

/-- Moves between scalar and vector registers. VBCAST writes the low bits of xs to the elements of vd under its own tag; VMVX gives element xi of va,
sign-extended for the I types and VC2, zero-extended otherwise, and 0 beyond the capacity; VXMV changes element xi of vd alone, and nothing beyond it.
No flag is set; VSTART[31:0] is cleared. -/
def Sys2Proof.Claim.ScalarVectorMovesTouchOneElement : Prop :=
  ∀ (s : State) (vd va : VReg) (xs xi : XReg) (ca z : Bool) (m : MReg), let h := s.hart; let k := (s.rx xi).toNat
    VecReady s →
    (h.fits (h.tagOf vd) = true → tyBW (tagType (h.tagOf vd)) = true →
      (∃ t, exec (.vbcast vd xs false m z) s = .next t ∧
        VecWrites s t 4 vd (h.tagOf vd) (elementCodes h vd (h.tagOf vd) m z fun _ => (s.rx xs).toNat % 2 ^ tagBits (h.tagOf vd)) 0) ∧
      (∃ t, exec (.vxmv vd xs xi false) s = .next t ∧
        (∀ j, j < h.capacity (h.tagOf vd) → t.hart.elem vd j = if j = k then (s.rx xs).toNat % 2 ^ tagBits (h.tagOf vd) else h.elem vd j) ∧
        (∀ r, r ≠ vd → t.hart.rv r = h.rv r) ∧
        t = { vstartCleared s with hart := { (vstartCleared s).hart with pc := h.pc + 4, run := .running, wait := none, vec := { h.vec with v := t.hart.vec.v } } })) ∧
    (h.fits (h.tagOf va) = true → tyBW (tagType (h.tagOf va)) = true → ∃ t, exec (.vmvx xs va xi false ca) s = .next t ∧ WritesReg (vstartCleared s) t 4 xs
      (if k < h.capacity (h.tagOf va) then
        (if tagType (h.tagOf va) ∈ [8, 10, 11, 12, 16] then BitVec.ofInt 64 (intOf (tagType (h.tagOf va)) (h.elem va k)) else BitVec.ofNat 64 (h.elem va k)) else 0))

/-- The permutes, and the moves between scalar and vector registers. -/
def Obligations.PermutesAndMovesMoveElements : Prop := Claim.PermutesMoveElements ∧ Claim.ScalarVectorMovesTouchOneElement

/-- The special-function instructions on legal operands: VSF gives every active element its function's value in the element's type, VSFTAB the table entry
that the index word names, VSFPOLY rne_f32(vd × va + vb) and VSFSCL rne_f32(va × 2^vb), each in vd alone with the flags of the computed elements (VSFTAB and
VSFPOLY set none); VSFRR writes f, the index word and n to vd, vd + 1 and vd + 2 and sets no flag. -/
def Obligations.SpecialFunctionStepsWriteTheirResults : Prop :=
  ∀ (s : State) (vd va vb : VReg) (fn : BitVec 6) (src : SfSource) (m : MReg) (ca cb z : Bool), let h := s.hart; let tag := h.tagOf va; let ty := tagType tag
    VecReady s →
    (s.sfSource fn.toNat = some src →
      (h.fits tag = true → ty ∈ [0, 1, 2] → ∃ t, exec (.vsf vd va fn m ca z) s = .next t ∧
        VecWrites s t 4 vd tag (elementCodes h vd tag m z fun k => (src.apply h.csr.exact ty (h.elem va k)).code)
          (computedFlags h m fun k => (src.apply h.csr.exact ty (h.elem va k)).flags)) ∧
      (h.fits tag = true → ty = 19 → ∃ t, exec (.vsftab vd va fn m ca z) s = .next t ∧
        VecWrites s t 4 vd (mkTag 0 (tagSpread tag)) (elementCodes h vd (mkTag 0 (tagSpread tag)) m z fun k =>
          src.entry (h.elem va k / 8 % 256) (h.elem va k % 8)) 0) ∧
      (vd.val ≤ 61 → ty ∈ [0, 1, 2] → h.cvtLegal vd va 0 = true → ∃ t, exec (.vsfrr vd va fn m ca z) s = .next t ∧
        (∀ r, r ≠ vd → r ≠ vd + 1 → r ≠ vd + 2 → t.hart.rv r = h.rv r ∧ t.hart.tagOf r = h.tagOf r) ∧ t.hart.csr.fflags = h.csr.fflags ∧
        (∀ q ∈ [(vd, 0, fun x => (src.reduced x).1), (vd + 1, 19, fun x => (src.reduced x).2.1), (vd + 2, 11, fun x => (src.reduced x).2.2)],
          let g := mkTag q.2.1 (tagSpread (h.cvtTag va 0))
          t.hart.tagOf q.1 = g ∧ t.hart.rv q.1 = packElems g h.ebits (elementCodes h q.1 g m z fun k => q.2.2 (toNum ty (h.elem va k)))) ∧
        t.hart.pc = h.pc + 4 ∧ t = { s with hart := t.hart } ∧ t.hart.x = h.x ∧ t.hart.vec.m = h.vec.m)) ∧
    (h.fits tag = true → ty = 0 → h.tagOf vb = tag → h.tagOf vd = tag → ∃ t, exec (.vsfpoly vd va vb m ca cb z) s = .next t ∧
      VecWrites s t 4 vd tag (elementCodes h vd tag m z fun k => (fmaRes 0 .rne 0 (toNum 0 (h.elem vd k)) (toNum 0 (h.elem va k)) (toNum 0 (h.elem vb k))).code) 0) ∧
    (h.fits tag = true → ty = 0 → h.tagOf vb = mkTag 11 (tagSpread tag) → ∃ t, exec (.vsfscl vd va vb m ca cb z) s = .next t ∧
      VecWrites s t 4 vd tag (elementCodes h vd tag m z fun k => (sfScale (h.elem va k) (h.elem vb k)).code)
        (computedFlags h m fun k => (sfScale (h.elem va k) (h.elem vb k)).flags))

/-- Row sums and extremes on legal operands: one result per whole row, in vd alone under the accumulation type or va's type, packed; rows before VSTART keep
theirs; VRSUM and VRSSQ leave the last row's sum in RACC and OR their flags, VRMAX and VRMIN set none; VSTART[31:0] is cleared. A VSTART inside a row
or a block is rounded down to its start, the model's reading (log entry 71). -/
def Sys2Proof.Claim.RowReductionsWriteOneResultPerRow : Prop :=
  ∀ (s : State) (vd va : VReg) (m : MReg) (ca : Bool), let h := s.hart; let tag := h.tagOf va
    VecReady s →
    (h.sumLegal vd va = true → ∀ q ∈ [(Instr.vrsum vd va m ca, false), (.vrssq vd va m ca, true)],
      let g := h.sumTag va
      let l := (List.range h.rows).map fun r => if r < h.firstRow then (⟨h.elemAs vd g r, 0⟩ : Res) else h.rowResult va m q.2 r
      ∃ t u, exec q.1 s = .next t ∧ VecWrites s u 4 vd g (l.map (·.code)) (unionFlags l) ∧
        t = u.onHart fun k => { k with csr := { k.csr with racc := if h.firstRow < h.rows then BitVec.ofNat 64 (l.getLastD ⟨0, 0⟩).code else h.csr.racc } }) ∧
    (h.extremeLegal vd va = true → ∀ q ∈ [(Instr.vrmax vd va m ca, true), (.vrmin vd va m ca, false)],
      let g := mkTag (tagType tag) false
      ∃ t, exec q.1 s = .next t ∧ VecWrites s t 4 vd g ((List.range h.rows).map fun r => if r < h.firstRow then h.elemAs vd g r else h.rowExtreme va m q.2 r) 0)

/-- VSOFTMAX and VRNORM on legal operands complete and change vd alone: it keeps va's tag; positions of finished rows and masked-off ones keep their value (or are
0 with z, or in an empty row of VSOFTMAX), positions outside the whole rows below VL are 0. A VSTART inside a row stands for the row's start (log entry 71). -/
def Sys2Proof.Claim.RowNormalisationsWriteOnlyTheirDestination : Prop :=
  ∀ (s u : State) (d : Seed) (vd va : VReg) (m : MReg) (ca z : Bool), let h := s.hart; let tag := h.tagOf va; let ty := tagType tag
    VecReady s → h.fits tag = true → h.rowsLegal tag = true → Draws s s.frmMode true h.vl d u →
    ∀ q ∈ [(Instr.vsoftmax vd va m ca z, decide (ty ∈ [0, 1, 2]), true, h.softPlan va m), (.vrnormRms vd va m ca z, tyFA ty, false, h.normPlan va m false (s.rx 31)),
        (.vrnormLayer vd va m ca z, tyFA ty, false, h.normPlan va m true (s.rx 31))],
      q.2.1 = true → let l := h.rowElems vd tag m z s.frmMode d.rnd16 q.2.2.2
        ∃ t, exec q.1 s = .next t ∧ VecWrites u t 4 vd tag (l.map (·.code)) (unionFlags l) ∧ l.length = h.vl ∧
          (∀ i, i < h.vl → h.rows * h.rowlen ≤ i → (l.getD i ⟨0, 0⟩).code = 0) ∧
          (∀ i, i < h.firstRow * h.rowlen → i < h.rows * h.rowlen → (l.getD i ⟨0, 0⟩).code = h.elemAs vd tag i) ∧
          (∀ i, i < h.rows * h.rowlen → h.firstRow * h.rowlen ≤ i → h.active m i = false → (l.getD i ⟨0, 0⟩).code =
            if z = true ∨ (q.2.2.1 = true ∧ ∀ j, j < h.rowlen → h.active m (i / h.rowlen * h.rowlen + j) = false) then 0 else h.elemAs vd tag i)

/-- The row-group instructions: reductions and normalisations. -/
def Obligations.RowGroupInstructionsWriteTheirDestination : Prop := Claim.RowReductionsWriteOneResultPerRow ∧ Claim.RowNormalisationsWriteOnlyTheirDestination

/-- From queue q to queue q' the kind 5 record of a grant change was posted (R171, R189), with the new count of octets and the one before: behind the queue's records, or
held beside a full queue; one that is already held takes the newest count and keeps the count before the first change. -/
def Sys2Proof.Claim.GrantEvent (q q' : EventQueue) (new old : Nat) : Prop :=
  let e : Event := { kind := 5, detail := BitVec.ofNat 8 new, payload := BitVec.ofNat 64 old }
  q'.stalled = q.stalled ∧ (q.held = none → q.recs.length < 64 → q'.recs = q.recs ++ [⟨q.seq, e⟩] ∧ q'.seq = q.seq + 1 ∧ q'.held = none) ∧
  (q.held = none → 64 ≤ q.recs.length → q'.recs = q.recs ∧ q'.seq = q.seq ∧ q'.held = some e) ∧
  ∀ f, q.held = some f → q'.recs = q.recs ∧ q'.seq = q.seq ∧ q'.held = some { f with detail := e.detail }

/-- VSETVL in vector mode at application level with nothing of the vector side outstanding takes its grant decision o, sets VL to the smaller of rs1 and
VLMAX under the granted lanes and ew, gives it in rd and clears VSTART. The lanes it keeps keep their contents; when the grant changes every other bit of a register, mask
or accumulator column is zero and the kind 5 record is posted or held. In matrix mode the grant stays. -/
def Obligations.VsetvlTakesItsGrantAndSetsTheStrip : Prop :=
  ∀ (s : State) (rd rs1 : XReg) (ew : BitVec 3), let h := s.hart; let o := h.grant.decided.getD (s.decideGrant h.grantTarget)
    h.level = .app →
    (h.vec.matrix = false → s.vectorBusy = false → ∃ t, exec (.vsetvl rd rs1 ew) s = .next t ∧
      t.hart.vec.octets = o ∧ t.hart.vec.ew = ew ∧
      t.hart.csr.vl = BitVec.ofNat 64 (min (s.rx rs1).toNat (8 * octetCount o * 512 / ewBits ew)) ∧ t.hart.csr.vstart = 0 ∧
      (rd ≠ 0 → t.rx rd = t.hart.csr.vl) ∧ (∀ r, r ≠ rd → t.rx r = s.rx r) ∧ t.hart.pc = h.pc + 4 ∧ t.hart.grant.decided = none ∧
      (o = h.vec.octets → t.hart.vec.v = h.vec.v ∧ t.hart.vec.m = h.vec.m ∧ t.hart.vec.acc = h.vec.acc ∧ t.hart.events = h.events) ∧
      (o ≠ h.vec.octets → let both := min (octetCount o) (octetCount h.vec.octets)
        (∀ r k, 4096 * both ≤ k → (t.hart.rv r).getLsbD k = false) ∧
        (∀ m : MReg, m ≠ 0 → ∀ k, (t.hart.rm m).getLsbD k = (decide (k < 1024 * both) && (h.rm m).getLsbD k)) ∧
        (∀ k, t.hart.vec.acc.getLsbD k = (decide (k < 16384 * both) && h.vec.acc.getLsbD k)) ∧
        GrantEvent h.events t.hart.events (octetCount o) (octetCount h.vec.octets)) ∧ t.hart.vec.tag = h.vec.tag ∧ t.hart.csr.fflags = h.csr.fflags ∧
      (∀ r k, k < 4096 * min (octetCount o) (octetCount h.vec.octets) → (t.hart.rv r).getLsbD k = (h.rv r).getLsbD k) ∧
      t.mem = s.mem ∧ t = { s with hart := t.hart, agenda := t.agenda } ∧ (t.agenda = s.agenda ∨ t.agenda = s.agenda ++ [.bindGang])) ∧
    (h.vec.matrix = true → ∃ t, exec (.vsetvl rd rs1 ew) s = .next t ∧
      WritesReg { s with hart := { h with vec := { h.vec with ew := ew }, csr := { h.csr with vstart := 0, vl := BitVec.ofNat 64 (min (s.rx rs1).toNat (h.lanes * 512 / ewBits ew)) } } }
        t 4 rd (BitVec.ofNat 64 (min (s.rx rs1).toNat (h.lanes * 512 / ewBits ew))))

/-- VSETTAG writes a legal tag and raises ILLEGAL_OPERAND for any other; VGETTAG reads it; MODE.V and MODE.M, with no earlier vector work outstanding and the
array not lent, switch the lanes, leave no B tile in place and (MODE.V) free borrowed segments, and wait otherwise. All four clear VSTART[31:0]. -/
def Obligations.TagsAndModesChangeAsAsked : Prop :=
  ∀ (s : State) (v : VReg) (rd rs1 : XReg), let h := s.hart; let tag := (s.rx rs1).setWidth 8
    h.level = .app →
    (tagLegal tag = true → ∃ t, exec (.vsettag v rs1) s = .next t ∧ t.hart.tagOf v = tag ∧ (∀ r, r ≠ v → t.hart.tagOf r = h.tagOf r) ∧
      t = { vstartCleared s with hart := { (vstartCleared s).hart with pc := h.pc + 4, run := .running, wait := none, vec := { h.vec with tag := t.hart.vec.tag } } }) ∧
    (tagLegal tag = false → IllegalOperand (.vsettag v rs1) s) ∧
    (∃ t, exec (.vgettag rd v) s = .next t ∧ WritesReg (vstartCleared s) t 4 rd (BitVec.ofNat 64 (h.tagOf v).toNat)) ∧
    (s.lent = false → s.vectorBusy = false →
      (∃ t, exec .modeM s = .next t ∧ t = { s with hart := { (vstartCleared s).hart with pc := h.pc + 4, run := .running, wait := none, vec := { h.vec with matrix := true, tile := none } } }) ∧
      (∃ t, exec .modeV s = .next t ∧ t.hart.vec.matrix = false ∧ t.hart.vec.tile = none ∧ t.hart.lenders = [] ∧ t.hart.pc = h.pc + 4 ∧ t.hart.vec.v = h.vec.v ∧ t.hart.x = h.x ∧ t.hart.csr = (vstartCleared s).hart.csr ∧ t.mem = s.mem)) ∧
    (s.lent = true ∨ s.vectorBusy = true → exec .modeM s = .next (s.waits .modeM) ∧ exec .modeV s = .next (s.waits .modeV))

/-- The mask group acts on bits below VL: MAND, MOR, MXOR, MANDN and MSET write md, with zero from VL on, unless md is m0 or owned by a stream; MPOPC counts the set
bits of ma and MFIRST finds the lowest, all ones when there is none. Only the destination, VSTART[31:0] and the pc change. -/
def Sys2Proof.Claim.MaskOperationsStayBelowVl : Prop :=
  ∀ (s : State) (md ma mb : MReg) (x : XReg), let h := s.hart; let a := fun i => (h.rm ma).getLsbD i; let b := fun i => (h.rm mb).getLsbD i
    VecReady s →
    (md ≠ 0 → s.maskOwned md = false → ∀ q ∈ [(Instr.mand md ma mb, fun i => a i && b i), (.mor md ma mb, fun i => a i || b i), (.mxor md ma mb, fun i => a i != b i),
        (.mandn md ma mb, fun i => a i && !b i), (.mset md, fun _ => true)],
      ∃ t, exec q.1 s = .next t ∧ MaskWrites s t md fun i => decide (i < h.vl) && q.2 i) ∧
    (md = 0 ∨ s.maskOwned md = true → ∀ i ∈ [Instr.mand md ma mb, .mor md ma mb, .mxor md ma mb, .mandn md ma mb, .mset md], IllegalOperand i s) ∧
    (h.vl ≤ 8192 → (∃ t, exec (.mpopc x ma) s = .next t ∧ WritesReg (vstartCleared s) t 4 x (BitVec.ofNat 64 ((List.range h.vl).filter a).length)) ∧
      (∀ k, k < h.vl → a k = true → (∀ j, j < k → a j = false) → ∃ t, exec (.mfirst x ma) s = .next t ∧ WritesReg (vstartCleared s) t 4 x (BitVec.ofNat 64 k)) ∧
      ((∀ j, j < h.vl → a j = false) → ∃ t, exec (.mfirst x ma) s = .next t ∧ WritesReg (vstartCleared s) t 4 x (BitVec.allOnes 64)))

/-- Compares, merges and the mask group. -/
def Obligations.ComparesAndMaskOperationsWriteMasks : Prop := Claim.ComparesWriteMasksAndMergeSelects ∧ Claim.MaskOperationsStayBelowVl

/-! ### Vector memory -/

namespace Sys2Proof.Claim

/-- Element i of a vector instruction is active: at or above VSTART, below VL, and its mask bit set (R90). -/
def activeElems (h : Hart) (m : MReg) : List Nat := (List.range h.vl).filter fun i => decide (h.vs ≤ i) && h.active m i

/-- Every active element passes the checks of R88 at its address, with the place that `place` gives, nothing holds any of the accesses, and translations are
not cached (DESIGN CHOICE, log entry 9). -/
def AllProbe (s : State) (addr : Nat → Word) (size : Nat) (k : AKind) (m : MReg) (place : Nat → Place) : Prop :=
  s.caching = false ∧ ∀ i ∈ activeElems s.hart m, s.probe (addr i) size size k = .ok (place i) ∧ s.gate (place i) = .opened

end Sys2Proof.Claim

/-- Vector loads whose elements all pass their checks complete, performed at issue: v takes the packed tag of the type, every active element the t bytes (or the nibble) at its
address xb + i·t, xb + i·xs or xb + offset(i), 0 at the register window (the model's reading, log entry 50); elements below VSTART stay, masked-off ones stay or are 0 with z, the tail is 0;
VSTART[31:0] is cleared. Only v, VSTART and the pc change: no byte of memory does. -/
def Sys2Proof.Claim.VectorLoadsFillTheirRegister : Prop :=
  ∀ (s : State) (v vi : VReg) (xb xs : XReg) (ty : BitVec 5) (m : MReg) (ca ff z : Bool) (qos : BitVec 2) (place : Nat → Place),
    let h := s.hart; let tag := mkTag ty.toNat false; let b := tagBits tag; let size := if b = 4 then 1 else b / 8
    let unit := fun i => s.rx xb + BitVec.ofNat 64 (i * b / 8)
    h.level = .app → ty.toNat < 20 → h.fits tag = true → s.relaxed = false →
    ∀ q ∈ [(Instr.vld v xb ty z m, 4, unit, true), (.vldff v xb ty z m, 4, unit, true),
        (.vlds v xb xs ty m ff z qos, 8, fun i => s.rx xb + BitVec.ofNat 64 i * s.rx xs, decide (b ≠ 4)),
        (.vldx v xb vi ty m ca ff z qos, 8, fun i => s.rx xb + BitVec.ofNat 64 (h.elem vi i), decide (b ≠ 4) && h.indexOk vi)],
      q.2.2.2 = true → AllProbe s q.2.2.1 size .read m place →
      ∃ t, exec q.1 s = .next t ∧ VecWrites s t q.2.1 v tag ((List.range h.vl).map fun i =>
        if i ∈ activeElems h m then (if (place i).reg.isSome then 0
            else if b = 4 then Memory.num s.mem (place i).loc 1 / 2 ^ (4 * (i % 2)) % 16 else Memory.num s.mem (place i).loc (b / 8))
        else if z = true ∧ h.vs ≤ i then 0 else h.elemAs v tag i) 0

namespace Sys2Proof.Claim

/-- Element k is the lowest active one whose check fails, with a cause; the places of those below it are given and nothing holds them, and no earlier access of the hart has to be
waited for. -/
def FirstFailure (s : State) (addr : Nat → Word) (size : Nat) (kind : AKind) (m : MReg) (place : Nat → Place) (k : Nat) (c : Cause) : Prop :=
  s.caching = false ∧ (s.relaxed = false ∨ s.unperformed = false) ∧ k ∈ activeElems s.hart m ∧ c ≠ .illegalOperand ∧ c ≠ .illegalInstruction ∧
  s.probe (addr k) size size kind = .error c ∧ ∀ i ∈ activeElems s.hart m, i < k → s.probe (addr i) size size kind = .ok (place i) ∧ s.gate (place i) = .opened

/-- The active elements below element k. -/
def activeBelow (h : Hart) (m : MReg) (k : Nat) : List Nat := (activeElems h m).filter fun i => decide (i < k)

/-- The state with VSTART[31:0] at an element. -/
def startingAt (s : State) (k : Nat) : State :=
  { s with hart := { s.hart with csr := { s.hart.csr with vstart := (s.hart.csr.vstart &&& 0x8000000000000000) ||| BitVec.ofNat 64 (k % 2 ^ 32) } } }

/-- What becomes of an instruction of n bytes that fails at element k with a cause and TRAPVAL (R89, Table 3.3). With no active element below k it traps with VSTART at k and
nothing else done. Otherwise what `done` says of the elements below k has been done, and it traps with VSTART at k, or, where it trims, sets VL to k and TRIM and completes. -/
def StopsAt (i : Instr) (n : Nat) (s : State) (m : MReg) (k : Nat) (c : Cause) (val : Word) (trims : Prop) (done : State → Prop) : Prop :=
  (activeBelow s.hart m k = [] → ∃ t, exec i s = .next t ∧ Traps (insnWord i) (startingAt s k) t c.code val (BitVec.ofNat 64 k)) ∧
  (activeBelow s.hart m k ≠ [] → ¬ trims → ∃ t u, exec i s = .next t ∧ Traps (insnWord i) u t c.code val (BitVec.ofNat 64 k) ∧
    u.hart.csr.vstart = (startingAt s k).hart.csr.vstart ∧ u.hart.csr.vl = s.hart.csr.vl ∧ u.hart.pc = s.hart.pc ∧ u.hart.x = s.hart.x ∧ done u) ∧
  (activeBelow s.hart m k ≠ [] → trims → ∃ t, exec i s = .next t ∧ t.hart.csr.vl = BitVec.ofNat 64 k ∧ t.hart.csr.vstart = 0x8000000000000000 ∧
    t.hart.pc = s.hart.pc + BitVec.ofNat 64 n ∧ t.hart.x = s.hart.x ∧ done t)

end Sys2Proof.Claim

/-- A vector load stops at its first failing element: on alignment or a window range, and in a first-fault form on anything, it is trimmed there. The elements below have been
loaded, the bits of the register from that element on keep their values, and nothing else is written. That a load which traps leaves the tag is the model's choice
(log entry 78), and an element at the register window loads 0 (log entry 50). -/
def Sys2Proof.Claim.LoadsStopAtTheirFirstFailure : Prop :=
  ∀ (s : State) (v vi : VReg) (xb xs : XReg) (ty : BitVec 5) (m : MReg) (ca ff z : Bool) (qos : BitVec 2) (place : Nat → Place) (k : Nat) (c : Cause),
    let h := s.hart; let tag := mkTag ty.toNat false; let b := tagBits tag; let size := if b = 4 then 1 else b / 8
    let unit := fun i => s.rx xb + BitVec.ofNat 64 (i * b / 8)
    h.level = .app → ty.toNat < 20 → h.fits tag = true →
    ∀ q ∈ [(Instr.vld v xb ty z m, 4, unit, true, false), (.vldff v xb ty z m, 4, unit, true, true),
        (.vlds v xb xs ty m ff z qos, 8, fun i => s.rx xb + BitVec.ofNat 64 i * s.rx xs, decide (b ≠ 4), ff),
        (.vldx v xb vi ty m ca ff z qos, 8, fun i => s.rx xb + BitVec.ofNat 64 (h.elem vi i), decide (b ≠ 4) && h.indexOk vi, ff)],
      q.2.2.2.1 = true → FirstFailure s q.2.2.1 size .read m place k c →
      StopsAt q.1 q.2.1 s m k c (q.2.2.1 k) (q.2.2.2.2 = true ∨ c.trims = true) fun u =>
        u.mem = s.mem ∧ (∀ r, r ≠ v → u.hart.rv r = h.rv r ∧ u.hart.tagOf r = h.tagOf r) ∧
        (∀ i, k ≤ i → regElem (u.hart.rv v) tag h.ebits i = regElem (h.rv v) tag h.ebits i) ∧
        ∀ i ∈ activeBelow h m k, regElem (u.hart.rv v) tag h.ebits i = if (place i).reg.isSome then 0
          else if b = 4 then Memory.num s.mem (place i).loc 1 / 2 ^ (4 * (i % 2)) % 16 else Memory.num s.mem (place i).loc (b / 8)

/-- A vector store, and MDRAINST without stochastic rounding, stops at its first failing element: on alignment or a window range, and in a first-fault form on anything, it is
trimmed there. The elements below it have been stored, or are queued in the relaxed policy; no byte outside them is written, no register, and not the accumulator. -/
def Sys2Proof.Claim.StoresStopAtTheirFirstFailure : Prop :=
  ∀ (s : State) (v vi : VReg) (xb xs : XReg) (m : MReg) (ca ff ix sat : Bool) (tres : BitVec 4) (rnd : BitVec 3) (qos : BitVec 2) (place : Nat → Place) (k : Nat) (c : Cause),
    let h := s.hart; let tag := h.tagOf v; let b := tagBits tag; let r := tyBits tres.toNat / 8
    let unit := fun i => s.rx xb + BitVec.ofNat 64 (i * b / 8)
    let elem := fun i => if b = 4 then AccessOp.nibble (i % 2 == 1) (BitVec.ofNat 4 (h.elem v i)) else .store (leBytes (b / 8) (h.elem v i))
    let drained := fun i => AccessOp.store (leBytes r (convertRes h.acct tres.toNat (s.modeOf rnd) sat (Seed.none.rnd16 i) (h.accWord (i / h.lanes) (i % h.lanes))).code)
    let at' := fun i => s.rx xb + (if ix then BitVec.ofNat 64 (h.elem vi (i / h.lanes)) else BitVec.ofNat 64 (i / h.lanes) * s.rx xs) + BitVec.ofNat 64 (i % h.lanes * tyBits tres.toNat / 8)
    let vector := h.fits tag && !tagCrumb tag; let narrow := vector && decide (b ≠ 4); let size := if b = 4 then 1 else b / 8
    h.level = .app → Memory.wf s.mem = true → (∀ i, (place i).reg = none) →
    ∀ q ∈ [(Instr.vst v xb m ca, 4, size, unit, elem, vector, false), (.vstff v xb m ca, 4, size, unit, elem, vector, true),
        (.vsts v xb xs m ca ff qos, 8, size, fun i => s.rx xb + BitVec.ofNat 64 i * s.rx xs, elem, narrow, ff),
        (.vstx v xb vi m ca ff qos, 8, size, fun i => s.rx xb + BitVec.ofNat 64 (h.elem vi i), elem, narrow && h.indexOk vi, ff),
        (.mdrainst xb xs vi ix m tres rnd sat qos, 8, r, at', drained, h.vec.matrix && tresOk tres.toNat && tres != 7 && decide (h.vl ≤ 64 * h.lanes) &&
          (!ix || [0x13, 0x11, 0x10].contains (h.tagOf vi).toNat) && s.modeOf rnd != .sr, false)],
      q.2.2.2.2.2.1 = true → FirstFailure s q.2.2.2.1 q.2.2.1 .write m place k c →
      StopsAt q.1 q.2.1 s m k c (q.2.2.2.1 k) (q.2.2.2.2.2.2 = true ∨ c.trims = true) fun u =>
        u.mem = (if s.relaxed = true then s.mem else (activeBelow h m k).foldl (fun mem i => (q.2.2.2.2.1 i).apply mem (place i).loc) s.mem) ∧
        (∀ a, (∀ i ∈ activeBelow h m k, a < (place i).loc ∨ (place i).loc + q.2.2.1 ≤ a) → Memory.byte u.mem a = Memory.byte s.mem a) ∧ u.hart.vec = h.vec

/-- A VAMO without stochastic rounding stops at its first failing element: on alignment or a window range it is trimmed there. The elements below it have been combined in index
order. VSCATR at an element whose handle or inbox fails (probed for writing, the model's choice, log entry 65) traps there: the trains of the elements below it are sent. -/
def Sys2Proof.Claim.AtomicsAndScattersStopAtTheirFirstFailure : Prop :=
  (∀ (s : State) (v vi : VReg) (xb : XReg) (ty : BitVec 5) (m : MReg) (ca z : Bool) (qos ord : BitVec 2) (scope : BitVec 3) (place : Nat → Place) (k : Nat) (c : Cause),
    let h := s.hart; let n := tyBits ty.toNat / 8; let addr := fun i => s.rx xb + BitVec.ofNat 64 (h.elem vi i); let act := activeBelow h m k
    h.level = .app → h.vamoLegal v vi ty.toNat = true → s.tagsFull (activeElems h m).length = false → s.slicesFull (act.map fun i => (place i).loc) = false →
    Memory.wf s.mem = true → (∀ i, (place i).reg = none) → s.frmMode ≠ .sr → FirstFailure s addr n .write m place k c →
    ∀ q ∈ [(Instr.vamoAdd v xb vi ty m ca z qos ord scope, VamoOp.add), (.vamoMin v xb vi ty m ca z qos ord scope, .min), (.vamoMax v xb vi ty m ca z qos ord scope, .max),
        (.vamoSwap v xb vi ty m ca z qos ord scope, .swap)],
      let r := vamoRun q.2 ty.toNat s.frmMode Seed.none.rnd16 (h.elem v) (act.map fun i => (i, place i)) s.mem
      StopsAt q.1 8 s m k c (addr k) (c.trims = true) fun u =>
        u.mem = r.1 ∧ u.hart.csr.fflags = h.csr.fflags ||| r.2.2 ∧ (∀ a, (∀ i ∈ act, a < (place i).loc ∨ (place i).loc + n ≤ a) → Memory.byte u.mem a = Memory.byte s.mem a) ∧
        (∀ g, g ≠ v → u.hart.rv g = h.rv g) ∧ (∀ p ∈ r.2.1, u.hart.elem v p.1 = p.2) ∧ ∀ i, k ≤ i → u.hart.elem v i = h.elem v i) ∧
  ∀ (s : State) (va vb : VReg) (ty : BitVec 5) (m : MReg) (rnd : BitVec 3) (sat : Bool) (qos : BitVec 2) (k : Nat) (c : Cause) (val : Word),
    let h := s.hart; let handle := fun i => BitVec.ofNat 64 (h.elem vb i); let act := activeBelow h m k; let fails := fun i => s.handleFault (dieOf h.id) (handle i)
    h.level = .app → h.scatrLegal va vb ty.toNat = true → (s.relaxed = false ∨ s.unperformed = false) → s.modeOf rnd ≠ .sr →
    k ∈ activeElems h m → fails k = some (c, val) → (∀ i ∈ act, fails i = none) → c ≠ .illegalOperand → c ≠ .illegalInstruction →
    s.tagsFull (((act.filter fun i => (handle i).toNat != nullHandle).map fun i => handleDie (handle i)).eraseDups).length = false →
    StopsAt (.vscatr va vb ty m rnd sat qos) 8 s m k c val False fun u => u.mem = s.mem ∧ u.hart.vec = h.vec ∧ ∃ new, u.trains = s.trains ++ new ∧
      new.map (fun r => (r.die, r.ty, r.elems)) = ((List.range 8).map fun d => (d, ty.toNat, parcelsFor d (buildParcels (tagType (h.tagOf va)) ty.toNat (s.modeOf rnd) sat
        Seed.none.rnd16 (h.elem va) handle act))).filter fun r => !r.2.2.isEmpty

/-- Vector accesses stop, trapping or trimmed, at their first failing element (R89, R91, R92, Table 3.3). -/
def Obligations.VectorAccessesTrapOrTrimAtTheirFirstFailure : Prop :=
  Claim.LoadsStopAtTheirFirstFailure ∧ Claim.StoresStopAtTheirFirstFailure ∧ Claim.AtomicsAndScattersStopAtTheirFirstFailure

/-- VLDM of a buffer that is full, or filling under a chunk mask, and holds VL elements: v takes the elements of the core's scratchpad at the handle's base, an element
being active when the bit of its 512-byte chunk is set; only v, VSTART and the pc change. An unusable handle raises ILLEGAL_OPERAND. -/
def Sys2Proof.Claim.BufferLoadsReadTheScratchpad : Prop :=
  ∀ (s : State) (v : VReg) (xb : XReg) (ty : BitVec 5) (z : Bool) (m : MReg) (hd : Handle), let h := s.hart; let tag := mkTag ty.toNat false; let b := tagBits tag
    h.level = .app → ty.toNat < 20 → h.fits tag = true → s.relaxed = false →
    ((s.rx xb).toNat < 32 → hd = h.handles.get (Fin.ofNat 32 (s.rx xb).toNat) → (hd.state = .full ∨ (hd.state = .filling ∧ m ≠ 0)) → h.vl * b ≤ 8 * hd.size →
      ∃ t, exec (.vldm v xb ty z m) s = .next t ∧ VecWrites s t 4 v tag ((List.range h.vl).map fun i =>
        if h.vs ≤ i ∧ h.active m (i * b / 4096) = true then
          (let loc := locVsp (dieOf h.id) (coreOf h.id) (hd.base + i * b / 8)
           if b = 4 then Memory.num s.mem loc 1 / 2 ^ (4 * (i % 2)) % 16 else Memory.num s.mem loc (b / 8))
        else if z = true ∧ h.vs ≤ i then 0 else h.elemAs v tag i) 0) ∧
    (32 ≤ (s.rx xb).toNat → IllegalOperand (.vldm v xb ty z m) s)

/-- Vector loads from memory and from a stream buffer. -/
def Obligations.VectorAndBufferLoadsFillTheirRegister : Prop := Claim.VectorLoadsFillTheirRegister ∧ Claim.BufferLoadsReadTheScratchpad

/-- Vector stores whose elements all pass their checks, performed at issue: memory is what storing the active elements of v in index order leaves, t bytes each at its
address, or one nibble of its byte; every byte outside the bytes stored reads as before; only VSTART and the pc change besides. -/
def Sys2Proof.Claim.StoredElementsReachTheirAddresses : Prop :=
  ∀ (s : State) (v vi : VReg) (xb xs : XReg) (m : MReg) (ca ff : Bool) (qos : BitVec 2) (place : Nat → Place),
    let h := s.hart; let tag := h.tagOf v; let b := tagBits tag; let size := if b = 4 then 1 else b / 8
    let unit := fun i => s.rx xb + BitVec.ofNat 64 (i * b / 8)
    h.level = .app → h.fits tag = true → tagCrumb tag = false → s.relaxed = false → Memory.wf s.mem = true → (∀ i, (place i).reg = none) →
    ∀ q ∈ [(Instr.vst v xb m ca, 4, unit, true), (.vstff v xb m ca, 4, unit, true),
        (.vsts v xb xs m ca ff qos, 8, fun i => s.rx xb + BitVec.ofNat 64 i * s.rx xs, decide (b ≠ 4)),
        (.vstx v xb vi m ca ff qos, 8, fun i => s.rx xb + BitVec.ofNat 64 (h.elem vi i), decide (b ≠ 4) && h.indexOk vi)],
      q.2.2.2 = true → AllProbe s q.2.2.1 size .write m place →
      ∃ t, exec q.1 s = .next t ∧
        t.mem = (activeElems h m).foldl (fun mem i => (if b = 4 then AccessOp.nibble (i % 2 == 1) (BitVec.ofNat 4 (h.elem v i)) else .store (leBytes (b / 8) (h.elem v i))).apply mem (place i).loc) s.mem ∧
        (∀ a, (∀ i ∈ activeElems h m, a < (place i).loc ∨ (place i).loc + size ≤ a) → Memory.byte t.mem a = Memory.byte s.mem a) ∧
        t = { s with mem := t.mem, hart := { h with pc := h.pc + BitVec.ofNat 64 q.2.1, run := .running, wait := none
                                                    csr := { h.csr with vstart := h.csr.vstart &&& 0x8000000000000000 } } }

/-- In the relaxed policy a vector store or load whose elements all pass their checks, none of them at the register window, completes with its element accesses queued in
index order, one for each active element, at its place, on the side of the octet that holds it; no byte of memory changes, and a load's register keeps the old value of
an element until it binds. -/
def Sys2Proof.Claim.RelaxedElementAccessesAreQueued : Prop :=
  ∀ (s : State) (v : VReg) (xb : XReg) (ty : BitVec 5) (m : MReg) (ca z : Bool) (place : Nat → Place), let h := s.hart
    h.level = .app → s.relaxed = true → activeElems h m ≠ [] → (∀ i, (place i).reg = none) →
    ∀ q ∈ [(Instr.vst v xb m ca, h.tagOf v, AKind.write, !tagCrumb (h.tagOf v)), (.vld v xb ty z m, mkTag ty.toNat false, .read, decide (ty.toNat < 20))],
      let tag := q.2.1; let b := tagBits tag; let size := if b = 4 then 1 else b / 8; let addr := fun i => s.rx xb + BitVec.ofNat 64 (i * b / 8)
      h.fits tag = true → q.2.2.2 = true → AllProbe s addr size q.2.2.1 m place →
      ∃ t new, exec q.1 s = .next t ∧ t.accesses = s.accesses ++ new ∧ t.mem = s.mem ∧ t.hart.x = h.x ∧ t.hart.pc = h.pc + 4 ∧
        new.map (fun a => (a.hart, a.loc, a.va, a.side)) = (activeElems h m).map (fun i => (h.id, (place i).loc, addr i, elemPos tag h.ebits i / 4096 + 1)) ∧
        (∀ a ∈ new, a.performed = false ∧ a.reads = decide (q.2.2.1 = .read) ∧ a.writes = decide (q.2.2.1 = .write) ∧ a.op.size = size) ∧
        (q.2.2.1 = .write → t.hart.vec = h.vec) ∧ (∀ i ∈ activeElems h m, q.2.2.1 = .read → regElem (t.hart.rv v) tag h.ebits i = h.elemAs v tag i)

/-- Vector stores, and element accesses of the relaxed policy. -/
def Obligations.VectorStoresWriteTheirElements : Prop := Claim.StoredElementsReachTheirAddresses ∧ Claim.RelaxedElementAccessesAreQueued

/-- VAMO whose elements all pass their checks, performed at issue, with a tag for each of its elements and room in their targets' duplicate tables: the elements are read, combined and written in index order, the register takes the
old values of the active elements, and every byte of memory outside the elements' words reads as before. -/
def Obligations.VectorAtomicsReturnOldElements : Prop :=
  ∀ (s : State) (v vi : VReg) (xb : XReg) (ty : BitVec 5) (m : MReg) (ca z : Bool) (qos ord : BitVec 2) (scope : BitVec 3) (place : Nat → Place),
    let h := s.hart; let n := tyBits ty.toNat / 8; let addr := fun i => s.rx xb + BitVec.ofNat 64 (h.elem vi i)
    h.level = .app → h.vamoLegal v vi ty.toNat = true → s.tagsFull (activeElems h m).length = false → s.relaxed = false →
    s.slicesFull ((activeElems h m).map fun i => (place i).loc) = false → Memory.wf s.mem = true → (∀ i, (place i).reg = none) →
    s.frmMode ≠ .sr → AllProbe s addr n .write m place →
    ∀ q ∈ [(Instr.vamoAdd v xb vi ty m ca z qos ord scope, VamoOp.add), (.vamoMin v xb vi ty m ca z qos ord scope, .min), (.vamoMax v xb vi ty m ca z qos ord scope, .max),
        (.vamoSwap v xb vi ty m ca z qos ord scope, .swap)],
      let r := vamoRun q.2 ty.toNat s.frmMode Seed.none.rnd16 (h.elem v) ((activeElems h m).map fun i => (i, place i)) s.mem
      ∃ t, exec q.1 s = .next t ∧ t.mem = r.1 ∧ t.hart.csr.fflags = h.csr.fflags ||| r.2.2 ∧ t.hart.pc = h.pc + 8 ∧
        (∀ a, (∀ i ∈ activeElems h m, a < (place i).loc ∨ (place i).loc + n ≤ a) → Memory.byte t.mem a = Memory.byte s.mem a) ∧
        t.hart.rv v = packElems (h.tagOf v) h.ebits (fillFrom (fun i => if z = true ∧ h.vs ≤ i then 0 else h.elemAs v (h.tagOf v) i) 0 h.vl r.2.1) ∧
        (∀ g, g ≠ v → t.hart.rv g = h.rv g) ∧ t.hart.x = h.x

/-! ### Matrix instructions -/

/-- Matrix instructions in matrix mode at application level, the core's array not lent. A weight-stationary product replaces vc by the accumulated tile, converted under fin; a
result-stationary one updates the accumulator; MDRAIN converts 16 rows of the accumulator to a register and leaves the accumulator; MPRELOAD loads 16 rows; MZERO clears
it and sets its type. Flags are ORed into FFLAGS; the named destination, RNGCTR or SRLOG by a seed (which a product draws under SR unless it accumulates in I32 and rounds nothing: log entry 27), the B tile that a weight-stationary product leaves in place, and the pc change, and nothing else. In vector
mode each raises ILLEGAL_OPERAND. -/
def Sys2Proof.Claim.MatrixProductsUpdateTheirAccumulator : Prop :=
  ∀ (s u : State) (d : Seed) (vc va vb vsa vsb : VReg) (ta tb tacc tres : BitVec 4) (fin half ca cb sat : Bool) (rnd : BitVec 3) (xs : XReg),
    let h := s.hart; let mode := s.modeOf rnd; let plain : Product := ⟨ta.toNat, tb.toNat, tacc.toNat, va, vb, none, rnd⟩
    let scaled : Product := ⟨ta.toNat, tb.toNat, tacc.toNat, va, vb, some (vsa, vsb), rnd⟩
    h.level = .app →
    (h.vec.matrix = true → s.lent = false →
      (Draws s mode (plain.rounds (if fin then some tres.toNat else none)) (2 ^ 16 * (16 * h.lanes)) d u → (fin = true → tresOk tres.toNat = true) →
        ∀ q ∈ [(Instr.mma vc va vb ta tb tacc tres fin half ca cb rnd sat, plain), (.mmax vc va vb vsa vsb ta tb tacc tres fin half ca cb rnd sat, scaled)],
          h.wsLegal q.2 vc = true →
          ∃ t, exec q.1 s = .next t ∧ t = ((u.onHart fun k => (k.wsProduct q.2 vc half (if fin then some (tres.toNat, sat) else none) mode d.rnd16).loadTile q.2).adv 8) ∧
            (∃ f, t.hart.csr = { u.hart.csr with fflags := u.hart.csr.fflags ||| f }) ∧
            (∀ r, r ≠ vc → t.hart.rv r = h.rv r ∧ t.hart.tagOf r = h.tagOf r) ∧ t.hart.vec.acc = h.vec.acc ∧
            (fin = false → t.hart.tagOf vc = h.tagOf vc) ∧ t.mem = u.mem ∧ t.hart.x = h.x) ∧
      (Draws s mode (plain.rounds none) (2 ^ 16 * (64 * h.lanes)) d u →
        ∀ q ∈ [(Instr.mmaRs va vb ta tb tacc tres ca cb rnd sat, plain), (.mmaxRs va vb vsa vsb ta tb tacc tres ca cb rnd sat, scaled)],
          h.rsLegal q.2 = true →
          ∃ t, exec q.1 s = .next t ∧ t = ((u.onHart fun k => k.rsProduct q.2 mode d.rnd16).adv 8) ∧ (∃ f, t.hart.csr = { u.hart.csr with fflags := u.hart.csr.fflags ||| f }) ∧ t.hart.vec.v = h.vec.v ∧ t.hart.vec.accI32 = h.vec.accI32 ∧
            t.mem = u.mem ∧ t.hart.x = h.x) ∧
      (tresOk tres.toNat = true → (s.rx xs).toNat < 4 → Draws s mode (cvtDraws h.acct tres.toNat) (2 ^ 16 * (16 * h.lanes)) d u →
        ∃ t, exec (.mdrain vc xs tres rnd) s = .next t ∧ t.hart.vec.acc = h.vec.acc ∧ t.hart.tagOf vc = tileTag tres.toNat ∧
          t.hart.rv vc = packTile tres.toNat (h.drainTile (s.rx xs).toNat tres.toNat mode d.rnd16) ∧ (∀ r, r ≠ vc → t.hart.rv r = h.rv r ∧ t.hart.tagOf r = h.tagOf r) ∧ (∃ f, t.hart.csr = { u.hart.csr with fflags := u.hart.csr.fflags ||| f }) ∧ t.hart.x = h.x ∧
          t.hart.pc = h.pc + 8 ∧ t.mem = u.mem) ∧
      ((s.rx xs).toNat < 4 → tagType (h.tagOf vc) = h.acct → ∃ t, exec (.mpreload vc xs) s = .next t ∧
        (∀ r j, r < 64 → j < h.lanes → t.hart.accWord r j = if r / 16 = (s.rx xs).toNat then wordAt (h.rv vc) (16 * j + r % 16) else h.accWord r j) ∧
        t = { s with hart := { h with pc := h.pc + 8, run := .running, wait := none, vec := { h.vec with acc := t.hart.vec.acc } } }) ∧
      (tres = 0 ∨ tres = 11 → exec (.mzero tres) s = .next { s with hart := { h with pc := h.pc + 8, run := .running, wait := none, vec := { h.vec with acc := 0, accI32 := tres == 11 } } })) ∧
    (h.vec.matrix = false → ∀ i ∈ [Instr.mma vc va vb ta tb tacc tres fin half ca cb rnd sat, .mmaRs va vb ta tb tacc tres ca cb rnd sat, .mmax vc va vb vsa vsb ta tb tacc tres fin half ca cb rnd sat,
        .mmaxRs va vb vsa vsb ta tb tacc tres ca cb rnd sat, .mdrain vc xs tres rnd, .mpreload vc xs, .mzero tres], IllegalOperand i s)

/-- MDRAINST whose elements pass their checks, without stochastic rounding and performed at issue, stores the converted accumulator words of its active elements and
changes no byte outside them, no register and not the accumulator. -/
def Sys2Proof.Claim.MatrixDrainStoresTheAccumulator : Prop :=
  ∀ (s : State) (xb xstride : XReg) (vi : VReg) (ix sat : Bool) (m : MReg) (tres : BitVec 4) (rnd : BitVec 3) (qos : BitVec 2) (place : Nat → Place),
    let h := s.hart; let ty := tres.toNat; let n := tyBits ty / 8; let mode := s.modeOf rnd
    let addr := fun e => s.rx xb + (if ix then BitVec.ofNat 64 (h.elem vi (e / h.lanes)) else BitVec.ofNat 64 (e / h.lanes) * s.rx xstride) + BitVec.ofNat 64 (e % h.lanes * tyBits ty / 8)
    let code := fun e => (convertRes h.acct ty mode sat (Seed.none.rnd16 e) (h.accWord (e / h.lanes) (e % h.lanes))).code
    h.level = .app → h.vec.matrix = true → tresOk ty = true → ty ≠ 7 → h.vl ≤ 64 * h.lanes → (ix = true → (h.tagOf vi).toNat ∈ [0x13, 0x11, 0x10]) → mode ≠ .sr →
    s.relaxed = false → Memory.wf s.mem = true → (∀ i, (place i).reg = none) → AllProbe s addr n .write m place →
    ∃ t, exec (.mdrainst xb xstride vi ix m tres rnd sat qos) s = .next t ∧
      t.mem = (activeElems h m).foldl (fun mem e => Memory.put mem (place e).loc (leBytes n (code e))) s.mem ∧
      (∀ a, (∀ i ∈ activeElems h m, a < (place i).loc ∨ (place i).loc + n ≤ a) → Memory.byte t.mem a = Memory.byte s.mem a) ∧
      t.hart.vec = h.vec ∧ t.hart.x = h.x ∧ t.hart.pc = h.pc + 8 ∧ t.hart.csr.vl = h.csr.vl

/-- Matrix products, drains and the store of the accumulator. -/
def Obligations.MatrixInstructionsUpdateTheirAccumulator : Prop := Claim.MatrixProductsUpdateTheirAccumulator ∧ Claim.MatrixDrainStoresTheAccumulator

/-! ### The order of sums -/

namespace Sys2Proof.Claim

/-- The sum of the 2^n leaves from k·2^n on: at each level the sums of adjacent pairs are added (R75). -/
def pairSum (add : Res → Res → Res) (leaf : Nat → Res) : Nat → Nat → Res
  | 0, k => leaf k
  | n + 1, k => add (pairSum add leaf n (2 * k)) (pairSum add leaf n (2 * k + 1))

end Sys2Proof.Claim

/-- Row sums. A leaf holds its element exactly in the accumulation format; a block of 256 is summed by a balanced tree of adjacent pairs, padded with +0; the block sums are added left to right, from +0 at a
row's start and from RACC behind it. Each addition is rounded RNE, integer ones saturate and set SAT. A leaf of VRSSQ is the square rounded so; an inactive one is +0. -/
def Sys2Proof.Claim.RowSumsFollowTheBlockOrder : Prop :=
  (∀ (acc n off : Nat) (leaf : Nat → Res), blockSum acc leaf n off = pairSum (accAdd acc) (fun k => if off + k < n then leaf (off + k) else ⟨0, 0⟩) 8 0) ∧
  (∀ (h : Hart) (va : VReg) (m : MReg) (sq : Bool) (q b : Nat), let acc := accType (tagType (h.tagOf va)); let n := h.rowlen; let blocks := (n + 255) / 256
    let sum := fun k => blockSum acc (fun i => h.leaf va m sq (q * n + i)) n (256 * k)
    0 < n → (h.vs ≤ q * n → h.rowResult va m sq q = (List.range blocks).foldl (fun r k => accAdd acc r (sum k)) ⟨0, 0⟩) ∧
      (h.vs = q * n + 256 * b → 0 < b → 256 * b < n →
        h.rowResult va m sq q = (List.range (blocks - b)).foldl (fun r k => accAdd acc r (sum (b + k))) ⟨h.csr.racc.toNat % 2 ^ tyBits acc, 0⟩)) ∧
  (∀ (h : Hart) (va : VReg) (m : MReg) (sq : Bool) (i : Nat), let t := tagType (h.tagOf va); let x := toNum t (h.cvtSource va i); let v := h.leaf va m sq i
    (h.active m i = false → v = ⟨0, 0⟩) ∧
    (h.active m i = true → t ∈ [0, 1, 2, 3, 4, 5, 6, 7, 14, 8, 9, 10, 11, 12, 16, 17, 18, 19] → exactly x = true → let y := toNum (accType t) v.code
      (sq = false → exactly y = true ∧ amount y = amount x ∧ v.flags = 0) ∧
      (sq = true → ∀ r ∈ floatRows, r.t = accType t → amount x * amount x * (amount x * amount x) ≤ r.largest * r.largest → RoundsTo r .rne 0 (amount x * amount x) v.code))) ∧
  (∀ r ∈ floatRows, r.t ∈ [0, 14] → ∀ a b : Res, let x := toNum r.t a.code; let y := toNum r.t b.code; let q := amount x + amount y
    exactly x = true → exactly y = true → q * q ≤ r.largest * r.largest → RoundsTo r .rne 0 q (accAdd r.t a b).code) ∧
  (∀ p ∈ [((16 : Nat), (-2 ^ 63 : Int), (2 ^ 63 - 1 : Int)), (17, 0, 2 ^ 64 - 1)], ∀ a b : Res, let q := intOf p.1 a.code + intOf p.1 b.code; let v := accAdd p.1 a b
    intOf p.1 v.code = max p.2.1 (min p.2.2 q) ∧ v.flags = a.flags ||| b.flags ||| (if p.2.1 ≤ q ∧ q ≤ p.2.2 then 0 else fSAT))

/-- The sum of one PE: exact over its products, +0 when it is zero, scaled exactly by 2^(sa + sb - 254); a NaN product, 0 × ∞, infinite products of both signs and a scale of 0xFF make it NaN, any
other infinite product that infinity; NV is set by 0 × ∞ and by both signs, SN by the scale, and no other flag. -/
def Sys2Proof.Claim.ProductSumsAreExact : Prop :=
  ∀ (sc : Option (Nat × Nat)) (l : List (Machine.Num × Machine.Num)), l ≠ [] → let v := peSum sc l
    let bad := ∃ p ∈ l, (mulNum p.1 p.2).2 = true; let nan := ∃ p ∈ l, p.1 = .nan ∨ p.2 = .nan; let scale := ∃ x y, sc = some (x, y) ∧ (x = 255 ∨ y = 255)
    let inf := fun neg : Bool => ∃ p ∈ l, (mulNum p.1 p.2).1 = .inf neg
    (v.2 &&& fNV ≠ 0 ↔ bad ∨ (inf true ∧ inf false)) ∧ (v.2 &&& fSN ≠ 0 ↔ scale) ∧ v.2 &&& ~~~(fNV ||| fSN) = 0 ∧
    (bad ∨ nan ∨ scale ∨ (inf true ∧ inf false) → v.1 = .nan) ∧ (¬ bad → ¬ nan → ¬ scale → (∀ neg, inf neg → ¬ inf (!neg) → v.1 = .inf neg)) ∧
    ((∀ p ∈ l, exactly p.1 = true ∧ exactly p.2 = true) → ¬ scale → let q := (l.map fun p => amount p.1 * amount p.2).foldr (· + ·) (0 : Rat)
      exactly v.1 = true ∧ (q = 0 → v.1 = Machine.Num.zero) ∧ (sc = none → amount v.1 = q) ∧
      ∀ x y, sc = some (x, y) → amount v.1 = q * (2 : Rat) ^ ((x : Int) + y - 254))

/-- One step of a column and the order of the steps. A step rounds the sum to F32 in the instruction's mode, to an infinity under every mode when it overflows, or saturates to I32 with SAT; ∞ - ∞ gives NaN and NV.
The steps run over segments, passes and PE rows in that order, each over the elements below MKLEN, and each takes the next random value. -/
def Sys2Proof.Claim.ColumnsAccumulateInOrder : Prop :=
  (∀ (mode : RMode) (rnd s : Nat) (pe : Machine.Num × Flags), rnd < 65536 → let x := toNum 0 s; let q := amount x + amount pe.1; let v := accStep 0 mode rnd s pe
    ∀ r ∈ floatRows, r.t = 0 → (exactly x = true → exactly pe.1 = true →
      (q * q ≤ r.largest * r.largest → RoundsTo r mode rnd q v.code) ∧
      ((r.largest + r.lastUnit) * (r.largest + r.lastUnit) ≤ q * q → v = ⟨if q < 0 then 0xFF800000 else 0x7F800000, fOF ||| fNX ||| pe.2⟩)) ∧
      (∀ neg, x = .inf neg → pe.1 = .inf (!neg) → v = ⟨r.nan, fNV ||| pe.2⟩) ∧ (x = .nan ∨ pe.1 = .nan → v = ⟨r.nan, pe.2⟩)) ∧
  (∀ (mode : RMode) (rnd s : Nat) (k : Int) (fl : Flags), let q := intOf 11 s + k; let v := accStep 11 mode rnd s (Machine.Num.ofInt k, fl)
    intOf 11 v.code = max (-2 ^ 31) (min (2 ^ 31 - 1) q) ∧ v.flags = (if -2 ^ 31 ≤ q ∧ q < 2 ^ 31 then 0 else fSAT) ||| fl) ∧
  (∀ (tacc : Nat) (mode : RMode) (rnd : Nat → Nat) (mklen : Nat) (a b : Nat → Machine.Num) (sc : Nat → Option (Nat × Nat)) (l : List (List Nat)) (ks : List Nat) (c : Nat),
    let f := fun steps => sweep tacc mode rnd mklen a b sc steps c; let live := ks.filter fun k => decide (k < mklen)
    let v := accStep tacc mode (rnd l.length) (f l).code (peSum (sc (live.headD 0 / 32)) (live.map fun k => (a k, b k)))
    f [] = ⟨c, 0⟩ ∧ f (l ++ [ks]) = ⟨v.code, (f l).flags ||| v.flags⟩) ∧
  (∀ ta g : Nat, let d := (matPar ta).d; let k0 := (matPar ta).k0
    (wsSteps ta g).length = g * (if ta = 0 then 128 else 64) ∧ (rsSteps ta g).length = g * (if ta = 0 then 2 else 1) ∧
    ∀ seg r, seg < g → r < 64 →
      (ta ≠ 0 → (wsSteps ta g)[64 * seg + r]? = some ((List.range d).map fun u => seg * k0 + d * r + u) ∧ (rsSteps ta g)[seg]? = some ((List.range d).map fun u => seg * d + u)) ∧
      (ta = 0 → ∀ pass, pass < 2 → (wsSteps ta g)[128 * seg + 64 * pass + r]? = some [seg * k0 + 2 * r + pass] ∧ (rsSteps ta g)[2 * seg + pass]? = some [2 * seg + pass]))

/-- Sums of rows, of PEs and of columns follow their orders. -/
def Obligations.SumsFollowTheirOrder : Prop := Claim.RowSumsFollowTheBlockOrder ∧ Claim.ProductSumsAreExact ∧ Claim.ColumnsAccumulateInOrder

/-! ### The special functions -/

namespace Sys2Proof.Claim

/-- A row of Table 7.6: function numbers, and the results for +0, -0, +∞ and -∞. -/
structure SpecialRow where
  fns : List Nat
  zero : Res
  minusZero : Res
  inf : Res
  minusInf : Res
  deriving DecidableEq, Repr

/-- Table 7.6 in a format. -/
def specialRows (r : FloatRow) : List SpecialRow :=
  let sign := 2 ^ (r.e + r.m); let one : Res := ⟨r.bias * 2 ^ r.m, 0⟩; let minusOne : Res := ⟨sign + r.bias * 2 ^ r.m, 0⟩; let half : Res := ⟨(r.bias - 1) * 2 ^ r.m, 0⟩
  let z : Res := ⟨0, 0⟩; let mz : Res := ⟨sign, 0⟩; let inf : Res := ⟨r.max + 1, 0⟩; let bad : Res := ⟨r.nan, fNV⟩; let dz : Res := ⟨r.max + 1, fDZ⟩; let mdz : Res := ⟨sign + r.max + 1, fDZ⟩
  [⟨[0, 1], one, one, inf, z⟩, ⟨[2, 3], mdz, mdz, inf, bad⟩, ⟨[4], dz, mdz, z, mz⟩, ⟨[5], dz, mdz, z, bad⟩, ⟨[6], z, mz, inf, bad⟩, ⟨[7, 9], z, mz, one, minusOne⟩,
    ⟨[8], half, half, one, z⟩, ⟨[10, 11], z, mz, inf, mz⟩, ⟨[12], z, mz, bad, bad⟩, ⟨[13], one, one, bad, bad⟩]

end Sys2Proof.Claim

/-- The reductions of Table 7.4 on a finite input x: n is the floor of y = x × κ or of the binary logarithm of |x|, the row is the floor of the scaled fraction, and f is the rest, rounded RNE to F32 (exact under
LOG and ROOT for an input of at most 24 bits); TRIG reduces n mod 4, ROOT halves it, LIN takes the row of |x| or x - x0, at most the last. NaN, ±∞, zero under LOG and ROOT and a number below x0 under LIN have no cell. The constants are log2 e,
ln 2 and 2/√π to 64 fraction bits and 2/π to 192. -/
def Sys2Proof.Claim.InputsAreReducedByTheirKind : Prop :=
  (∀ r ∈ floatRows, r.t = 0 → ∀ (x : Machine.Num) (b : Nat), exactly x = true → 1 ≤ b → b ≤ 8 → let q := amount x; let a := if q < 0 then -q else q
    (∀ κ, exactly κ = true → ∃ d, (SfKind.exp κ b).reduce x = some d ∧ let u := q * amount κ - d.n; 0 ≤ u ∧ u < 1 ∧
      (d.r : Rat) ≤ u * 2 ^ b ∧ u * 2 ^ b < d.r + 1 ∧ RoundsTo r .rne 0 (u - (d.r : Rat) / 2 ^ b) d.f) ∧
    (∀ κ, exactly κ = true → ∃ d n, (SfKind.trig κ b).reduce x = some d ∧ d.n = n % 4 ∧ let u := a * amount κ - (n : Rat); 0 ≤ u ∧ u < 1 ∧ (d.r : Rat) ≤ u * 2 ^ b ∧ u * 2 ^ b < d.r + 1 ∧ RoundsTo r .rne 0 (u - (d.r : Rat) / 2 ^ b) d.f) ∧
    (q = 0 → (SfKind.log b).reduce x = none ∧ (SfKind.root b).reduce x = none) ∧
    (∀ neg m e, x = .fin neg m e false → 0 < m → m < 2 ^ 24 →
      (∃ d, (SfKind.log b).reduce x = some d ∧ let p := (2 : Rat) ^ d.n; p ≤ a ∧ a < 2 * p ∧ let u := a / p - 1
        (d.r : Rat) ≤ u * 2 ^ b ∧ u * 2 ^ b < d.r + 1 ∧ amount (toNum 0 d.f) = u - (d.r : Rat) / 2 ^ b) ∧
      (∃ d, (SfKind.root b).reduce x = some d ∧ let rows := 2 ^ (b - 1); let o := d.r / rows; let h := d.r % rows; o ≤ 1 ∧ let p := (2 : Rat) ^ (2 * d.n + (o : Int)); p ≤ a ∧ a < 2 * p ∧ let u := a / p - 1
        (h : Rat) ≤ u * rows ∧ u * rows < h + 1 ∧ amount (toNum 0 d.f) = u - (h : Rat) / rows)) ∧
    (∀ (w rows : Nat) (x0 : Option Machine.Num), 0 < rows → (∀ c, x0 = some c → exactly c = true) →
      let v : Rat := match x0 with
        | none => a
        | some c => q - amount c
      (v < 0 → (SfKind.lin w x0 rows).reduce x = none) ∧
      (0 ≤ v → ∃ d, (SfKind.lin w x0 rows).reduce x = some d ∧ d.n = 0 ∧ d.r < rows ∧ (d.r : Rat) ≤ v * 2 ^ w ∧ (d.r + 1 < rows → v * 2 ^ w < d.r + 1) ∧
        let rest := v - (d.r : Rat) / 2 ^ w; rest * rest ≤ r.largest * r.largest → RoundsTo r .rne 0 rest d.f))) ∧
  (∀ k : SfKind, k.reduce .nan = none ∧ ∀ neg, k.reduce (.inf neg) = none) ∧
  amount sfLog2e = (0x171547652B82FE177 : Rat) / 2 ^ 64 ∧ amount sfLn2 = (0xB17217F7D1CF79AC : Rat) / 2 ^ 64 ∧ amount sfErfSlope = (0x120DD750429B6D11B : Rat) / 2 ^ 64 ∧
  amount sfTwoOverPi = (0xA2F9836E4E441529FC2757D1F534DDC0DB6295993C439042 : Rat) / 2 ^ 192

/-- Table 7.6 and the closed-form segments of Table 7.5, in both modes and in F32, BF16 and F16: the listed inputs give their fixed values and flags, a NaN the canonical NaN and no flag; every other input sets NX; a segment's result is
its formula. Between, EXACT mode rounds RNE the combination of 2^n and the value of Horner's rule, whose every step is rounded RNE to F32; exp2 of 0.5 is 0x3FB504F3. -/
def Sys2Proof.Claim.FunctionsGiveTheirValues : Prop :=
  (∀ r ∈ floatRows, r.t ∈ [0, 1, 2] → let sign := 2 ^ (r.e + r.m); let one := r.bias * 2 ^ r.m
    (∀ (exact : Bool) (p : SpecialRow), p ∈ specialRows r → ∀ fn ∈ p.fns, let f := sfBuiltin exact fn r.t
      f 0 = p.zero ∧ f sign = p.minusZero ∧ f (r.max + 1) = p.inf ∧ f (sign + r.max + 1) = p.minusInf ∧
      (∀ c, toNum r.t c = .nan → f c = ⟨r.nan, 0⟩) ∧
      (∀ c, exactly (toNum r.t c) = true → amount (toNum r.t c) < 0 → fn ∈ [2, 3, 5, 6] → f c = ⟨r.nan, fNV⟩) ∧ (fn ∈ [2, 3] → f one = ⟨0, 0⟩) ∧
      (∀ c, exactly (toNum r.t c) = true → amount (toNum r.t c) ≠ 0 → (fn ∈ [2, 3, 5, 6] → 0 < amount (toNum r.t c)) → (fn ∈ [2, 3] → amount (toNum r.t c) ≠ 1) → (f c).flags &&& fNX ≠ 0)) ∧
    (∀ (exact : Bool) (c : Nat), c < 2 ^ tyBits r.t → exactly (toNum r.t c) = true → let v := amount (toNum r.t c); let f := fun fn => sfBuiltin exact fn r.t c; let tiny : Rat := 1 / 2 ^ 24
      v ≠ 0 → (v ≤ -150 → f 0 = ⟨0, fNX⟩) ∧ (128 < v → f 0 = ⟨r.max + 1, fNX⟩) ∧ (v ≤ -104 → f 1 = ⟨0, fNX⟩) ∧ (89 < v → f 1 = ⟨r.max + 1, fNX⟩) ∧
        (v * v ≤ tiny → f 7 = ⟨c, fNX⟩ ∧ f 12 = ⟨c, fNX⟩ ∧ f 13 = ⟨one, fNX⟩ ∧ RoundsTo r .rne 0 (v * amount sfErfSlope) (f 9).code) ∧
        (64 < v * v → f 7 = ⟨(if v < 0 then sign else 0) + one, fNX⟩) ∧ (16 < v * v → f 9 = ⟨(if v < 0 then sign else 0) + one, fNX⟩) ∧
        (16 < v → f 8 = ⟨one, fNX⟩ ∧ f 10 = ⟨c, fNX⟩ ∧ f 11 = ⟨c, fNX⟩) ∧ (v ≤ -16 → f 10 = ⟨sign, fNX⟩) ∧ (v ≤ -88 → f 11 = ⟨sign, fNX⟩)) ∧
    (∀ (fn c : Nat) (d : SfRed), fn < 14 → exactly (toNum r.t c) = true → let x := toNum r.t c; sfSpecial fn x = none → sfClosed fn x = none → (sfKind fn).reduce x = some d →
      let row := sfRow fn d.r; let p0 := sfPoly row (sfDegree fn) 0 d.f; let p1 := sfPoly row 3 4 d.f; let p := amount p0; let p' := amount p1; let sg : Rat := if amount x < 0 then -1 else 1
      exactly p0 = true → (12 ≤ fn → exactly p1 = true) →
      let q : Rat := if fn = 2 then d.n + p else if fn = 3 then (d.n + p) * amount sfLn2 else if fn = 4 then sg * ((2 : Rat) ^ (-d.n) * p) else if fn = 5 then (2 : Rat) ^ (-d.n) * p
        else if fn = 7 ∨ fn = 9 then sg * p else if fn = 8 ∨ fn = 10 ∨ fn = 11 then p
        else if fn = 12 then sg * (if d.n = 0 then p else if d.n = 1 then p' else if d.n = 2 then -p else -p')
        else if fn = 13 then (if d.n = 0 then p' else if d.n = 1 then -p else if d.n = 2 then -p' else p) else (2 : Rat) ^ d.n * p
      q * q ≤ r.largest * r.largest → RoundsTo r .rne 0 q (sfBuiltin true fn r.t c).code)) ∧
  (∀ r ∈ floatRows, r.t = 0 → ∀ (f c : Nat) (l : List Nat), l ≠ [] → let p := toNum 0 (hornerF32 f l); let q := amount p * amount (toNum 0 f) + amount (toNum 0 c)
    exactly p = true → exactly (toNum 0 f) = true → exactly (toNum 0 c) = true → q * q ≤ r.largest * r.largest → RoundsTo r .rne 0 q (hornerF32 f (c :: l))) ∧
  sfBuiltin true 0 0 0x3F000000 = ⟨0x3FB504F3, fNX⟩ ∧ (sfRow 0 128)[0]? = some 0x3FB504F3 ∧ (sfRow 0 0)[1]? = some 0x3F317218

/-- BOUNDED mode is EXACT mode on special inputs and in closed-form segments. In cell segments functions 0 to 3 and 6 to 9 rise with their input, rcp and rsqrt fall on each side of 0, and gelu and silu lie in the range that
Table 7.7 leaves around the function (DESIGN CHOICE, log entry 18; the function's own value to 384 bits is the model's, log entry 17). -/
def Sys2Proof.Claim.BoundedResultsKeepTheirOrder : Prop :=
  ∀ t ∈ [0, 1, 2], ∀ (fn a b : Nat), a < 2 ^ tyBits t → b < 2 ^ tyBits t → let f := sfBuiltin false fn t; let cell := fun c => sfSpecial fn (toNum t c) = none ∧ sfClosed fn (toNum t c) = none
    (¬ cell a → f a = sfBuiltin true fn t a) ∧
    (cell a → cell b → codeKey t a ≤ codeKey t b →
      (fn ∈ [0, 1, 2, 3, 6, 7, 8, 9] → codeKey t (f a).code ≤ codeKey t (f b).code) ∧
      (fn ∈ [4, 5] → (toNum t a).neg? = (toNum t b).neg? → codeKey t (f b).code ≤ codeKey t (f a).code)) ∧
    (cell a → fn ∈ [10, 11] → let w := sfRange fn t (toNum t a); w.1 ≤ codeKey t (f a).code ∧ codeKey t (f a).code ≤ w.2 ∧ w.1 ≤ codeKey t (sfExact fn t a).code ∧ codeKey t (sfExact fn t a).code ≤ w.2)

/-- The built-in special functions: reductions, values and the order of BOUNDED results. -/
def Obligations.SpecialFunctionsFollowTheirSteps : Prop := Claim.InputsAreReducedByTheirKind ∧ Claim.FunctionsGiveTheirValues ∧ Claim.BoundedResultsKeepTheirOrder

/-! ### The Trivet -/

/-- SYNC operations on a handle that names an element, with fewer than 8,192 unconfirmed tags, room in the Trivet's duplicate table, nothing of the hart outstanding and
results bound at once: SCNTADD adds and answers the
old value, SCNTRD reads, SCNTWAIT answers a value that is large enough and waits otherwise; SSEMREL adds, saturating; SSEMACQ subtracts when
nobody waits before it and the value suffices. Each completed operation takes a tag and moves past itself; no byte of memory changes. A handle that
names nothing raises SYNC_HANDLE with the handle in TRAPVAL. -/
def Obligations.CountersAndSemaphoresActAtomically : Prop :=
  ∀ (s : State) (xd xh xv : XReg) (sys : Bool) (e : Nat), let v := s.rx xv
    s.tagsFull 1 = false → s.tableFull dupTrivet 1 = false → s.relaxed = false → s.accesses = [] →
    (s.syncElemOf kCounter (s.rx xh) = some e →
      (∃ t u : State, exec (.scntadd xd xh xv sys) s = .next t ∧ u.trivet = { s.trivet with counters := Sparse.set 0 s.trivet.counters e (s.counter e + v) } ∧
        u.mem = s.mem ∧ u.hart = s.hart ∧ u.others = s.others ∧ WritesReg (u.tagged dupTrivet (s.counter e)) t 8 xd (s.counter e)) ∧
      (∃ t, exec (.scntrd xd xh sys) s = .next t ∧ WritesReg (s.tagged dupTrivet (s.counter e)) t 8 xd (s.counter e)) ∧
      (v.toNat ≤ (s.counter e).toNat → ∃ t, exec (.scntwait xd xh xv sys) s = .next t ∧ WritesReg (s.tagged dupTrivet (s.counter e)) t 8 xd (s.counter e)) ∧
      ((s.counter e).toNat < v.toNat → exec (.scntwait xd xh xv sys) s = .next (s.waits (.scntwait xd xh xv sys)))) ∧
    (s.syncElemOf kSem (s.rx xh) = some e → let x := s.sem e
      (let n : Word := if 2 ^ 64 ≤ x.value.toNat + v.toNat then BitVec.allOnes 64 else x.value + v
        ∃ t, exec (.ssemrel xd xh xv sys) s = .next t ∧ WritesReg ((s.setSem e { x with value := n }).tagged dupTrivet n) t 8 xd n) ∧
      (x.waiters = [] → v.toNat ≤ x.value.toNat → ∃ t, exec (.ssemacq xd xh xv sys) s = .next t ∧
        WritesReg ((s.setSem e { x with value := x.value - v }).tagged dupTrivet (x.value - v)) t 8 xd (x.value - v)) ∧
      (x.waiters = [] → x.value.toNat < v.toNat → ∃ t, exec (.ssemacq xd xh xv sys) s = .next t ∧
        t = (s.setSem e { x with waiters := [(s.hart.id, v)] }).waits (.ssemacq xd xh xv sys))) ∧
    (s.syncElemOf kCounter (s.rx xh) = none → ∀ i ∈ [Instr.scntadd xd xh xv sys, .scntrd xd xh sys, .scntwait xd xh xv sys],
      ∃ t, exec i s = .next t ∧ Traps (insnWord i) s t 7 (s.rx xh) 0) ∧
    (s.syncElemOf kSem (s.rx xh) = none → ∀ i ∈ [Instr.ssemacq xd xh xv sys, .ssemrel xd xh xv sys], ∃ t, exec i s = .next t ∧ Traps (insnWord i) s t 7 (s.rx xh) 0)

/-- Barriers and reduction cells. SBARARR answers the phase it arrived in, and the arrival that completes the count begins the next phase with no arrival;
at a BROKEN barrier it answers the phase with bit 63 and arrives nowhere. SBARWAIT answers 0 once the phase has passed and 1 at a BROKEN barrier, and
waits otherwise. SREDADD records a contribution and answers the number of the round it belongs to; an index out of range or used twice raises
SYNC_HANDLE. SREDGET answers the result once enough rounds have closed. -/
def Obligations.BarriersAndCellsCloseTheirRounds : Prop :=
  ∀ (s : State) (xd xh xv : XReg) (ty : BitVec 3) (sys : Bool) (e : Nat), s.tagsFull 1 = false → s.tableFull dupTrivet 1 = false → s.relaxed = false → s.accesses = [] →
    (s.syncElemOf kBarrier (s.rx xh) = some e → let b := s.barrier e
      (b.n ≠ 0 → b.broken = false → ∃ t c, exec (.sbararr xd xh sys) s = .next t ∧
        c.n = b.n ∧ c.broken = false ∧ (b.arrived + 1 = b.n → c.arrived = 0 ∧ c.phase = b.phase + 1) ∧ (b.arrived + 1 ≠ b.n → c.arrived = b.arrived + 1 ∧ c.phase = b.phase) ∧
        s.hart.sup.ctxid ∈ c.ctxs ∧ WritesReg ((s.setBarrier e c).tagged dupTrivet (BitVec.ofNat 64 b.phase.toNat)) t 8 xd (BitVec.ofNat 64 b.phase.toNat)) ∧
      (b.n ≠ 0 → b.broken = true → (∃ t, exec (.sbararr xd xh sys) s = .next t ∧
        WritesReg (s.tagged dupTrivet (BitVec.ofNat 64 (2 ^ 63 + b.phase.toNat))) t 8 xd (BitVec.ofNat 64 (2 ^ 63 + b.phase.toNat))) ∧
        ∃ t, exec (.sbarwait xd xh xv sys) s = .next t ∧ WritesReg (s.tagged dupTrivet 1) t 8 xd 1) ∧
      (b.n ≠ 0 → b.broken = false → b.phase.toNat ≠ (s.rx xv).toNat % 2 ^ 32 → ∃ t, exec (.sbarwait xd xh xv sys) s = .next t ∧ WritesReg (s.tagged dupTrivet 0) t 8 xd 0) ∧
      (b.n ≠ 0 → b.broken = false → b.phase.toNat = (s.rx xv).toNat % 2 ^ 32 → exec (.sbarwait xd xh xv sys) s = .next (s.waits (.sbarwait xd xh xv sys))) ∧
      (b.n = 0 → ∀ i ∈ [Instr.sbararr xd xh sys, .sbarwait xd xh xv sys], ∃ t, exec i s = .next t ∧ Traps (insnWord i) s t 7 (s.rx xh) 0)) ∧
    (s.cellElem xh ty = some e → let c := s.cell e
      (c.refuses (s.rx xd) = false → ∃ t, exec (.sredadd xd xh xv ty sys) s = .next t ∧
        WritesReg ((s.setCell e (c.add (s.rx xd) (s.rx xv))).tagged dupTrivet (BitVec.ofNat 64 (c.rounds + 1).toNat)) t 8 xd (BitVec.ofNat 64 (c.rounds + 1).toNat)) ∧
      (c.n ≤ (s.rx xd).toNat ∨ (∃ x ∈ c.contrib, x.1 = (s.rx xd).toNat) → ∃ t, exec (.sredadd xd xh xv ty sys) s = .next t ∧ Traps (insnWord (.sredadd xd xh xv ty sys)) s t 7 (s.rx xh) 0) ∧
      ((s.rx xv).toNat % 2 ^ 32 ≤ c.rounds.toNat → ∃ t, exec (.sredget xd xh xv ty sys) s = .next t ∧ WritesReg (s.tagged dupTrivet c.result) t 8 xd c.result) ∧
      (c.rounds.toNat < (s.rx xv).toNat % 2 ^ 32 → exec (.sredget xd xh xv ty sys) s = .next (s.waits (.sredget xd xh xv ty sys)))) ∧
    (s.cellElem xh ty = none → ∀ i ∈ [Instr.sredadd xd xh xv ty sys, .sredget xd xh xv ty sys], ∃ t, exec i s = .next t ∧ Traps (insnWord i) s t 7 (s.rx xh) 0)

/-- The Trivet's own steps. A waiting hart whose condition has come about completes: SCNTWAIT_SATISFIED, SBARWAIT_RELEASE, SSEMACQ_GRANT and SREDGET_SATISFIED of
the current hart do what its waiting instruction now does. TRVRESET clears a barrier's arrivals and BROKEN, keeping its phase, or sets a semaphore; TRVSET sets a counter or a semaphore
to TRVDATA and begins a barrier or a cell afresh. -/
def Obligations.TrivetStepsCompleteWaitersAndResets : Prop :=
  (∀ (s : State) (xd xh xv : XReg) (ty : BitVec 3) (sys : Bool),
    (s.hart.wait = some (.scntwait xd xh xv sys) → exec (.scntwaitSatisfied s.hart.id) s = exec (.scntwait xd xh xv sys) s) ∧
    (s.hart.wait = some (.sbarwait xd xh xv sys) → exec (.sbarwaitRelease s.hart.id) s = exec (.sbarwait xd xh xv sys) s) ∧
    (s.hart.wait = some (.sredget xd xh xv ty sys) → exec (.sredgetSatisfied s.hart.id) s = exec (.sredget xd xh xv ty sys) s) ∧
    (∀ k w rest, (s.sem k).waiters = (s.hart.id, w) :: rest → s.hart.wait = some (.ssemacq xd xh xv sys) → exec (.ssemacqGrant k) s = exec (.ssemacq xd xh xv sys) s)) ∧
  (∀ (s : State) (i n ty : Nat) (v : BitVec 32),
    (i < 4096 → (∃ t, exec (.trvresetBarrier i) s = .next t ∧ t = s.setBarrier i { s.barrier i with arrived := 0, broken := false, ctxs := [] }) ∧
      (∃ t, exec (.trvresetSemaphore i v) s = .next t ∧ t = s.setSem i { s.sem i with value := BitVec.ofNat 64 v.toNat }) ∧
      ∃ t, exec (.trvsetSemaphore i) s = .next t ∧ t = s.setSem i { s.sem i with value := s.trivet.trvdata }) ∧
    (i < 65536 → exec (.trvsetCounter i) s = .next (s.setCounter i s.trivet.trvdata)) ∧
    (i < 2560 → 1 ≤ n → n ≤ 1536 → ∃ t, exec (.trvsetBarrier i n) s = .next t ∧ t = s.setBarrier i ⟨n, 0, 0, false, []⟩) ∧
    (i < 1024 → 1 ≤ n → n ≤ 1536 → ty < 3 → ∃ t, exec (.trvsetCell i n ty) s = .next t ∧ t = s.setCell i ⟨BitVec.ofNat 2 ty, n, 0, 0, []⟩))

/-! ### Engines, queues and gangs -/

/-- STRM and STRMW whose operands name a buffer and whose every memory element passes its checks begin a transfer: the handle becomes FILLING or DRAINING, the chunk mask
is cleared, a command that holds the element locations joins the others, its line requests (STRM) or its chunks (STRMW) and its completion become due, and the pc
moves on; no byte of memory changes yet. With VL = 0 the transfer is over at once. -/
def Sys2Proof.Claim.StreamCommandsBeginTheirTransfer : Prop :=
  ∀ (s : State) (out : Bool) (h : BitVec 5) (xa xb xc : XReg) (ty : BitVec 5) (mk : MReg) (qos : BitVec 2) (ix : Bool) (vi : VReg) (ev : Bool) (b : Nat × Nat) (place : Nat → Place),
    let o : StreamOp := ⟨out, h, xa, xb, xc, ty.toNat, mk, ix, vi, ev⟩; let n := inboxSize ty.toNat
    s.streamBuffer o = some b → s.caching = false →
    (∀ i, i < s.hart.vl → s.probe (s.streamAddr o i) n n (if out then .write else .read) = .ok (place i) ∧ s.gate (place i) = .opened) →
    ∃ t, exec (if out then .strmw h xa xb xc ty mk qos ix vi ev else .strm h xa xb xc ty mk qos ix vi ev) s = .next t ∧
      t.mem = s.mem ∧ t.hart.pc = s.hart.pc + 8 ∧ t.hart.x = s.hart.x ∧ t.hart.vec.v = s.hart.vec.v ∧
      (0 < s.hart.vl → (t.hart.handle h.toNat).state = (if out then .draining else .filling) ∧ (t.hart.handle h.toNat).base = b.1 ∧
        (∃ c, t.streams = s.streams ++ [c] ∧ c.hart = s.hart.id ∧ c.handle = h.toNat ∧ c.out = out ∧ c.count = s.hart.vl ∧ c.chunksDone = [] ∧
          c.locs = (List.range s.hart.vl).map fun i => (place i).loc) ∧
        t.agenda = s.agenda ++ ((if out then (List.range ((s.hart.vl * n + 511) / 512)).map (Due.chunkDone s.hart.id h.toNat ·) else [.streamRequest (s.hart.id / 4)]) ++
          [.streamComplete s.hart.id h.toNat])) ∧
      (s.hart.vl = 0 → t.streams = s.streams ∧ (t.hart.handle h.toNat).state = if out then .free else .full)

/-- HWAIT answers the handle's state code unless it is in transfer and differs from the state named, when it waits; HSTATE answers it at once; HFREE moves a FULL handle to
FREE and raises ILLEGAL_OPERAND for any other. At supervisor level all three raise ILLEGAL_OPERAND. -/
def Sys2Proof.Claim.HandleControlReadsAndFreesHandles : Prop :=
  ∀ (s : State) (xa : XReg) (h target : BitVec 5), let x := s.hart.handle h.toNat; let moving := x.state = .filling ∨ x.state = .draining
    (s.hart.level = .app →
      (¬ moving ∨ x.state.code = target.toNat → Yields (.hwait xa h target) s 8 xa (BitVec.ofNat 64 x.state.code)) ∧
      (moving → x.state.code ≠ target.toNat → exec (.hwait xa h target) s = .next (s.waits (.hwait xa h target))) ∧
      Yields (.hstate xa h) s 8 xa (BitVec.ofNat 64 x.state.code) ∧
      (x.state = .full → ∃ t, exec (.hfree h) s = .next t ∧ t = (s.onHart fun g => g.setHandle h.toNat { x with state := .free }).adv 8) ∧
      (x.state ≠ .full → IllegalOperand (.hfree h) s)) ∧
    (s.hart.level = .sup → ∀ i ∈ [Instr.hwait xa h target, .hstate xa h, .hfree h], IllegalOperand i s)

/-- XCOPY whose operands are legal and whose ranges pass their checks posts a command to its queue on the hart's die when the queue has fewer than 64: the command holds
the ranges and the flag, the pc moves on and memory is unchanged; a full queue makes it wait. XCOPY_POST posts a waiting one. -/
def Sys2Proof.Claim.CopiesArePostedToTheirQueue : Prop :=
  ∀ (s : State) (q : BitVec 5) (xa xb xc : XReg) (ty : BitVec 5) (qos : BitVec 2) (ev : Bool) (src dst : List (Segment × Place)) (flag : Option Place),
    let o : CopyOp := ⟨q, xa, xb, xc, ty.toNat, ev⟩; let i := Instr.xcopy q xa xb xc ty qos ev
    s.copyLegal o = true → s.copyRanges o = .ok (src, dst, flag) →
    ((s.copyQueue (dieOf s.hart.id) q.toNat).length < 64 → s.tagsFull 1 = false → (∀ p ∈ src.map (·.2) ++ dst.map (·.2) ++ flag.toList, s.gate p = .opened) →
      (∃ t c, exec i s = .next t ∧ t.copyQueue (dieOf s.hart.id) q.toNat = s.copyQueue (dieOf s.hart.id) q.toNat ++ [c] ∧ c.hart = s.hart.id ∧
        c.src = src.map (·.1) ∧ c.dst = dst.map (·.1) ∧ c.executed = false ∧ c.len = (s.rx (xa + 1)).toNat ∧ t.mem = s.mem ∧ t.hart.pc = s.hart.pc + 8 ∧ t.hart.x = s.hart.x) ∧
      (s.hart.wait = some i → exec (.xcopyPost s.hart.id) s = exec i s)) ∧
    (64 ≤ (s.copyQueue (dieOf s.hart.id) q.toNat).length → exec i s = .next (s.waits i)) ∧
    (∀ p, s.copyLegal ⟨p, xa, xb, xc, ty.toNat, ev⟩ = false → IllegalOperand (.xcopy p xa xb xc ty qos ev) s)

/-- Stream commands, handle control and posted copies. -/
def Obligations.EngineCommandsBeginTheirTransfer : Prop := Claim.StreamCommandsBeginTheirTransfer ∧ Claim.HandleControlReadsAndFreesHandles ∧ Claim.CopiesArePostedToTheirQueue

/-- VAPPEND of values or indices on a legal descriptor with room, without stochastic rounding and with nothing outstanding: it claims one slot per active element (the descriptor's
claimed count grows by their number), writes the converted elements to the slots, takes one tag each, leaves an append that its commit ends, clears VSTART and
changes no vector register; without room it waits. VAPPEND_CLAIM tries a waiting one again. That it claims and writes in one step (log entry 33) and probes the descriptor for writing and then
for reading (log entry 65) is the model's reading. -/
def Obligations.AppendsClaimSlotsAndWriteThem : Prop :=
  ∀ (s : State) (va : VReg) (idx : Bool) (xq : XReg) (m : MReg) (rnd : BitVec 3) (sat : Bool) (qos : BitVec 2) (p : Place) (places : List Place),
    let h := s.hart; let i := if idx then Instr.vappendIdx xq m rnd sat qos else .vappend va xq m rnd sat qos
    let o : AppendOp := ⟨if idx then none else some va, xq, m, rnd, sat⟩; let act := activeElems h m; let d := s.descAt p.loc
    h.level = .app → (s.rx xq).toNat % 64 = 0 → o.legal h = true → s.caching = false → s.probe (s.rx xq) 64 64 .write = .ok p → s.probe (s.rx xq) 64 64 .read = .ok p → s.gate p = .opened → p.reg = none →
    capacityOk d.cap = true → inboxSize d.ty ≠ 0 → act.length ≤ d.cap → s.ringFault d = none → act ≠ [] → s.tagsFull act.length = false →
    (d.room act.length = true → s.modeOf rnd ≠ .sr → s.accesses = [] → s.slotPlaces d d.claimed act.length = .ok places →
      let codes := act.map fun k => convertRes (o.srcType h) d.ty (s.modeOf rnd) (sat || idx) (Seed.none.rnd16 k) (o.source h k)
      ∃ t, exec i s = .next t ∧
        t.mem = Memory.put (putSlots s.mem (inboxSize d.ty) (places.zip (codes.map (·.code)))) (p.loc + 0x10) (leBytes 8 (d.claimed + BitVec.ofNat 64 act.length).toNat) ∧
        (∃ a, t.appends = s.appends ++ [a] ∧ a.hart = h.id ∧ a.desc = p.loc ∧ a.first = d.claimed ∧ a.count = act.length) ∧
        t.hart.csr.fflags = h.csr.fflags ||| unionFlags codes ∧ t.hart.csr.vstart = h.csr.vstart &&& 0x8000000000000000 ∧ t.hart.vec = h.vec ∧ t.hart.x = h.x ∧
        t.hart.tags = (List.range act.length).foldl (fun g _ => g.next) h.tags ∧ t.hart.pc = h.pc + 8 ∧ t.agenda = s.agenda ++ [.vappendCommit s.appends.length]) ∧
    (d.room act.length = false → exec i s = .next (s.waits i)) ∧
    (h.wait = some i → exec (.vappendClaim h.id) s = exec i s)

/-- VSCATR with legal operands, every active handle valid and its inbox writable, without stochastic rounding, sends one train to each die that a handle names, with the
elements in index order: memory and registers are unchanged but for flags, tags, VSTART and the pc. VROUTE gives each active element its handle or the null handle,
and ROUTEVER the table version its die used; that it keeps the elements below VSTART and counts nothing for them (log entry 22), and the shape of a train (log entry 34), is the model's reading. VMXQ writes block-scaled codes and the scale of each block of 32. -/
def Obligations.RoutingScatterAndBlockQuantisation : Prop :=
  (∀ (s : State) (va vb : VReg) (ty : BitVec 5) (m : MReg) (rnd : BitVec 3) (sat : Bool) (qos : BitVec 2), let h := s.hart; let act := activeElems h m
    h.level = .app → h.scatrLegal va vb ty.toNat = true → s.tagsFull (((act.filter fun k => (BitVec.ofNat 64 (h.elem vb k)).toNat != nullHandle).map fun k => handleDie (BitVec.ofNat 64 (h.elem vb k))).eraseDups.length) = false → s.modeOf rnd ≠ .sr → (∀ k ∈ act, s.handleFault (dieOf h.id) (BitVec.ofNat 64 (h.elem vb k)) = none) →
    ∃ t new, exec (.vscatr va vb ty m rnd sat qos) s = .next t ∧ t.trains = s.trains ++ new ∧
      new.map (·.die) = ((List.range 8).filter fun d => act.any fun k => (BitVec.ofNat 64 (h.elem vb k)).toNat != nullHandle && handleDie (BitVec.ofNat 64 (h.elem vb k)) == d) ∧ t.mem = s.mem ∧ t.hart.vec = h.vec ∧ t.hart.x = h.x ∧
      t.hart.csr.vstart = h.csr.vstart &&& 0x8000000000000000 ∧ t.hart.pc = h.pc + 8 ∧
      (∀ r ∈ new, r.hart = h.id ∧ r.ty = ty.toNat ∧ r.arrived = false ∧ r.elems = parcelsFor r.die (buildParcels (tagType (h.tagOf va)) ty.toNat (s.modeOf rnd) sat Seed.none.rnd16
        (h.elem va) (fun k => BitVec.ofNat 64 (h.elem vb k)) act) ∧ r.elems ≠ [])) ∧
  (∀ (s : State) (vd va vb : VReg) (m : MReg) (qos : BitVec 2), let h := s.hart
    VecReady s → h.routeLegal vd va vb = true → s.isAbsent (dieOf h.id) = false → ∃ t, exec (.vroute vd va vb m qos) s = .next t ∧ t.hart.tagOf vd = 17 ∧ (∀ r, r ≠ vd → t.hart.rv r = h.rv r) ∧
      t.hart.csr.routever = (s.die (dieOf h.id)).version ∧ t.mem = s.mem ∧ t.hart.x = h.x ∧ t.hart.pc = h.pc + 8 ∧ t.hart.csr.fflags = h.csr.fflags ∧
      t.hart.rv vd = packElems 17 h.ebits (fillFrom (fun i => if i < h.vs then h.elemAs vd 17 i else 0xFFFFFFFFFFFFFFFF) 0 h.vl
        (s.routeAll (dieOf h.id) (fun i => (h.elem va i, h.elem vb i)) (activeElems h m)).1)) ∧
  (∀ (s u : State) (d : Seed) (vd vs va : VReg) (ty : BitVec 5) (m : MReg) (rnd : BitVec 3) (sat : Bool) (qos : BitVec 2), let h := s.hart; let mode := s.modeOf rnd
    VecReady s → h.mxLegal vd vs va ty.toNat = true → Draws s mode true h.vl d u →
    let codes := (List.range h.vl).map (h.mxCode va ty.toNat m mode sat d.rnd16)
    ∃ t, exec (.vmxq vd vs va ty m rnd sat qos) s = .next t ∧ t.hart.tagOf vd = mkTag ty.toNat false ∧ t.hart.tagOf vs = 13 ∧
      t.hart.rv vd = packElems (mkTag ty.toNat false) h.ebits (codes.map (·.code)) ∧
      t.hart.rv vs = packElems 13 h.ebits ((List.range ((h.vl + 31) / 32)).map fun b => (h.mxBlock va ty.toNat m b).1) ∧
      (∀ r, r ≠ vd → r ≠ vs → t.hart.rv r = h.rv r) ∧ t.hart.csr.fflags = h.csr.fflags ||| unionFlags codes ∧ t.mem = u.mem ∧ t.hart.x = h.x ∧ t.hart.pc = h.pc + 8)

/-- A gang instruction of a member whose operands agree with its instance counts it as executed, waits for the strip in its register unless it supplied it, and moves on; operands
that disagree raise ILLEGAL_OPERAND. The first member to execute an instance opens it, and waits when four are open; GSTREAM's first fetches the strip from the memory at xb, and the
source of a GBCAST supplies it from its register; an instance that every member has executed and every selected member received leaves. A hart without a gang raises ILLEGAL_OPERAND. -/
def Obligations.GangInstructionsCountTheirMembers : Prop :=
  ∀ (s : State) (v : VReg) (xb : XReg) (member : BitVec 6) (mask : BitVec 8) (code : BitVec 3) (ty : BitVec 5) (g : Gang) (x : GangInst) (place : Nat → Place),
    let h := s.hart; let n := h.job.ginst
    (∀ q ∈ [(Instr.gstream v xb mask code ty, (⟨true, v, mask, code.toNat, ty.toNat, 0, s.rx xb⟩ : GangOp)), (.gbcast v member mask code ty, ⟨false, v, mask, code.toNat, ty.toNat, member.toNat, 0⟩)],
      (s.gang h.job.gang = some g → s.gangLegal q.2 g = true → (g.insts.find? fun y => y.index == n) = some x → x.agrees q.2 h.vl = true → x.data.isSome = true →
        ∃ t, exec q.1 s = .next t ∧ t.hart.job.ginst = n + 1 ∧ t.hart.pc = h.pc + 8 ∧ t.mem = s.mem ∧ t.hart.vec = h.vec ∧ t.hart.x = h.x ∧
          ((∃ st ∈ t.hart.strips, st.inst = n ∧ st.v = v) ∨ t.hart.strips = h.strips) ∧
          (g.selects mask.toNat code.toNat h.id = true → (q.2.stream = true ∨ h.csr.gangrank.toNat ≠ member.toNat) → ∃ st ∈ t.hart.strips, st.inst = n ∧ st.v = v)) ∧
      (s.gang h.job.gang = some g → s.gangLegal q.2 g = true → (g.insts.find? fun y => y.index == n) = some x → x.agrees q.2 h.vl = false → IllegalOperand q.1 s) ∧
      (s.gang h.job.gang = some g → s.gangLegal q.2 g = true → (g.insts.find? fun y => y.index == n) = none → 4 ≤ g.insts.length → exec q.1 s = .next (s.waits q.1)) ∧
      (s.gang h.job.gang = some g → s.gangLegal q.2 g = true → (g.insts.find? fun y => y.index == n) = none → g.insts.length < 4 → s.caching = false →
        (∀ k, k < h.vl → q.2.stream = true → s.probe (s.rx xb + BitVec.ofNat 64 (k * inboxSize ty.toNat)) (inboxSize ty.toNat) (inboxSize ty.toNat) .read = .ok (place k) ∧
          s.gate (place k) = .opened ∧ (place k).reg = none) →
        ∃ t e y, exec q.1 s = .next t ∧ t.gang h.job.gang = some e ∧ ((e.insts.find? fun y => y.index == n) = some y ∨ e.closed y = true) ∧ y.agrees q.2 h.vl = true ∧ y.executed = [h.csr.gangrank.toNat] ∧
          t.hart.job.ginst = n + 1 ∧ t.hart.pc = h.pc + 8 ∧ t.mem = s.mem ∧ t.hart.vec = h.vec ∧ t.hart.x = h.x ∧
          y.data = (if q.2.stream = true then some (packElems (mkTag ty.toNat false) h.ebits ((List.range h.vl).map fun k => Memory.num s.mem (place k).loc (inboxSize ty.toNat)))
            else if h.csr.gangrank.toNat = member.toNat then some (packElems (mkTag ty.toNat false) h.ebits ((List.range h.vl).map (h.elem v))) else none)) ∧
      (s.gang h.job.gang = none → IllegalOperand q.1 s))

/-! ### Events, launches and the privileged instructions -/

/-- EVPOP of an empty queue answers 0, whatever the address (the model's reading, log entry 68). Otherwise, when the 16 bytes at rs1 may be written, it stores the oldest record there (kind, detail and sequence, then the
payload), takes it off the queue and answers the count before; no other byte of memory changes. EVWAIT does the same on a queue with a record
and waits on an empty one, whatever the address (log entry 68). (u is s with the translation remembered.) -/
def Sys2Proof.Claim.EventPopsStoreTheOldestRecord : Prop :=
  ∀ (s : State) (rd rs1 : XReg) (r : EventRec) (rest : List EventRec) (p : Place), let u := s.cachePage (s.rx rs1)
    (s.hart.events.recs = [] → Yields (.evpop rd rs1) s 4 rd 0 ∧ exec (.evwait rd rs1) s = .next (s.waits (.evwait rd rs1))) ∧
    (s.hart.events.recs = r :: rest → s.probe (s.rx rs1) 16 16 .write = .ok p → u.gate p = .opened → p.reg = none → s.relaxed = false → Memory.wf s.mem = true →
      ∀ i ∈ [Instr.evpop rd rs1, .evwait rd rs1], ∃ t, exec i s = .next t ∧
        Memory.num t.mem p.loc 8 = r.ev.kind.toNat + 256 * r.ev.detail.toNat + 2 ^ 32 * r.seq.toNat ∧ Memory.num t.mem (p.loc + 8) 8 = r.ev.payload.toNat ∧
        (∀ a, a < p.loc ∨ p.loc + 16 ≤ a → Memory.byte t.mem a = Memory.byte s.mem a) ∧ t.hart.events = { s.hart.events with recs := rest } ∧
        (rd ≠ 0 → t.rx rd = BitVec.ofNat 64 (rest.length + 1)) ∧ (∀ q, q ≠ rd → t.rx q = s.rx q) ∧ t.hart.pc = s.hart.pc + 4 ∧ t.hart.vec = s.hart.vec ∧ t.hart.csr = s.hart.csr)

/-- HALT of an application hart with nothing outstanding unbinds it: no bound hart has its number any more, its scalar and control registers stay as it left them, its rank in its gang has
halted, and when every member has, the gang's completion is due; with work outstanding it waits. At supervisor level it raises ILLEGAL_OPERAND. -/
def Sys2Proof.Claim.HaltUnbindsTheHart : Prop :=
  ∀ s : State, (s.hart.level = .sup → IllegalOperand .halt s) ∧
    (s.hart.level = .app → s.haltWaits = true → exec .halt s = .next (s.waits .halt)) ∧
    (s.hart.level = .app → s.haltWaits = false → ∃ t, exec .halt s = .next t ∧ t.hart.bound = false ∧ (∀ h ∈ t.others, h.id ≠ s.hart.id) ∧
      (∃ e ∈ t.ended, e.hart.id = s.hart.id ∧ e.hart.x = s.hart.x ∧ e.hart.csr = s.hart.csr) ∧
      (∀ g ∈ t.launch.gangs, g.id = s.hart.job.gang → s.hart.csr.gangrank.toNat ∈ g.halted) ∧
      (∀ g, s.gang s.hart.job.gang = some g → (∀ r, r < g.members.length → r ∈ g.halted ∨ r = s.hart.csr.gangrank.toNat) → Due.gangComplete s.hart.job.gang ∈ t.agenda) ∧
      t.launch.queues = s.launch.queues)

/-- EVPOP, EVWAIT and HALT. -/
def Obligations.EventPopsAndHalt : Prop := Claim.EventPopsStoreTheOldestRecord ∧ Claim.HaltUnbindsTheHart

/-- LAUNCH, when the 64 bytes at rs1 may be read and are no register window and nothing of the hart is outstanding, offers the record to queue rs2 and answers the status of R340: 3 when
the queue number, the queue or the owner refuses it, 2 for a malformed record, 1 for a full queue, 0 when the record has joined the queue. Only rd, the queue and the agenda
change. (u is s with the translation remembered.) -/
def Obligations.LaunchOffersItsRecord : Prop :=
  ∀ (s : State) (rd rs1 rs2 : XReg) (p : Place), let u := s.cachePage (s.rx rs1); let q := (s.rx rs2).toNat
    let r := parseRecord (Memory.bytes s.mem p.loc 64) (some ⟨s.hart.sup.ctxid, s.hart.tags.issuer, s.rx rs1⟩); let k := s.queue q
    let mayPush := s.launchesAllowed = true ∧ k.opened = true ∧ k.devpush = true ∧ r.ctx = k.own ∧ r.ctx = s.hart.sup.ctxid
    s.accesses = [] → s.probe (s.rx rs1) 64 64 .read = .ok p → u.gate p = .opened → p.reg = none →
    ∃ t v, exec (.launch rd rs1 rs2) s = .next t ∧ WritesReg v t 4 rd (t.rx rd) ∧ t.mem = s.mem ∧
      v = { u with launch := { u.launch with queues := v.launch.queues }, agenda := v.agenda } ∧ (∀ j : Fin 64, j.val ≠ q → v.launch.queues.get j = s.launch.queues.get j) ∧
      (64 ≤ q → v = u ∧ (rd ≠ 0 → t.rx rd = 3)) ∧
      (q < 64 → ¬ mayPush → (rd ≠ 0 → t.rx rd = 3) ∧ (t.queue q).recs = k.recs) ∧
      (q < 64 → mayPush → s.recordOk r = false → (rd ≠ 0 → t.rx rd = 2) ∧ (t.queue q).recs = k.recs) ∧
      (q < 64 → mayPush → s.recordOk r = true → 256 ≤ k.recs.length → (rd ≠ 0 → t.rx rd = 1) ∧ (t.queue q).recs = k.recs) ∧
      (q < 64 → mayPush → s.recordOk r = true → k.recs.length < 256 → (rd ≠ 0 → t.rx rd = 0) ∧ (t.queue q).recs = k.recs ++ [⟨r, 0, 0⟩])

/-- LANECAP at supervisor level answers 0 and sets the cap of a bound hart of this package for a cap of 1 to 8, starting its deadline, which it never stops (log entry 51), when the cap is below its grant; it
answers 1 for any other target and 2 for another cap, and changes nothing but rd then. -/
def Sys2Proof.Claim.LaneCapSetsTheTargetsCap : Prop :=
  ∀ (s : State) (rd rs1 rs2 : XReg), s.hart.level = .sup → let id := (s.rx rs1).toNat % 2048; let c := (s.rx rs2).toNat
    ((s.rx rs1).toNat < 2 ^ 17 → s.ownHart (s.rx rs1).toNat = some id → ∀ h, s.hartById id = some h → h.bound = true →
      (1 ≤ c → c ≤ 8 → ∃ t, exec (.lanecap rd rs1 rs2) s = .next t ∧
        WritesReg (s.updHart id fun k => { k with grant := { k.grant with cap := c, deadlineOn := k.grant.deadlineOn || decide (c < octetCount k.vec.octets) } }) t 4 rd 0) ∧
      (c = 0 ∨ 8 < c → Yields (.lanecap rd rs1 rs2) s 4 rd 2)) ∧
    (2 ^ 17 ≤ (s.rx rs1).toNat ∨ s.ownHart (s.rx rs1).toNat = none ∨ (∃ k, s.ownHart (s.rx rs1).toNat = some k ∧ ∀ h, s.hartById k = some h → h.bound = false) →
      Yields (.lanecap rd rs1 rs2) s 4 rd 1)

/-- GENBUMP at supervisor level: with a generation of its own under way and every acknowledgement in, it answers the ASID's generation and ends; with none
under way and no store of the hart outstanding it raises the generation, makes one acknowledgement per core with a bound hart due (no other core acknowledges: log entry 52) and waits. An rs1 of 2^16 or more
raises ILLEGAL_OPERAND. GENBUMP_ACK of a core with no older translated work takes it off the list. -/
def Sys2Proof.Claim.GenerationsRiseAndAreAcknowledged : Prop :=
  (∀ (s : State) (rd rs1 : XReg), s.hart.level = .sup → let a : BitVec 16 := (s.rx rs1).setWidth 16
    ((s.rx rs1).toNat < 2 ^ 16 →
      (∀ b, (s.bumps.find? fun b => b.hart == s.hart.id) = some b → b.cores = [] → ∃ t, exec (.genbump rd rs1) s = .next t ∧
        WritesReg { s with bumps := s.bumps.filter fun b => b.hart != s.hart.id } t 4 rd (BitVec.ofNat 64 (Sparse.get (0 : BitVec 12) s.gens a.toNat).toNat)) ∧
      ((s.bumps.find? fun b => b.hart == s.hart.id) = none → s.accesses = [] → ∃ t, exec (.genbump rd rs1) s = .next t ∧
        t.gens = Sparse.set 0 s.gens a.toNat (Sparse.get 0 s.gens a.toNat + 1) ∧
        t.hart.run = .waiting ∧ t.hart.pc = s.hart.pc ∧ t.bumps = s.bumps ++ [⟨s.hart.id, a, s.busyCores⟩] ∧ t.agenda = s.agenda ++ s.busyCores.map (Due.genbumpAck a.toNat ·) ∧ t.mem = s.mem)) ∧
    (2 ^ 16 ≤ (s.rx rs1).toNat → IllegalOperand (.genbump rd rs1) s)) ∧
  (∀ (s : State) (a core : Nat), s.translatedWork (BitVec.ofNat 16 a) core = false → ∃ t, exec (.genbumpAck a core) s = .next t ∧
    t = { s with bumps := t.bumps } ∧ ∀ b ∈ t.bumps, b.asid.toNat = a → core ∉ b.cores)

/-- LANECAP, GENBUMP and its acknowledgement. -/
def Obligations.LaneCapsAndGenerations : Prop := Claim.LaneCapSetsTheTargetsCap ∧ Claim.GenerationsRiseAndAreAcknowledged

/-- The in-flight record at supervisor level. IFRSAVE of a frozen hart whose record's area is installed memory answers the number of its entries and writes only the record's part of
the save area; a hart that is not frozen begins a freeze with reason 3 and waits. IFRREPLAY with no record answers 0. CTXSAVEV of a frozen hart writes only the first
0x48000 bytes of the save area, and of another hart raises ILLEGAL_OPERAND; CTXLOADV of a context whose grant is no larger loads its registers, its pc, its vector registers and its accumulator for the lanes both have, and answers 0. IFRLOAD of an area that names another context answers all ones; of a
well-formed record of this one it loads it into the record buffer and answers its number of entries, and a malformed one raises ILLEGAL_OPERAND; neither writes memory. That the saving instructions write only
the part of the record or of the grant (log entry 39), and which tags and registers CTXLOADV brings back (log entry 43), is the model's reading. -/
def Sys2Proof.Claim.RecordsAreSavedWithinTheirArea : Prop :=
  ∀ (s : State) (rd : XReg), s.hart.level = .sup → s.accesses = [] →
    (∀ r, s.hart.ifr = some r → s.hart.freeze = .frozen → s.areaFault 0x48000 0x9B000 = none → (∀ p ∈ s.areaPlaces 0x48000 0x9B000, s.gate p = .opened) →
      ∃ t, exec (.ifrsave rd) s = .next t ∧ WritesReg (s.writeArea (s.recordPieces r)) t 4 rd (BitVec.ofNat 64 r.entries.length)) ∧
    (s.hart.freeze = .none → ∃ t r, exec (.ifrsave rd) s = .next t ∧ t.hart.run = .waiting ∧ t.hart.pc = s.hart.pc ∧ t.hart.freeze = .begun ∧ t.hart.ifr = some r ∧ r.reason = 3) ∧
    (s.hart.ifr = none → s.hart.freeze ≠ .begun → s.hart.freeze ≠ .settling → Yields (.ifrreplay rd) s 4 rd 0) ∧
    (∀ a, s.hart.freeze = .frozen → (∃ r, s.hart.ifr = some r) → s.areaFault 0x48000 0x9B000 = some a →
      ∃ t, exec (.ifrsave rd) s = .next t ∧ Traps (insnWord (.ifrsave rd)) s t (5 + 256) (BitVec.ofNat 64 a) 0) ∧
    (s.hart.freeze ≠ .begun → s.hart.freeze ≠ .settling → s.areaFault 0x48000 0x9B000 = none → (∀ p ∈ s.areaPlaces 0x48000 0x9B000, s.gate p = .opened) →
      (s.areaNum 0x48010 4 ≠ s.hart.sup.ctxid.toNat → Yields (.ifrload rd) s 4 rd (BitVec.allOnes 64)) ∧
      (s.areaNum 0x48010 4 = s.hart.sup.ctxid.toNat → s.areaNum 0x4801A 2 ≤ 512 → (∀ e ∈ s.loadRecord.entries, e.wellFormed (s.areaNum 0x4801E 1) = true) →
        ∃ t, exec (.ifrload rd) s = .next t ∧ WritesReg { s with hart := { s.hart with ifr := some s.loadRecord } } t 4 rd (BitVec.ofNat 64 s.loadRecord.entries.length)) ∧
      (s.areaNum 0x48010 4 = s.hart.sup.ctxid.toNat → 512 < s.areaNum 0x4801A 2 ∨ (∃ e ∈ s.loadRecord.entries, e.wellFormed (s.areaNum 0x4801E 1) = false) → IllegalOperand (.ifrload rd) s)) ∧
    (s.hart.freeze = .frozen → s.areaFault 0 0x48000 = none → (∀ p ∈ s.areaPlaces 0 0x48000, s.gate p = .opened) → Memory.wf s.mem = true →
      ∃ t, exec (.ctxsavev rd) s = .next t ∧ WritesReg (s.writeArea s.contextPieces) t 4 rd 0) ∧
    (s.hart.freeze ≠ .frozen → IllegalOperand (.ctxsavev rd) s) ∧
    (s.areaFault 0 0x48000 = none → (∀ p ∈ s.areaPlaces 0 0x48000, s.gate p = .opened) → bitsOf (s.areaNum 0x1E8 8) 11 8 ≤ octetCount s.hart.vec.octets →
      ∃ t, exec (.ctxloadv rd) s = .next t ∧ t.hart.pc = s.hart.pc + 4 ∧ t.hart.sx = (s.hart.wx rd 0).sx ∧ t.hart.level = .sup ∧ t.mem = s.mem ∧ t.hart.lenders = [] ∧
        (∀ r : XReg, t.hart.x.get r = if r = 0 then 0 else s.areaWord (8 * r.val)) ∧ t.hart.sup.trappc = s.areaWord 0x1E0 ∧
        (∀ v, t.hart.rv v = lowBits (BitVec.ofNat 32768 (s.areaNum (0x8000 + 4096 * v.val) 4096)) (512 * min s.hart.lanes (8 * bitsOf (s.areaNum 0x1E8 8) 11 8))) ∧
        t.hart.vec.acc = lowBits (BitVec.ofNat 131072 (s.areaNum 0x4000 16384)) (2048 * min s.hart.lanes (8 * bitsOf (s.areaNum 0x1E8 8) 11 8)))

/-- IFRREPLAY of a held record reissues its entries in ascending order index and then writes the number of answers that came from duplicate tables, sets the horizon and holds no record: a record with no entry left
ends at once; stores put their bytes, the earlier first; a load binds its value to the application register; an atomic that a duplicate table answers takes the recorded result, frees the entry and changes no memory; a
fence completes when what it orders is done, and waits otherwise. An entry that fails a check raises its cause with the address and the entry's index, and the record stays (log entries 35, 36 and 40). -/
def Sys2Proof.Claim.HeldRecordsAreReissued : Prop :=
  ∀ (s : State) (rd : XReg) (r : Ifr), MayReissue s r → let i := Instr.ifrreplay rd
    (r.entries = [] → ∃ t, exec i s = .next t ∧ WritesReg (replayed s r) t 4 rd 0) ∧
    (∀ e p, r.entries = [e] → StoreEntry s r i e p → ∃ t, exec i s = .next t ∧ WritesReg (replayed { s with mem := entryStored s.mem e p } r) t 4 rd 0) ∧
    (∀ e f p q, r.entries = [f, e] → e.order < f.order → StoreEntry s r i e p → StoreEntry { s with mem := entryStored s.mem e p } r i f q →
      ∃ t, exec i s = .next t ∧ WritesReg (replayed { s with mem := entryStored (entryStored s.mem e p) f q } r) t 4 rd 0) ∧
    (∀ e, r.entries = [e] → let d := e.dw2.toNat; let n := 2 ^ (d % 16 - 1); let v := reissuing s r e i
      (e.kind = 6 → d % 16 ≤ 4 → ∀ p, v.probe e.dw1 n n .read = .ok p → p.reg = none → v.gate p = .opened →
        ∃ t, exec i s = .next t ∧ WritesReg (replayed { s with hart := s.hart.wapp (Fin.ofNat 32 (d / 16 % 32)) (extended (e.dw2.getLsbD 9) n (Memory.num s.mem p.loc n)) } r) t 4 rd 0) ∧
      (e.kind = 8 → ∀ p x, v.probe e.dw1 8 8 .write = .ok p → (s.duplicates.find? fun x => x.ctx == r.context && x.issuer == r.issuer && x.tag == e.tag) = some x →
        ∃ t, exec i s = .next t ∧ WritesReg (replayed { s with duplicates := s.duplicates.filter fun y => !(y.ctx == r.context && y.issuer == r.issuer && y.tag == e.tag)
                                                               hart := s.hart.wapp (Fin.ofNat 32 (d / 64 % 32)) x.result } r) t 4 rd 1) ∧
      (e.kind = 12 → s.recordedFenceWaits s.hart d = false → ∃ t, exec i s = .next t ∧ WritesReg (replayed s r) t 4 rd 0) ∧
      (e.kind = 12 → s.recordedFenceWaits s.hart d = true → ∃ t, exec i s = .next t ∧ t = s.waits i) ∧
      (∀ c, (e.kind = 6 ∧ v.probe e.dw1 n n .read = .error c) ∨ (e.kind = 7 ∧ v.probe e.dw1 n n .write = .error c) → ∃ t, exec i s = .next t ∧ Traps (insnWord i) s t c.code e.dw1 0))

/-- The in-flight record: saved, loaded and reissued. -/
def Obligations.RecordsAreSavedAndReissued : Prop := Claim.RecordsAreSavedWithinTheirArea ∧ Claim.HeldRecordsAreReissued

/-- SFULOAD at supervisor level of a number outside 32 to 63 answers 3; it waits while VSF instructions of the core use the function; of an image that fails its check it answers 1 (signature, life cycle or digest) or 2 (format); an
accepted image is installed in the slot of the hart's core, answers 0, and changes no byte of memory. Beyond installed memory it raises PERMISSION. The order of the checks and the status of each is the model's reading (log entry 45). MATTACH takes at
most its segments from cores that lend, MDETACH gives them back. VTMOV moves row xi of va as a tile to elements of vd, or elements of va to row xi of vd as a tile, and changes no other register. -/
def Obligations.ImagesAndSegmentsAreInstalled : Prop :=
  (∀ (s : State) (rd rs1 rs2 : XReg), s.hart.level = .sup → s.accesses = [] → let pa := (s.rx rs1).toNat; let fn := (s.rx rs2).toNat; let b := s.imageBytes pa
    let n := 0xC0 + leField (Memory.bytes s.mem (s.physLoc none pa) 0xC0) 8 8
    (fn < 32 ∨ 63 < fn → Yields (.sfuload rd rs1 rs2) s 4 rd 3) ∧
    (32 ≤ fn → fn ≤ 63 → s.sfInUse fn = true → exec (.sfuload rd rs1 rs2) s = .next (s.waits (.sfuload rd rs1 rs2))) ∧
    (32 ≤ fn → fn ≤ 63 → s.sfInUse fn = false → s.firstAbsent pa 0xC0 = none → s.firstAbsent pa n = none → (∀ p ∈ s.paPlaces pa n, s.gate p = .opened) →
      (1 ≤ s.fuses.checkImage 4 b → s.fuses.checkImage 4 b ≤ 3 → Yields (.sfuload rd rs1 rs2) s 4 rd 1) ∧
      (s.fuses.checkImage 4 b = 4 → Yields (.sfuload rd rs1 rs2) s 4 rd 2) ∧
      (∀ g, s.fuses.checkImage 4 b = 0 → pa % 4096 = 0 → sfImage (b.drop 0xC0) (sha256 b) = some g → ∃ t, exec (.sfuload rd rs1 rs2) s = .next t ∧ WritesReg (s.install fn g) t 4 rd 0 ∧ t.mem = s.mem)) ∧
    (∀ a, 32 ≤ fn → fn ≤ 63 → s.sfInUse fn = false → s.firstAbsent pa 0xC0 = some a → ∃ t, exec (.sfuload rd rs1 rs2) s = .next t ∧ Traps (insnWord (.sfuload rd rs1 rs2)) s t 5 (BitVec.ofNat 64 a) 0)) ∧
  (∀ (s : State) (seg : BitVec 2), s.hart.level = .app → s.hart.vec.matrix = true →
    (s.hart.lenders = [] → ∃ t, exec (.mattach seg) s = .next t ∧ t.hart.lenders.length ≤ seg.toNat ∧ (∀ k ∈ t.hart.lenders, k ∈ s.lendersFor) ∧
      t.hart.pc = s.hart.pc + 8 ∧ t.hart.vec = s.hart.vec ∧ t.hart.x = s.hart.x ∧ t.mem = s.mem) ∧
    (∃ t, exec .mdetach s = .next t ∧ t.hart.lenders = [] ∧ t.hart.pc = s.hart.pc + 8 ∧ t.hart.vec = s.hart.vec ∧ t.hart.x = s.hart.x ∧ t.mem = s.mem)) ∧
  (∀ (s : State) (vd va : VReg) (xi : XReg) (ca : Bool), let p := (s.rx xi).toNat; s.tileOk vd va p = true → s.lent = false →
    ∀ q ∈ [(Instr.vtmovRow vd va xi ca, true), (.vtmovCol vd va xi ca, false)], ∃ t, exec q.1 s = .next t ∧ t = (s.onHart fun h => h.tileMove vd va p q.2).adv 4 ∧
      (∀ r, r ≠ vd → t.hart.rv r = s.hart.rv r) ∧ t.hart.vec.tag = s.hart.vec.tag)

/-! ### Steps of the other agents -/

/-- An access on its way. When its micro-op has issued and its request flit has left, no earlier access of its hart stands before it and the duplicate table of its slice takes its entry, it
waits while a minor overflow holds its page, kills its context at a poisoned line or in a die that has left service, and otherwise ACCESS_PERFORMED lets it act at its place and marks it: a load takes the bytes there, sign- or zero-extended, a store writes them, an AMO reads the word, writes the combined one and leaves its entry. One that a horizon makes stale is
dropped instead. When no earlier access that is ordered before it waits for its response, a performed access binds its value alone, a performed store leaves when it is acknowledged, and a tag whose response has been
received leaves the duplicate table: none of these changes a byte of memory. -/
def Sys2Proof.Claim.OutstandingAccessesCompleteInOrder : Prop :=
  (∀ (s : State) (k : Nat) (a : Access), s.accesses[k]? = some a →
    (a.performed = false → (∀ b ∈ s.accesses.take k, b.before a = false) → s.heldAtTarget a = false → s.atPort a = false → a.unsent = false →
      (s.stale a.ctx a.issuer a.epoch a.replay = false → s.arrivalGate a.loc a.full = .held → exec (.accessPerformed k) s = .next s) ∧
      (s.stale a.ctx a.issuer a.epoch a.replay = false → (s.ctxEntry a.ctx.toNat).killed = false →
        (∀ d, windowDie a.loc = some d → (s.die d).state ≠ 0 → ∃ t, exec (.accessPerformed k) s = .next t ∧ (t.ctxEntry a.ctx.toNat).killed = true ∧ ∀ b ∈ t.accesses, b.ctx ≠ a.ctx) ∧
        (windowDie a.loc = none → s.isPoisoned a.loc = true → a.full = false → ∃ t, exec (.accessPerformed k) s = .next t ∧ (t.ctxEntry a.ctx.toNat).killed = true ∧
          ∀ b ∈ t.accesses, b.ctx ≠ a.ctx)) ∧
      (s.stale a.ctx a.issuer a.epoch a.replay = false → s.arrivalGate a.loc false = .opened → ∃ t, exec (.accessPerformed k) s = .next t ∧
        t = { s with mem := a.write s.mem, accesses := s.accesses.set k { a with performed := true, value := a.read s.mem }
                     duplicates := s.duplicates ++ if a.classT then [⟨dupSlice a.loc, a.ctx, a.issuer, a.tag, a.read s.mem⟩] else [] } ∧
        (∀ rd sg, ∀ n ∈ [1, 2, 4, 8], a.op = .load rd n sg → a.read s.mem = extended sg n (Memory.num s.mem a.loc n) ∧ t.mem = s.mem ∧ t.duplicates = s.duplicates) ∧
        (∀ bytes, a.op = .store bytes → t.mem = Memory.put s.mem a.loc bytes ∧ t.duplicates = s.duplicates) ∧
        (∀ rd op x cmp, a.op = .amo rd op x cmp → let old := BitVec.ofNat 64 (Memory.num s.mem a.loc 8)
          a.read s.mem = old ∧ t.mem = match (AmoOp.ofCode op).apply old x cmp with
            | some v => Memory.put s.mem a.loc (leBytes 8 v.toNat)
            | none => s.mem)) ∧
      (s.stale a.ctx a.issuer a.epoch a.replay = true → ∃ t, exec (.accessPerformed k) s = .next t ∧ t = { s with accesses := s.accesses.eraseIdx k, vgroups := t.vgroups })) ∧
    (a.unsent = true → exec (.accessPerformed k) s = .next s) ∧
    (a.performed = true → a.hart = s.hart.id → (∀ b ∈ s.accesses.take k, b.ahead a = false) → (a.sup = true ∨ s.hart.freeze ≠ .frozen) → a.sup = decide (s.hart.level = .sup) →
      (∀ rd, a.reads = true → a.op.xTarget = some rd →
        ∃ t, exec (.loadValueBound k) s = .next t ∧ (rd ≠ 0 → t.rx rd = a.value) ∧ (∀ r, r ≠ rd → t.rx r = s.rx r) ∧
          t = { s with accesses := s.accesses.eraseIdx k, vgroups := t.vgroups, hart := { s.hart with x := t.hart.x, sx := t.hart.sx } }) ∧
      (∀ v pos n, a.op = .vload v pos n none → ∃ t, exec (.loadValueBound k) s = .next t ∧ (∀ r, r ≠ v → t.hart.rv r = s.hart.rv r) ∧
        t.hart.rv v = putBits (s.hart.rv v) pos (8 * n) a.value.toNat ∧
        t = { s with accesses := s.accesses.eraseIdx k, vgroups := t.vgroups, hart := { s.hart with vec := { s.hart.vec with v := t.hart.vec.v } } })) ∧
    (a.writes = true → a.reads = false → a.performed = true → (∀ b ∈ s.accesses.take k, b.ahead a = false) → ∃ t, exec (.storeAcknowledge k) s = .next t ∧
      t = { s with accesses := s.accesses.eraseIdx k, vgroups := t.vgroups })) ∧
  (∀ (s : State) (k : Nat) (d : Duplicate), s.duplicates[k]? = some d →
    exec (.tagConfirm k) s = .next (if s.confirmable d then { s with duplicates := s.duplicates.eraseIdx k } else s))

/-- The instruction a hart waits with, tried again by the step that ends the wait: FENCE, VLSYNC, HCTL.WAIT, EVWAIT, HALT, VSETVL and the mode changes of the
current application hart do there what they now do. EVENT_STALL_RELEASE moves the held kind 5 record, else the record of the producer that stalled first, into a free slot; a stalled engine, copy
queue or append has then nothing stalled any more. -/
def Sys2Proof.Claim.WaitingInstructionsCompleteAtTheirStep : Prop :=
  ∀ (s : State) (scope sets ew : BitVec 3) (h target : BitVec 5) (rd rs1 : XReg), s.hart.level = .app → let id := s.hart.id
    (∀ p ∈ [(Instr.fenceComplete id, Instr.fence scope sets), (.vlsyncComplete id, .vlsync), (.hwaitWake id, .hwait rd h target), (.evwaitWake id, .evwait rd rs1),
        (.haltComplete id, .halt), (.grantChange id, .vsetvl rd rs1 ew), (.modeSwitch id, .modeV), (.modeSwitch id, .modeM)],
      s.hart.wait = some p.2 → exec p.1 s = exec p.2 s) ∧
    (s.hart.events.recs.length < 64 →
      (∀ e, s.hart.events.held = some e → ∃ t, exec (.eventStallRelease id) s = .next t ∧
        t = { s with hart := { s.hart with events := { s.hart.events with recs := s.hart.events.recs ++ [⟨s.hart.events.seq, e⟩], seq := s.hart.events.seq + 1, held := none } } }) ∧
      (∀ e l, s.hart.events.held = none → s.hart.events.stalled = e :: l → ∃ t, exec (.eventStallRelease id) s = .next t ∧ t.others = s.others ∧ t.mem = s.mem ∧
        t.hart = { s.hart with events := { s.hart.events with recs := s.hart.events.recs ++ [⟨s.hart.events.seq, e.ev⟩], seq := s.hart.events.seq + 1, stalled := l } } ∧
        (∀ c, e.producer = .engine c → ∀ y ∈ t.streams, y.core = c → y.post ≠ .stalled) ∧ (∀ h, e.producer = .append h → ∀ y ∈ t.appends, y.hart = h → y.post ≠ .stalled) ∧
        (∀ die q, e.producer = .copies die q → ∀ y ∈ t.copyQueue die q, y.post ≠ .stalled)))

/-- Transfers and copies, whose data move at CHUNK_DONE and COPY_EXECUTE alone (the model's reading, log entry 32), while their engine or queue has no record that waits for room. The stream engine sends the request flit of one more line, under 512 outstanding,
to where the line is served; a line of the core's own scratchpad is read at once. CHUNK_DONE of a ready chunk whose lines are neither poisoned nor held moves its elements between memory and the
core's scratchpad, changes no other byte, counts the chunk and sets its bit in the chunk mask. A transfer with every chunk done completes: the handle becomes FULL (STRM) or FREE
(STRMW), the command leaves with its record posted, and memory stays. The head of a copy queue whose lines are neither poisoned nor held is executed: its destination takes the bytes of its
source; then it completes, writes its flag, and leaves. -/
def Sys2Proof.Claim.StreamsAndCopiesComplete : Prop :=
  (∀ (s : State) (n c : Nat) (x : StreamCmd), s.streamOf s.hart.id n = some x →
    (x.ready c = true → s.isStalled (.engine x.core) = false → (∀ p ∈ x.chunkElems c, s.arrivalGate p.2 false = .opened) → Memory.wf s.mem = true → ∃ t, exec (.chunkDone s.hart.id n c) s = .next t ∧ t.mem = x.move s.mem c ∧
      (∀ a, (∀ p ∈ x.chunkElems c, let d := if x.out then p.2 else locVsp (x.core / 64) (x.core % 64) (x.base + p.1 * x.size); a < d ∨ d + x.size ≤ a) →
        Memory.byte t.mem a = Memory.byte s.mem a) ∧
      (x.mask ≠ 0 → c < 8192 → (t.hart.rm x.mask).getLsbD c = true) ∧ (∀ y ∈ t.streams, y.isOf s.hart.id n = true → c ∈ y.chunksDone) ∧
      t = { s with mem := t.mem, streams := t.streams, hart := { s.hart with vec := { s.hart.vec with m := t.hart.vec.m } } }) ∧
    (x.chunksDone.length = x.chunks → s.isStalled (.engine x.core) = false → n < 32 → ∃ t, exec (if x.out then .strmwComplete s.hart.id n else .strmComplete s.hart.id n) s = .next t ∧
      t.hart.handle n = { s.hart.handle n with state := if x.out then .free else .full } ∧ (∀ k, k < 32 → k ≠ n → t.hart.handle k = s.hart.handle k) ∧
      (∀ y ∈ t.streams, y.isOf s.hart.id n = false) ∧ (x.post ≠ .due → t.hart.events = s.hart.events) ∧
      (x.post = .due → s.hart.takesEvents = true → s.hart.events.hasRoom = true →
        t.hart.events = s.hart.events.push { kind := 1, detail := BitVec.ofNat 8 n, payload := BitVec.ofNat 64 x.chunks } ∧ ∀ y ∈ t.streams, y ∈ s.streams) ∧
      t = { s with streams := t.streams, hart := { s.hart with handles := t.hart.handles, events := t.hart.events } })) ∧
  (∀ (s : State) (core line : Nat) (c : StreamCmd), (s.streams.find? fun c => c.core == core && c.nextLine.isSome) = some c → c.nextLine = some line →
    s.isStalled (.engine core) = false → s.lineReads core < 512 →
    ∃ t, exec (.streamEngineRequest core) s = .next t ∧ t.mem = s.mem ∧ t.hart = s.hart ∧ (∃ y ∈ t.streams, y.hart = c.hart ∧ y.handle = c.handle ∧ line ∈ y.asked) ∧
      (∀ dst, siteOf (core / 64) (core % 64) (line * 64) = some dst → t.accesses = s.accesses ∧
        (t.die (core / 64)).noc.waiting = (s.die (core / 64)).noc.waiting ++
          [(0, ⟨coreSite (core / 64) (core % 64), dst, .stream c.hart c.handle, c.lineClass, false, line, 64⟩)]) ∧
      (siteOf (core / 64) (core % 64) (line * 64) = none → ∃ y ∈ t.streams, y.hart = c.hart ∧ y.handle = c.handle ∧ line ∈ y.answered)) ∧
  (∀ (s : State) (die q : Nat) (c : CopyCmd) (rest : List CopyCmd), s.copyQueue die q = c :: rest →
    (c.executed = false → (c.overlap = true → s.answered c.ctx c.issuer c.tag = false ∧ s.tableFull (dupCopies die q) 1 = false) → (∀ x ∈ c.places, s.arrivalGate x.1 false = .opened) → ∃ t, exec (.copyExecute die q) s = .next t ∧
      t.mem = scatter s.mem c.dst (gather s.mem c.src) ∧ t.copyQueue die q = { c with executed := true } :: rest ∧ t.hart = s.hart ∧ t.others = s.others) ∧
    (c.executed = true → c.flagged = false → c.post ≠ .stalled → s.isStalled (.copies die q) = false →
      (c.post = .due → c.orphan = false → ∀ h ∈ s.harts, h.id = c.hart → h.takesEvents = true → h.events.hasRoom = true) →
      ∃ t, exec (.copyComplete die q) s = .next t ∧ t.copyQueue die q = rest ∧ (c.flag = none → t.mem = s.mem) ∧
      (∀ loc v, c.flag = some (loc, v) → t.mem = if windowLoc loc then s.mem else Memory.put s.mem loc (leBytes 8 v.toNat)) ∧ t.hart.x = s.hart.x ∧ t.hart.pc = s.hart.pc))

/-- Appends, trains and strips, a train being delivered inbox by inbox and refused by size (the model's reading, log entry 34), while the duplicate tables of their targets have room. An append commits once every earlier claim of its queue has: the committed count passes its range. A
train whose replicas stand delivers its elements by inbox, and an element whose replica is dead or whose die is absent goes on to the hub, which counts it lost when no primary can
take it. The inbox home of an arrived train writes its duplicate entry once the hub has dealt with the rest, and the acknowledgement then ends the train. A strip
lands in its register, packed under its type. -/
def Sys2Proof.Claim.AppendsTrainsAndStripsComplete : Prop :=
  (∀ (s : State) (k : Nat) (a : Append), s.appends[k]? = some a → (s.descAt a.desc).committed = a.first → a.post = .due → s.isStalled (.append a.hart) = false →
    s.tableFull (dupSlice a.desc) a.count = false → s.arrivalGate a.desc false = .opened → Memory.wf s.mem = true →
    ∃ t, exec (.vappendCommit k) s = .next t ∧ (t.appends = s.appends.eraseIdx k ∨ t.appends = s.appends.set k { a with post := .stalled }) ∧
      ((s.descAt a.desc).threshold = 0 → t.appends = s.appends.eraseIdx k) ∧ Memory.num t.mem (a.desc + 0x18) 8 = (a.first + BitVec.ofNat 64 a.count).toNat ∧
      (∀ b, (b < a.desc + 0x18 ∨ a.desc + 0x20 ≤ b) → (b < a.desc + 0x28 ∨ a.desc + 0x30 ≤ b) → Memory.byte t.mem b = Memory.byte s.mem b)) ∧
  (∀ (s : State) (k : Nat) (x : Train), s.trains[k]? = some x →
    (x.arrived = false → s.stale x.ctx x.issuer (x.tag.extractLsb' 16 8) x.replay = true → exec (.trainArrival k) s = .next { s with trains := s.trains.eraseIdx k }) ∧
    (x.arrived = false → s.stale x.ctx x.issuer (x.tag.extractLsb' 16 8) x.replay = false → x.replay = false → x.orphan = false → s.tableFull (dupInbox x.die) 1 = false →
      (∀ u left, (∀ p ∈ x.elems, s.goesToHub x.die p.1 = false) → s.deliver x.die x.ty x.elems.length x.elems = (u, left) →
        ∃ t, exec (.trainArrival k) s = .next t ∧ t.mem = u.mem ∧ t.hart = u.hart ∧ t.trains = u.trains.set k { x with elems := left, arrived := left.isEmpty }) ∧
      ((∀ p ∈ x.elems, s.goesToHub x.die p.1 = true) → ∃ t, exec (.trainArrival k) s = .next t ∧ t.mem = s.mem ∧ t.hart = s.hart ∧
        t.trains = s.trains.set k { x with elems := [], arrived := true } ∧
        t.redirects = s.redirects ++ x.elems.map fun p => ⟨x.ctx, x.issuer, x.tag, p.1, p.2, x.ty⟩)) ∧
    (x.arrived = true → s.answered x.ctx x.issuer x.tag = true → exec (.trainAcknowledge k) s = .next { s with trains := s.trains.eraseIdx k }) ∧
    (x.arrived = true → x.orphan = false → s.redirecting x = false → s.answered x.ctx x.issuer x.tag = false → s.tableFull (dupInbox x.die) 1 = false →
      exec (.trainAcknowledge k) s = .next { s with
        duplicates := s.duplicates ++ [⟨dupInbox x.die, x.ctx, x.issuer, x.tag, 0⟩], agenda := s.agenda ++ [.trainAcknowledge k] })) ∧
  (∀ (s : State) (k : Nat) (r : Redirect), s.redirects[k]? = some r → let e := handleExpert r.handle; let x := s.expert e
    (¬ (x.eligibleAt s.ladle.version).contains 0 → repRetiring (x.rep 0) = false → exec (.trainRedirect k) s =
      .next (({ s with redirects := s.redirects.eraseIdx k } : State).updExpert e fun x => { x with lost := x.lost + 1 })) ∧
    (∀ u, (x.eligibleAt s.ladle.version).contains 0 → ({ s with redirects := s.redirects.eraseIdx k } : State).inboxAppend e ((x.rep 0).die.toNat % 8) (x.rep 0).inbox r.ty [r.value.toNat] = some u →
      exec (.trainRedirect k) s = .next (u.updExpert e fun x => { x with redirected := x.redirected + 1 }))) ∧
  (∀ (s : State) (n : Nat) (x : Strip) (g : GangInst) (d : VBits), (s.hart.strips.find? fun x => x.inst == n) = some x → s.instOf s.hart.job.gang n = some g → g.data = some d → s.stripAtPort s.hart x = false →
    ∃ t, exec (.gangStripLand s.hart.id n) s = .next t ∧ t.hart.rv x.v = d ∧ t.hart.tagOf x.v = mkTag x.ty false ∧
      (∀ r, r ≠ x.v → t.hart.rv r = s.hart.rv r ∧ t.hart.tagOf r = s.hart.tagOf r) ∧ (∀ y ∈ t.hart.strips, y.inst ≠ n) ∧ t.mem = s.mem ∧ t.hart.x = s.hart.x ∧ t.hart.pc = s.hart.pc)

/-- The work of the engines, queues and gangs completes. -/
def Obligations.EngineWorkCompletes : Prop := Claim.StreamsAndCopiesComplete ∧ Claim.AppendsTrainsAndStripsComplete

/-- The front end and the resources of a core choose in turn. SCALAR_ISSUE takes the first ready hart of the core after the one that issued last; it issues next. VECTOR_DECODE
passes the next instruction of that hart into the windows when it is as described, the hart being the last that has issued, and nothing passes decode beyond 64 instructions not complete, 32 register and 8 mask entries and, for each octet,
64 micro-ops. MICRO_OP_ISSUE takes, among the ready micro-ops of a resource, one passed over 32 times, else one of an instruction with the least measure, the older first among equals, and
MICRO_OP_PROMOTION only the former; GROUP_AVAILABLE frees the groups that become available. -/
def Sys2Proof.Claim.IssueResourcesChooseInTurn : Prop :=
  (∀ (s : State) (core i : Nat) (h : Hart), let die := core / 64; let c := core % 64; let id := fun k => mkHartId die c (((s.core die c).last + 1 + k) % 4)
    i < 4 → s.hartById (id i) = some h → (s.swapTo (id i)).canIssue = true → (∀ k, k < i → s.hartById (id k) = none ∨ (s.swapTo (id k)).canIssue = false) →
    exec (.scalarIssue core) s = .next (s.swapTo (id i)) ∧ (s.swapTo (id i)).hart = h) ∧
  (∀ (s : State) (i : Instr) (p : Pipe) (run : State → Host.Outcome State Fault Refusal), let l := s.windows s.hart.id
    (s.decodeRoom p = false → s.passDecode i p run = .next (s.waits i)) ∧
    (s.decodeRoom p = true → s.pastDecode < 64 ∧ s.hart.strips.length + ((l.filter fun w => !isGang w.insn).map (·.pipe.writes)).sum + p.writes ≤ 32 ∧
      (l.map (·.pipe.dstM.toList.length)).sum + p.dstM.toList.length ≤ 8 ∧
      (p.each = true → ∀ o, o < s.hart.groups / 2 →
        ((l.filter fun w => w.pipe.each || decide (w.pipe.unit < 4)).map fun w => (w.unissued.filter fun q => q.1 / 2 == o).length).sum + 2 ≤ 64))) ∧
  (∀ (s : State) (hart unit groups writes masks : Nat) (srcs : List (Nat × Bool)) (skipped : List Nat) (h : Hart) (i : Instr) (p : Pipe) (w : Window), let u := s.swapTo hart
    let t := nextState (u.passDecode i p (runPipe i)) u
    s.hartById hart = some h → s.frontEnd (dieOf hart) (coreOf hart) = some hart → h.level = .app → u.fetch = .insn i → insnPipe i h = some p →
    w ∈ t.windows hart → w.age = u.myCore.nextAge → w.facts = (unit, groups, writes, masks, srcs, skipped) →
    exec (.vectorDecode hart unit groups writes masks srcs skipped) s =
      .next ((t.updCore (dieOf hart) (coreOf hart) fun c => { c with last := hartOf hart }).swapTo s.hart.id)) ∧
  (∀ (s : State) (core unit : Nat), let l := s.readyOps (s.coreNo core) unit; let missed := s.passedOver (s.coreNo core) unit
    ∀ q ∈ [(Instr.microOpIssue core unit, false), (.microOpPromotion core unit, true)],
      (∃ y ∈ l, q.2 = true → 32 ≤ y.2.2) → ∃ x ∈ l, exec q.1 s = .next (s.startOp core unit q.2) ∧ (q.2 = true → 32 ≤ x.2.2) ∧
        (∀ y ∈ l, 32 ≤ y.2.2 → 32 ≤ x.2.2) ∧ (x.2.2 < 32 → ∀ y ∈ l, x.1.measure ≤ y.1.measure) ∧
        (∀ y ∈ l, (32 ≤ x.2.2 ∧ 32 ≤ y.2.2) ∨ (x.2.2 < 32 ∧ x.1.measure = y.1.measure) → x.1.age ≤ y.1.age) ∧
        s.startOp core unit q.2 = s.updCore (core / 64) (core % 64) fun c => { c with window := c.window.map fun v => { v with
          issued := if v.age == x.1.age then v.issued ++ [x.2.1] else v.issued
          unissued := (v.unissued.filter fun p => !(v.age == x.1.age && p.1 == x.2.1)).map fun p =>
            if missed.any fun y => y.1.age == v.age && y.2.1 == p.1 then (p.1, p.2 + 1) else p } }) ∧
  (∀ (s : State) (core age group : Nat) (w : Window), let c := s.coreNo core; let l := s.arriving c w group
    c.ofAge age = some w → ∃ t f, exec (.groupAvailable core age group) s = .next t ∧ t = (s.updCore (core / 64) (core % 64) f).updHart w.hart (fun h =>
      { h with csr := { h.csr with fflags := h.csr.fflags ||| if w.unissued = [] ∧ w.issued ≠ [] ∧ (∀ g ∈ w.issued, g ∈ l) then w.flags else 0 } }) ∧
    ∀ v ∈ (f c).window, v.age = age → v.issued = w.issued.filter fun g => !l.contains g)

/-- The mesh of a die; the exits of responses and the class of STRM lines are the model's reading (log entry 76), and so is the choice of ring and optical port (log entry 15). A packet that crosses a link, or waits at an external port, enters its router when the input has a place for its channel; at the local port the
packet whose turn it is does. Route computation takes it along its row, then along its column, to its exit: the unit's stop, the ring port of a neighbour die or the hub
port of the column. A port with eligible flits and weights that are not 0 grants one of them, a promoted one when there is one, while the other flits of the port
stay; a port with none loads its credits. A granted packet crosses to the next router, where its slot is taken, or is delivered: a unit answers a request, in LAT when it
came in LAT or SYNC and else in BULK. A flit whose counter has reached AGEMAX is promoted. NOCARB stores its fields with 1 for a weight of 0 and 8 for an AGEMAX below 8,
and the stored value takes effect at NOCARB_APPLY, which is then due. -/
def Sys2Proof.Claim.MeshPortsGrantAndPromote : Prop :=
  (∀ (s : State) (die stop net input vc k : Nat) (c : Crossing), let n := (s.die die).noc
    stop < 16 → net < 2 → input < 5 → n.arriving stop net input vc k = some c → n.hasRoom stop net input vc = true →
    ∃ t, exec (.flitArrival die stop net input vc k) s = .next t ∧ let o := s.outputOf die stop net c.packet
      ((t.die die).noc.port stop net o).flits = (n.port stop net o).flits ++ [⟨input, 0, none, n.nextSeq, c.packet⟩] ∧
      (t.die die).noc.crossing.length + 1 = n.crossing.length ∧ (∀ a b d, portKey a b d ≠ portKey stop net o → (t.die die).noc.port a b d = n.port a b d) ∧
      t = s.updNoc die fun _ => (t.die die).noc) ∧
  (∀ (s : State) (die stop net u : Nat) (p : Packet), stop < 16 → net < 2 → s.localPacket die stop net = some (u, p) → Sparse.wf 5 (s.die die).noc.lastUnit = true →
    ∃ t, exec (.flitArrival die stop net 5 p.vc 0) s = .next t ∧ let o := s.outputOf die stop net p
      ((t.die die).noc.port stop net o).flits = ((s.die die).noc.port stop net o).flits ++ [⟨5, 0, none, (s.die die).noc.nextSeq, p⟩] ∧
      Sparse.get 5 (t.die die).noc.lastUnit (stop * 2 + net) = u ∧ t.mem = s.mem ∧ t.hart = s.hart) ∧
  (∀ (s : State) (die stop : Nat) (d : Nat) (u : Nat) (tgt : Nat), die < 8 → stop < 16 → d < 8 → tgt < 16 →
    (s.exitOf die stop .hub = (stop % 4, 0)) ∧
    (s.exitOf die stop (.unit d tgt u) = if d = die then (tgt, 5) else if d = (die + 7) % 8 then (4, 3) else if d = (die + 1) % 8 then (7, 1) else (stop % 4, 0)) ∧
    (∀ e, stop % 4 ≠ tgt % 4 → ∃ next, neighbour stop (xyOut stop (tgt, e)) = some next ∧ next / 4 = stop / 4 ∧
      (if stop % 4 < tgt % 4 then next % 4 = stop % 4 + 1 else next % 4 + 1 = stop % 4)) ∧
    (∀ e, stop % 4 = tgt % 4 → stop ≠ tgt → ∃ next, neighbour stop (xyOut stop (tgt, e)) = some next ∧ next % 4 = stop % 4 ∧
      (if stop / 4 < tgt / 4 then next / 4 = stop / 4 + 1 else next / 4 + 1 = stop / 4)) ∧
    (∀ e, xyOut tgt (tgt, e) = e)) ∧
  (∀ (s : State) (die stop net out : Nat), let n := (s.die die).noc; let p := n.port stop net out; let elig := p.flits.filter (n.eligible stop net out)
    elig ≠ [] → (∀ f ∈ elig, f.vc < 3) → 0 < n.wlat → 0 < n.wsync → 0 < n.wbulk →
    ∃ t, ∃ g ∈ elig, ∃ q : Port, exec (.outputPortGrant die stop net out) s = .next t ∧ ((∃ f ∈ elig, f.promoted ≠ none) → g.promoted ≠ none) ∧
      q.flits.map (·.seq) = (p.flits.filter fun f => f.seq != g.seq).map (·.seq) ∧
      t = (s.updNoc die fun _ => ({ n with ports := Sparse.set Port.zero n.ports (portKey stop net out) q } : Noc).promote stop net out).carry die stop net out g.packet ∧
      (∀ tgt, out ≠ 5 → neighbour stop out = some tgt → (t.die die).noc.crossing = n.crossing ++ [⟨tgt, net, (out + 2) % 4, g.packet⟩]) ∧
      (out = 5 → net = 0 → (t.die die).noc.waiting = n.waiting ++ [(1, g.packet.answer)] ∧ g.packet.answer.vc = if g.packet.vc < 2 then 0 else 2)) ∧
  (∀ (s : State) (die stop net out : Nat), let n := (s.die die).noc
    (∀ f ∈ (n.port stop net out).flits, n.eligible stop net out f = false) →
    exec (.outputPortGrant die stop net out) s = .next (s.updNoc die fun _ =>
      (n.updPort stop net out fun p => { p with credit := #v[n.wlat, n.wsync, n.wbulk] }).promote stop net out)) ∧
  (∀ (s : State) (die stop net out : Nat), exec (.flitPromotion die stop net out) s = .next (s.updNoc die fun n => n.promote stop net out)) ∧
  (∀ (s : State) (die : Nat) (v w : Word), let nz := fun x : Nat => if x = 0 then 1 else x
    (∃ x : Word, exec (.nocarb die v) s = .next ((s.updNoc die fun n => { n with nocarb := x, pending := some x }).due [.nocarbApply die]) ∧
      x.toNat / 2 ^ 16 = max 8 (v.toNat / 2 ^ 16 % 1024) ∧ x.toNat / 256 % 256 = nz (v.toNat / 256 % 16) ∧ x.toNat / 16 % 16 = nz (v.toNat / 16 % 16) ∧
      x.toNat % 16 = nz (v.toNat % 16)) ∧
    ((s.die die).noc.pending = some w → ∃ t, exec (.nocarbApply die) s = .next t ∧ t = s.updNoc die fun n => { n with
      pending := none, agemax := w.toNat / 2 ^ 16 % 1024, wsync := w.toNat / 256 % 16, wbulk := w.toNat / 16 % 16, wlat := w.toNat % 16 }))

/-- The resources of a core and the ports of a mesh choose as the rules say. -/
def Obligations.ResourcesChooseInTurn : Prop := Claim.IssueResourcesChooseInTurn ∧ Claim.MeshPortsGrantAndPromote

namespace Sys2Proof.Claim

/-- A host push of a record would be accepted by a queue (R340). -/
def Accepted (s : State) (q : Nat) (r : LaunchRec) : Prop :=
  s.launchesAllowed = true ∧ (s.queue q).opened = true ∧ r.ctx = (s.queue q).own ∧ s.recordOk r = true ∧ (s.queue q).recs.length < 256

/-- A host push of a record finds its queue full (R339, R340). -/
def Fills (s : State) (q : Nat) (r : LaunchRec) : Prop :=
  s.launchesAllowed = true ∧ (s.queue q).opened = true ∧ r.ctx = (s.queue q).own ∧ s.recordOk r = true ∧ 256 ≤ (s.queue q).recs.length

end Sys2Proof.Claim

/-- The launch queues. A 64-byte host write to a window of an accepting queue appends its record, a write of another form counts as malformed, and one to a full queue or behind a held write
is held; a held write enters once its queue has a slot, or ends with an error after 1 ms when its queue is still full. SELECT takes the head of the first eligible queue of the highest priority with
credit; a timeout gives it up. BIND_GANG binds the next gang of the selected record to the harts chosen, in rank order, each at the record's entry;
GANG_COMPLETE of a gang whose members have all halted ends it, and with its last gang its launch. No byte of memory changes. -/
def Obligations.LaunchQueuesSelectAndBind : Prop :=
  (∀ (s : State) (q off : Nat) (b : List Byte), s.bar0Open = true →
    (s.launch.held = [] → off = 0 → b.length = 64 → Accepted s q (parseRecord b none) → ∃ t, exec (.hostPush q off b) s = .next t ∧
      (t.queue q).recs = (s.queue q).recs ++ [⟨parseRecord b none, 0, 0⟩] ∧ t.outside.pushError = false ∧ t.agenda = s.agenda ++ [if s.launch.selected.isSome then .bindGang else .select] ∧ t.mem = s.mem ∧ t.hart = s.hart) ∧
    (s.launch.held = [] → off = 0 → b.length = 64 → Fills s q (parseRecord b none) → exec (.hostPush q off b) s = .next { s with launch := { s.launch with held := [⟨q, off, b⟩] } }) ∧
    (s.launch.held = [] → (off ≠ 0 ∨ b.length ≠ 64) → ∃ t, exec (.hostPush q off b) s = .next t ∧
      t = s.updQueue q fun k => { k with malformed := k.malformed + 1, lasterr := 2 }) ∧
    (s.launch.held ≠ [] → exec (.hostPush q off b) s = .next { s with launch := { s.launch with held := s.launch.held ++ [⟨q, off, b⟩] } })) ∧
  (∀ (s : State) (h : HeldPush) (rest : List HeldPush), s.launch.held = h :: rest →
    (h.off = 0 → h.bytes.length = 64 → Accepted s h.q (parseRecord h.bytes none) → ∃ t, exec .heldPushAccept s = .next t ∧ t.launch.held = rest ∧
      (t.queue h.q).recs = (s.queue h.q).recs ++ [⟨parseRecord h.bytes none, 0, 0⟩] ∧ t.mem = s.mem ∧ t.hart = s.hart) ∧
    (h.off = 0 → h.bytes.length = 64 → Fills s h.q (parseRecord h.bytes none) → ∃ t, exec .hostPushTimeout s = .next t ∧ t.launch.held = rest ∧ t.outside.pushError = true ∧ (t.queue h.q).lasterr = 1 ∧
      (t.queue h.q).refused = (s.queue h.q).refused + 1 ∧ (t.queue h.q).recs = (s.queue h.q).recs ∧ t.mem = s.mem ∧ t.hart = s.hart)) ∧
  (∀ (s : State) (q : Nat) (h : QueuedRec) (rest : List QueuedRec), s.launch.selected = none → q < 64 → s.eligible q = true → (s.queue q).recs = h :: rest →
    (∀ p, p < 64 → s.eligible p = true → (s.queue p).prio ≤ (s.queue q).prio) →
    (∀ p, p < q → s.eligible p = true → (s.queue p).prio = (s.queue q).prio → (s.queue p).credit = 0) → 0 < (s.queue q).credit →
    (0 < h.bound ∨ h.record.gx * h.record.gy * h.record.gz ≠ 0) → s.cannotFit h.record = false →
    ∃ t, exec .select s = .next t ∧ t.launch.selected = some q ∧ (t.queue q).credit = (s.queue q).credit - 1 ∧ (t.queue q).recs = h :: rest ∧
      t.agenda = s.agenda ++ [.bindGang] ∧ t.mem = s.mem ∧ t.hart = s.hart) ∧
  (∀ (s : State) (q : Nat), s.launch.selected = some q →
    exec .selectionTimeout s = .next { s with launch := { s.launch with selected := none }, agenda := s.agenda ++ [.select] } ∧
    (∀ h rest choice, (s.queue q).recs = h :: rest → choice ≠ [] → s.choiceOk h.record choice = true → ∃ t, exec (.bindGang choice) s = .next t ∧
      t.launch.selected = none ∧ (∃ g ∈ t.launch.gangs, g.id = s.launch.nextId ∧ g.members = choice ∧ g.halted = []) ∧
      (∀ id ∈ choice, ∃ k ∈ t.harts, k.id = id ∧ k.bound = true ∧ k.pc = h.record.entry ∧ k.level = .app ∧ k.sup.ctxid = h.record.ctx ∧ k.csr.launcharg = h.record.arg) ∧
      t.mem = s.mem)) ∧
  (∀ (s : State) (gang : Nat) (g : Gang) (l : Launch), s.gang gang = some g → (∀ r, r < g.members.length → r ∈ g.halted) → s.isStalled .launch = false → (s.launch.launches.find? fun x => x.id == g.launch) = some l →
    ∃ t, exec (.gangComplete gang) s = .next t ∧ (∀ y ∈ t.launch.gangs, y.id ≠ gang) ∧ t.mem = s.mem ∧
      (l.gangsLeft ≤ 1 → ∀ y ∈ t.launch.launches, y.id ≠ l.id) ∧ (1 < l.gangsLeft → { l with gangsLeft := l.gangsLeft - 1 } ∈ t.launch.launches))

/-- Pre-emption and freezing. A request becomes pending on a bound hart that is not frozen, reason 1 before reason 2 (the model's reading, log entry 47); at application level it is taken: the hart enters
supervisor level with cause PREEMPT and the reason, and its freeze begins with the header of its record; the settle window follows, and at its end the record of
everything not acknowledged is frozen, the epoch advances, the sequence restarts and no B tile stays; registers change only where a vector instruction was past decode.
A hart that waits at a fence stands after it. No byte of memory changes. -/
def Sys2Proof.Claim.FreezesRecordWhatIsInFlight : Prop :=
  ∀ (s : State) (id : Nat) (h : Hart), s.hartById id = some h →
    (h.bound = true → h.freeze = .none →
      (∃ t, exec (.preemptreq id) s = .next t ∧ t.agenda = s.agenda ++ [.preempt id] ∧ t.mem = s.mem ∧
        t.hartById id = some { h with preempt := some (if h.preempt = some 0 then 0 else 1) }) ∧
      (h.grant.deadlineOn = true → ∃ t, exec (.laneReclaimDeadline id) s = .next t ∧ t.agenda = s.agenda ++ [.preempt id] ∧ t.mem = s.mem ∧
        t.hartById id = some { h with grant := { h.grant with deadlineOn := false }, preempt := some (if h.preempt = some 0 then 0 else if h.preempt = some 1 then 1 else 2) }) ∧
      (∀ r, h.preempt = some r → h.level = .app → let pc := if h.waitingFence = none then h.pc else h.pc + 4
        ∃ t k, exec (.preempt id) s = .next t ∧ t.hartById id = some k ∧ t.mem = s.mem ∧
        k.level = .sup ∧ k.pc = h.sup.trapvec ∧ k.sup.trapcause = 10 ∧ k.sup.trappc = pc ∧ k.sup.trapval = r.setWidth 64 ∧ k.sup.trapstat.getLsbD 63 = false ∧
        k.freeze = .begun ∧ k.preempt = none ∧ k.lenders = [] ∧ k.x = h.x ∧ k.vec = h.vec ∧ k.csr = h.csr ∧
        (∃ i, k.ifr = some i ∧ i.pc = pc ∧ i.vstart = h.csr.vstart ∧ i.context = h.sup.ctxid ∧ i.issuer = h.tags.issuer ∧ i.epoch = h.tags.epoch ∧ i.reason = r))) ∧
    (h.freeze = .begun → ∃ t f, exec (.settleWindow id) s = .next t ∧ t.hartById id = some { h with freeze := .settling, csr := { h.csr with fflags := h.csr.fflags ||| f } } ∧
      (s.windows id = [] → f = 0) ∧ t.mem = s.mem ∧ t.agenda = s.agenda) ∧
    (∀ i, h.freeze = .settling → h.ifr = some i → let g := s.undone h; let r := (s.updHart h.id fun _ => g).record g { i with vstart := g.csr.vstart }
      r.fits = true → ∃ t, exec (.recordFrozen id) s = .next t ∧ t.mem = s.mem ∧
      t.hartById id = some { g with freeze := .frozen, ifr := some r, strips := [], tags := { g.tags with epoch := g.tags.epoch + 1, seq := 0 }, events := { g.events with stalled := [] }, vec := { g.vec with tile := none } } ∧
      (s.windows id = [] → g = h) ∧
      (∃ p ∈ t.parked, p.ctx = h.sup.ctxid ∧ p.issuer = h.tags.issuer) ∧
      ((∀ p ∈ s.parked, p.ctx = h.sup.ctxid → p.issuer ≠ h.tags.issuer) → t.parked = s.parked ++ [⟨id, h.sup.ctxid, h.tags.issuer, h.job, g.seed⟩]) ∧ (∀ a ∈ t.accesses, a.hart = id → a.sup = true))

/-- Containment. An uncorrectable error, a fabric timeout and a write of KILLED kill a context that is not killed: its entry says so, no hart of it stays bound, no access (the model's
choice where R111 allows either, log entry 12), train or queued record of it is left, and a notice with the source joins the queue while it has room. The oldest notice traps the service hart, at
application level and of another context, with cause CONTAINMENT, the context and source in TRAPVAL and the address in TRAPELEM. -/
def Sys2Proof.Claim.ErrorsKillTheirContext : Prop :=
  (∀ (s : State) (ctx source : Nat) (pa : Word), let c := BitVec.ofNat 32 ctx; (s.ctxEntry c.toNat).killed = false →
    ∀ q ∈ [(Instr.uncorrectableError ctx source pa, source, if source = 1 then BitVec.ofNat 64 (pa.toNat % 2 ^ 52) else pa), (.killedWrite ctx, 6, BitVec.allOnes 64), (.fabricTimeout ctx pa, 5, pa)],
      ∃ t, exec q.1 s = .next t ∧ t.launch.ctxs = Sparse.upd CtxEntry.zero s.launch.ctxs c.toNat (fun e => { e with killed := true }) ∧
        (∀ h ∈ t.harts, h.bound = true → h.sup.ctxid ≠ c) ∧ (∀ a ∈ t.accesses, a.ctx ≠ c) ∧ (∀ a ∈ t.trains, a.ctx ≠ c) ∧
        (∀ k, ∀ r ∈ (t.queue k).recs, r.record.ctx ≠ c) ∧
        (s.launch.notices.length < 64 → t.launch.notices = s.launch.notices ++ [⟨c, BitVec.ofNat 8 q.2.1, q.2.2⟩]) ∧
        (64 ≤ s.launch.notices.length → t.launch.notices = s.launch.notices ∧ t.launch.dropped = s.launch.dropped + 1)) ∧
  (∀ (s : State) (n : Notice) (rest : List Notice) (id : Nat) (h : Hart), s.launch.notices = n :: rest → s.ownHart s.launch.cntHart = some id → s.hartById id = some h →
    s.launch.cntEnable = true → h.bound = true → h.level = .app → h.sup.ctxid ≠ n.ctx → h.freeze = .none →
    ∃ t k, exec .noticeDelivery s = .next t ∧ t.launch.notices = rest ∧ t.hartById id = some k ∧ k.level = .sup ∧ k.pc = h.sup.trapvec ∧ k.sup.trapcause = 11 ∧
      k.sup.trappc = h.pc ∧ k.sup.trapval = BitVec.ofNat 64 (n.ctx.toNat + 2 ^ 32 * n.source.toNat) ∧ k.sup.trapelem = n.pa ∧ k.x = h.x ∧ k.vec = h.vec ∧ k.csr = h.csr ∧
      t.mem = s.mem)

/-- Pre-emption with its record, and containment. -/
def Obligations.FreezesAndContainment : Prop := Claim.FreezesRecordWhatIsInFlight ∧ Claim.ErrorsKillTheirContext

/-- The Ladle's commands and steps, each in the state that lets it act, as log entry 13 reads it; LASTERR 0, what makes a die ABSENT and what starts a step is read as log entry 56 says: REPLICATE takes the lowest free frame and starts the copy, RETIRE and PUBLISH start a switch to the dies that are
not ABSENT, HOLD, UNHOLD, RECLAIM, REJOIN and FORCEDRAIN change their entry, and in any phase but IDLE the commands that need it answer LASTERR 6. A die applies a
switch and acknowledges it; the last acknowledgement advances LDVER and rotates every in-flight bucket; a die that does not answer becomes ABSENT. A verified
copy starts its switch, an unreadable one leaves LASTERR 3; DRAIN passes its step 2 with zero counts and a consumed inbox, then WIPE empties the replica. A waiting MERGE begins in IDLE or
between steps of DRAIN, sums, adds to DONE and returns there; an interval that has not its length does not end. -/
def Obligations.LadleCommandsAndStepsTakeEffect : Prop :=
  (∀ (s : State) (e die k : Nat), let x := s.expert e; let l := s.ladle
    (l.phase ≠ .idle → ∀ i ∈ [Instr.replicate e die, .retire e k, .reclaim e k, .rejoin die, .publish], exec i s = .next { s with ladle := { l with lasterr := 6 } }) ∧
    (l.phase = .idle →
      (x.valid = true → repActive (x.rep 0) = true → (∃ j, 1 ≤ j ∧ j < 8 ∧ repEmpty (x.rep j) = true) →
        (s.isAbsent die = false → (s.pool die).freeFrames = [] → ∃ t, exec (.replicate e die) s = .next t ∧ t.ladle.lasterr = 1 ∧ t.ladle.version = l.version ∧ t.ladle.table = l.table) ∧
        (∀ f rest, s.isAbsent die = false → (s.pool die).freeFrames = f :: rest → let p := s.pool die; let size := inboxSize p.ty.toNat; let cap := 2 ^ p.logcap.toNat
          let w := x.weightBytes.toNat; let g := x.gradBytes.toNat; let va := p.frameVa f
          ∃ j, 1 ≤ j ∧ j < 8 ∧ repEmpty (x.rep j) = true ∧
            let s2 := (s.setLadle fun l => { l with seq := .replicate, expert := e, die := die, replica := j, frame := f, phase := .copy, lasterr := 0 }).updPool die fun p => { p with used := p.used ||| (1 <<< f) }
            size ≠ 0 → 4 ≤ p.logcap.toNat → p.logcap.toNat ≤ 30 → w + g + 4096 + cap * size ≤ 4096 * p.fsize.toNat →
            ∀ d dst src, s2.ctxWritable l.ctx die (va + BitVec.ofNat 64 (w + g)) 64 8 = some d → s2.ctxWritable l.ctx die va w 8 = some dst →
              (s2.asContext l.ctx (x.rep 0).die.toNat).segments (x.rep 0).weights.toNat w 8 .read = .ok src →
              ∃ t, exec (.replicate e die) s = .next t ∧ t.ladle = s2.ladle ∧ (∃ c ∈ t.copyQueue (x.rep 0).die.toNat die, c.ladle = true ∧ c.len = w ∧ c.dst = dst ∧ c.src = src.map (·.1)))) ∧
      (1 ≤ k → k < 8 → repActive (x.rep k) = true → ∃ t, exec (.retire e k) s = .next t ∧ t.ladle.phase = .switch ∧ t.ladle.seq = .retire ∧ t.ladle.acks = s.presentDies ∧
        t.ladle.table = Sparse.upd Expert.zero l.table e (fun x => x.updRep k fun r => { r with state := 2, vstamp := l.version + 1 })) ∧
      (k < 8 → repDead (x.rep k) = true → ∃ t, exec (.reclaim e k) s = .next t ∧
        t.ladle.table = Sparse.upd Expert.zero l.table e fun x => x.updRep k fun r => { r with state := 0 }) ∧
      (s.isAbsent die = true → die < 8 → ∃ t, exec (.rejoin die) s = .next t ∧ t.isAbsent die = false ∧ (t.die die).version = l.version ∧ (t.die die).cache = l.table ∧ t.mem = s.mem) ∧
      (∃ t, exec .publish s = .next t ∧ t.ladle.phase = .switch ∧ t.ladle.acks = s.presentDies ∧ t.ladle.unapplied = s.presentDies ∧ t.ladle.version = l.version ∧ t.ladle.table = l.table)) ∧
    (¬ (l.phase ≠ .idle ∧ l.seq ≠ .none ∧ l.expert = e) → ∀ q ∈ [(Instr.hold e, true), (.unhold e, false)], exec q.1 s = .next (s.updExpert e fun x => { x with hold := q.2 })) ∧
    (repRetiring (x.rep k) = true → l.phase = .idle ∨ (l.phase = .drain ∧ l.expert = e ∧ l.replica = k) → ∃ t, exec (.forcedrain e k) s = .next t ∧
      t.ladle.table = Sparse.upd Expert.zero l.table e (fun x => x.updRep k fun r => { r with ifold := 0, ifcur := 0, ifnext := 0 }) ∧
      (l.phase = .drain → t.ladle.drained = true ∧ t.ladle.boundary = true))) ∧
  (∀ (s : State) (die : Nat), s.ladle.phase = .switch → s.isStalled .ladle = false →
    (die ∈ s.ladle.unapplied → ∃ t, exec (.switchApply die) s = .next t ∧ (t.die die).version = s.ladle.version + 1 ∧ (t.die die).cache = s.ladle.table ∧ die ∉ t.ladle.unapplied ∧ t.mem = s.mem) ∧
    (die ∈ s.ladle.acks → die ∉ s.ladle.unapplied → (∀ m ∈ s.ladle.messages, m.die = die → m.plus = true → m.version = s.ladle.version + 1) →
      ((∃ d ∈ s.ladle.acks, d ≠ die) → exec (.switchAck die) s = .next { s with ladle := { s.ladle with acks := s.ladle.acks.filter (· != die) } }) ∧
      ((∀ d ∈ s.ladle.acks, d = die) → ∃ t, exec (.switchAck die) s = .next t ∧ t.ladle.version = s.ladle.version + 1 ∧
        (t.ladle.table.map (·.1)) = s.ladle.table.map (·.1) ∧ (∀ p ∈ t.ladle.table, ∃ q ∈ s.ladle.table, ∀ r : Fin 8, (p.2.reps.get r).ifnext = 0 ∧
          (p.2.reps.get r).ifcur = (q.2.reps.get r).ifnext ∧ (p.2.reps.get r).ifold = (q.2.reps.get r).ifold + (q.2.reps.get r).ifcur))) ∧
    (die ∈ s.ladle.acks → die < 8 → s.isAbsent die = false → ∃ t, exec (.switchAckTimeout die) s = .next t ∧ t.isAbsent die = true ∧ die ∉ t.ladle.acks)) ∧
  (∀ (s : State) (err : Nat) (b : List Byte), s.ladle.phase = .verify → s.isStalled .ladle = false → let l := s.ladle; let x := s.expert l.expert; let va := (s.pool l.die).frameVa l.frame
    (err ≠ 0 → ∃ t, exec (.replicationVerify err) s = .next t ∧ t.ladle.lasterr = 3 ∧ t.ladle.version = l.version ∧ t.ladle.table = l.table) ∧
    (err = 0 → s.ctxRead l.ctx l.die va x.weightBytes.toNat 8 = some b → crc32c b = l.srcCrc → ∃ t, exec (.replicationVerify err) s = .next t ∧
      t.ladle.phase = .switch ∧ t.ladle.acks = s.presentDies ∧ t.mem = s.mem ∧ t.ladle.table = Sparse.upd Expert.zero l.table l.expert fun x =>
        { x.updRep l.replica (fun _ => { Replica.zero with weights := va, grads := va + x.weightBytes, inbox := va + x.weightBytes + x.gradBytes, vstamp := l.version + 1
                                                           state := 1, die := BitVec.ofNat 8 l.die }) with checksum := l.srcCrc })) ∧
  (∀ s : State, s.isStalled .ladle = false → let l := s.ladle; let r := (s.expert l.expert).rep l.replica
    (l.phase = .drain → l.drained = false → s.inboxDrained r = some true → r.ifold = 0 → r.ifcur = 0 → r.ifnext = 0 → exec .drainEnd s =
      .next { s with ladle := { l with drained := true, boundary := true }, agenda := s.agenda ++ ((if l.merges = 0 then [] else [.merge]) ++ [.drainEnd]) }) ∧
    (l.phase = .drain → l.drained = true → (s.training = false ∨ l.merged = true) →
      exec .drainEnd s = .next { s with ladle := { l with phase := .wipe }, agenda := s.agenda ++ [.wipe] }) ∧
    (l.phase = .wipe → ∃ t, exec .wipe s = .next t ∧ t.ladle.seq = .none ∧ (l.deadPending = false → t.ladle.phase = .idle) ∧
      t.ladle.table = Sparse.upd Expert.zero l.table l.expert fun x => x.updRep l.replica fun r => { r with state := 0 }) ∧
    (0 < l.merges → l.phase = .idle ∨ (l.phase = .drain ∧ l.boundary = true) → exec .merge s =
      .next { s with ladle := { l with phase := .merge, back := l.phase, merges := l.merges - 1 }, agenda := s.agenda ++ [.merge] }) ∧
    (l.phase = .merge → ∃ t, exec .merge s = .next t ∧ t.mem = ((l.table.map (·.1)).foldl State.mergeExpert s).mem ∧
      (∀ e, s.ladleCounter l.done = some e → t.counter e = s.counter e + 1) ∧ (l.deadPending = false → l.back = .idle → t.ladle.phase = .idle) ∧
      (l.deadPending = false → l.back = .drain → repDead r = false → t.ladle.phase = .drain ∧ t.ladle.merged = (l.merged || (l.drained && s.mergeCovers l.expert l.replica)))) ∧
    (s.intervalOver = false → exec .ladleIntervalEnd s = .next s) ∧
    (s.intervalOver = true → l.enable = false ∨ l.phase ≠ .idle ∨ l.merges ≠ 0 → ∃ t, exec .ladleIntervalEnd s = .next t ∧ (∀ d : Fin 8, (t.ladle.util.get d).toNat ≤ 1000 ∧ t.ladle.snapshot.get d = (s.dies.get d).load) ∧
      t.ladle = { l with util := t.ladle.util, snapshot := t.ladle.snapshot, routed := 0, since := s.now } ∧ t.mem = s.mem ∧ t.hart = s.hart)) ∧
  (∀ (s : State) (k : Nat) (m : Inflight), s.ladle.messages[k]? = some m → let d : BitVec 32 := if m.plus then 1 else BitVec.allOnes 32
    ∃ t, exec (.inflightMessage k) s = .next t ∧ t.mem = s.mem ∧ t.ladle = { s.ladle with
      messages := s.ladle.messages.eraseIdx k
      table := if m.plus && repDead ((s.expert m.expert).rep m.replica) then s.ladle.table else Sparse.upd Expert.zero s.ladle.table m.expert fun x => x.updRep m.replica fun r =>
        if m.version = s.ladle.version then { r with ifcur := r.ifcur + d }
        else if m.version = s.ladle.version + 1 then { r with ifnext := r.ifnext + d } else { r with ifold := r.ifold + d } })

/-- Lines are stored encrypted: what is sealed under the keys of the line's region and the line's counters opens to the same bytes, its cells are the bytes XORed with AES-256 of the
IVs of Table 19.2, and its tag matches. A write that a bank serves leaves the line's memory sealed in its cells, advances the counters on the line's path, and leaves the tags of its
counter block and nodes fitting. A line that no controller has written since the fill opens to zeros. The bytes and frames of ciphertext and tags are the model's (log entry 69), and so is
that a child is written back at once (log entry 14). -/
def Sys2Proof.Claim.StoredLinesAreEncryptedAndTagged : Prop :=
  (∀ (h : Hbm) (l : Nat) (plain : List Byte), plain.length = 64 →
    (h.sealLine l plain = none ↔ h.lineKeys l = none) ∧
    (∀ x, h.sealLine l plain = some x → h.openLine l x = some plain ∧ ({ h with stored := Sparse.set none h.stored l (some x) } : Hbm).tagGood l = true ∧
      ∃ k, h.lineKeys l = some k ∧ ∀ i, i < 64 → x.cipher.getD i 0 = plain.getD i 0 ^^^
        BitVec.ofNat 8 ((aesBlock (aesSchedule k.enc) (lineIv (linePa l) (h.lineCounters l).1 (h.lineCounters l).2 (i / 16))).toNat / 256 ^ (15 - i % 16)))) ∧
  (∀ (s : State) (stack l : Nat), (s.hbm.forced l) = [] → let t := s.writeLine stack l
    t.mem = s.mem ∧ Sparse.get none t.hbm.stored l = t.hbm.sealLine l (Memory.bytes s.mem (64 * l) 64) ∧ t.hbm.keyCur = s.hbm.keyCur ∧
    (∀ n, n < 8 → t.hbm.metaGood (l / 64) n = true) ∧ (∀ k ∈ treePath (l / 64), Sparse.get 0 t.hbm.tree k = Sparse.get 0 s.hbm.tree k + 1)) ∧
  (∀ (h : Hbm) (l : Nat), Sparse.get none h.stored l = none → h.tagGood l = true ∧ ∀ x, h.cells l = some x → h.openLine l x = some (List.replicate 64 0))

/-- Main memory's controllers and migration (bytes and frames of ciphertext and tags: log entry 69; counters that advance at once: log entry 14). A request joins its controller's queue, or waits for a source slot; a batch marks, for each source and bank, its oldest requests up to the
cap of their kind; a bank's command slot serves a marked request before others, opens its row and takes it off the queue. ROTATE shifts the key slots unless a region
holds OLD2, which sets ROTREF alone; the patrol counts what it finds and goes on. A migration slot copies its frame line by line, releasing the pins of
the source line, or stops in ERROR; CLEAR frees it. Lines are stored encrypted and tagged. Accesses from outside read and write local memory at their address. -/
def Obligations.MemoryControllersAndMigrationAct : Prop := Claim.StoredLinesAreEncryptedAndTagged ∧
  (∀ (s : State) (source line : Nat) (write : Bool), let k := s.stack (lineStack line)
    let r : MemReq := ⟨source, sourceKind source, lineChannel line, lineBank line, Config.lineRow line, write, line, false⟩
    let request := Instr.memoryRequest (lineStack line) r.kind source r.pch r.bank r.row write line
    ((∀ q ∈ k.queue ++ k.waiting, q.line ≠ line) →
      (source ∈ k.queue.map (·.source) ∨ (k.waiting = [] ∧ k.sources.length < 256) → exec request s = .next (s.updStack (lineStack line) fun k => { k with queue := k.queue ++ [r] })) ∧
      (source ∉ k.queue.map (·.source) → (k.waiting ≠ [] ∨ 256 ≤ k.sources.length) →
        exec request s = .next (s.updStack (lineStack line) fun k => { k with waiting := k.waiting ++ [r] }))) ∧
    (∀ stack kind pch bank row : Nat, (stack, kind, pch, bank, row) ≠ (lineStack line, r.kind, r.pch, r.bank, r.row) →
      exec (.memoryRequest stack kind source pch bank row write line) s = .next s)) ∧
  (∀ (s : State) (stack pch bank : Nat), let k := s.stack stack
    (k.queue ≠ [] → (∀ q ∈ k.queue, q.marked = false) → ∃ t, exec (.batchFormation stack) s = .next t ∧ (t.stack stack).batches = k.batches + 1 ∧
      (t.stack stack).queue.length = k.queue.length ∧ t.mem = s.mem ∧ ∀ i r, k.queue[i]? = some r →
        let n := ((k.queue.take i).filter fun q => q.source == r.source && q.pch == r.pch && q.bank == r.bank).length
        (t.stack stack).queue[i]? = some { r with marked := decide (n < capOf s.hbm.memqos r.kind) }) ∧
    ((∃ q ∈ k.queue, q.marked = true) → let cand := k.queue.filter fun r => r.pch == pch && r.bank == bank && s.hbm.servable r
      cand ≠ [] → ∃ r ∈ cand, ((∃ q ∈ cand, q.marked = true) → r.marked = true) ∧ ∃ t, exec (.bankCommandSlot stack pch bank) s = .next t ∧
        (∀ q ∈ (t.stack stack).queue, q ∈ k.queue ++ k.waiting ∧ (q ∈ k.waiting ∨ q.line ≠ r.line)) ∧
        (t.stack stack).rows = Sparse.set 0 k.rows (16 * pch + bank) (r.row + 1) ∧ (r.write = false → t.hbm.blocks = s.hbm.blocks ∧ (s.hbm.lineFault r.line = 0 →
          t.hbm.fetched = ((s.hbm.cells r.line).bind (s.hbm.openLine r.line)).map fun b => (r.line, b))) ∧ t.mem = s.mem)) ∧
  (∀ s : State, let h := s.hbm
    (h.versionUsed (h.keyver - 2) = true → exec .rotate s = .next { s with hbm := { h with rotref := true } }) ∧
    (h.versionUsed (h.keyver - 2) = false → ∃ t, exec .rotate s = .next t ∧ t.hbm.keyCur = h.keyNext ∧ t.hbm.keyOld1 = h.keyCur ∧ t.hbm.keyOld2 = h.keyOld1 ∧ t.hbm.keyNext ≠ none ∧
      t.hbm.keyver = h.keyver + 1 ∧ t.hbm.region = 0 ∧ t.hbm.rotref = false ∧ t.mem = s.mem) ∧
    (∀ found : Nat × Nat, let result := found.1; (∀ l, h.lineFault l = 0) → h.overflow = [] → h.enable = true → h.keyNext ≠ none → h.nextRegion (h.regions.length + 1) h.region = h.region → h.region < regionCount → h.patrolLine + 1 < regionLines →
      ∃ t, exec (.nimbusPatrolLine found) s = .next t ∧ t.hbm.patrolLine = h.patrolLine + 1 ∧ t.hbm.region = h.region ∧ t.mem = s.mem ∧
        t.hbm.corr = h.corr + (if result = 1 then 1 else 0) ∧ t.hbm.uncorr = h.uncorr + (if 2 ≤ result ∧ result ≤ 11 then 1 else 0) ∧
        t.hbm.errTotal = h.errTotal + (if 1 ≤ result ∧ result ≤ 11 then 1 else 0)) ∧
    (∀ page, ∃ t, exec (.minorOverflowEnd page) s = .next t ∧ page ∉ t.hbm.overflow ∧ (s.hostWaits = [] → t = { s with hbm := { h with overflow := h.overflow.filter (· != page) }, agenda := s.agenda ++ s.heldDues }))) ∧
  (∀ (s : State) (k : Nat), let m := s.migSlot k; let src := s.migLine m.old m.pointer; let dst := s.migLine m.new m.pointer
    (m.state = .free → exec (.migrationGo k) s = .next ((s.updMig k fun m => { m with state := .copying, pointer := 0 }).due [.migrationLineCopy k])) ∧
    (m.state = .done ∨ m.state = .error → exec (.migrationClear k) s = .next (s.updMig k fun m => { m with state := .free, pointer := 0 })) ∧
    (m.state = .copying → m.pointer < 64 → s.isHeld src = true ∨ s.isHeld dst = true → ∀ e, exec (.migrationLineCopy k e) s = .next s) ∧
    (m.state = .copying → m.pointer < 64 → s.isHeld src = false → s.isHeld dst = false → s.isPoisoned src = false → ∃ t, exec (.migrationLineCopy k false) s = .next t ∧ t.mem = Memory.put s.mem dst (Memory.bytes s.mem src 64) ∧
      (t.migSlot k).pointer = m.pointer + 1 ∧ (t.migSlot k).state = (if m.pointer = 63 then .done else .copying) ∧ (∀ p ∈ t.pins, p.line ≠ src / 64) ∧ t.hart = s.hart) ∧
    (m.state = .copying → m.pointer < 64 → s.isHeld src = false → s.isHeld dst = false → ∃ t, exec (.migrationLineCopy k true) s = .next t ∧ (t.migSlot k).state = .error ∧ (t.migSlot k).pointer = m.pointer ∧ t.mem = s.mem ∧
      t.isPoisoned src = true)) ∧
  (∀ (s : State) (pa len : Nat) (b : List Byte), pa + len ≤ 2 ^ 40 →
    ∀ q ∈ [(Instr.hostCxlMemAccess pa len, false), (.fabricAccess pa len, true)], ∀ write : Bool,
      (s.hostBlocked ⟨pa, len, write, b, q.2⟩ = true → exec (q.1 write b) s = .next { s with hostWaits := s.hostWaits ++ [⟨pa, len, write, b, q.2⟩] }) ∧
      (s.hostBlocked ⟨pa, len, write, b, q.2⟩ = false →
        ((∀ p ∈ pieces pa len 64, s.isPoisoned p.1 = false) → (write = true → ∃ t, exec (q.1 write b) s = .next t ∧ t.mem = Memory.put s.mem pa (b.take len) ∧ t.hbm = s.hbm ∧ t.hart = s.hart) ∧
          (write = false → exec (q.1 write b) s = .next { s with outside := { s.outside with data := Memory.bytes s.mem pa len, poisoned := false } })) ∧
        ((∃ p ∈ pieces pa len 64, s.isPoisoned p.1 = true ∧ (write = false ∨ p.2 ≠ 64)) →
          exec (q.1 write b) s = .next { s with outside := { s.outside with data := [], poisoned := true } }) ∧
        (write = true → (∀ p ∈ pieces pa len 64, p.2 = 64) → ∃ t, exec (q.1 write b) s = .next t ∧ t.mem = Memory.put s.mem pa (b.take len) ∧ ∀ p ∈ pieces pa len 64, t.isPoisoned p.1 = false)))

/-- Reset, boot and the life cycle. A cold reset destroys the keys and every byte of local HBM and starts the fill; a warm reset keeps both and the error history; both unbind every
hart and close every queue. A boot stage whose image verifies is measured and reached, any other stops the boot with its code; the fill passes lines and ends with two keys
and KEYVER 1. A life-cycle request that the table or the token forbids changes LCRES alone, an accepted one changes the state and erases memory. Attestation answers. -/
def Obligations.ResetsBootAndLifeCycle : Prop :=
  (∀ s : State, (∃ t, exec .coldReset s = .next t ∧ t.hart.bound = false ∧ t.others = [] ∧ t.launch = LaunchBlock.zero ∧ (∀ a, a < 2 ^ 40 → Memory.byte t.mem a = 0) ∧
      t.hbm.keyCur = none ∧ t.hbm.keyNext = none ∧ t.hbm.keyOld1 = none ∧ t.hbm.keyOld2 = none ∧ t.mgmt.fill = true ∧ t.mgmt.fillptr = 0 ∧ t.mgmt.lcstate = s.mgmt.lcstate ∧ t.mgmt.owner = s.mgmt.owner ∧ t.fuses = s.fuses) ∧
    (Memory.wf s.mem = true → ∃ t, exec .warmReset s = .next t ∧ t.hart.bound = false ∧ t.others = [] ∧ t.launch = LaunchBlock.zero ∧
      (∀ a, a < 2 ^ 61 → Memory.byte t.mem a = Memory.byte s.mem a) ∧ (∀ a, 2 ^ 61 ≤ a → Memory.byte t.mem a = 0) ∧ t.hbm.keyCur = s.hbm.keyCur ∧ t.hbm.keyNext = s.hbm.keyNext ∧ t.hbm.errlog = s.hbm.errlog ∧
      t.mgmt.fill = s.mgmt.fill ∧ t.mgmt.lcstate = s.mgmt.lcstate ∧ t.mgmt.health = s.mgmt.health ∧ t.fuses = s.fuses)) ∧
  (∀ (s : State) (b : List Byte), let n := s.mgmt.bootStage.toNat; s.mgmt.bootFail = 0 → n < 3 → (n = 1 → s.mgmt.fill = false) →
    (s.fuses.checkImage (n + 1) b = 0 → ∃ t, exec (.bootStage b) s = .next t ∧ t.mgmt.bootStage.toNat = n + 1 ∧ t.mgmt.bootFail = 0 ∧ t.mgmt.meas.get (Fin.ofNat 6 (n + 1)) = sha256 (b.take (0xC0 + leNat ((b.drop 8).take 8))) ∧ t.mem = s.mem) ∧
    (∀ f, s.fuses.checkImage (n + 1) b = f + 1 → ∃ t, exec (.bootStage b) s = .next t ∧ t.mgmt.bootStage = s.mgmt.bootStage ∧ t.mgmt.bootFail = BitVec.ofNat 4 (f + 1) ∧ t.mem = s.mem)) ∧
  (∀ s : State, s.mgmt.fill = true →
    (s.mgmt.fillptr + 1 < 2 ^ 34 → ∃ t, exec .zeroFillLine s = .next t ∧ t.mgmt.fillptr = s.mgmt.fillptr + 1 ∧ t.mgmt.fill = true ∧ (s.hostWaits = [] → t.mem = s.mem)) ∧
    (∀ i ∈ [Instr.zeroFillComplete] ++ (if s.mgmt.fillptr + 1 = 2 ^ 34 then [.zeroFillLine] else []), ∃ t, exec i s = .next t ∧ t.mgmt.fill = false ∧ t.hbm.keyver = 1 ∧
      t.hbm.keyCur ≠ none ∧ t.hbm.keyNext ≠ none)) ∧
  (∀ s : State, ∀ q ∈ [(Instr.lcreqProvisioned, 1), (.lcreqDeployed, 2), (.lcreqRma, 3), (.lcreqDecommissioned, 4)],
    (lcAllowed s.mgmt.lcstate.toNat q.2 = false → exec q.1 s = .next { s with mgmt := { s.mgmt with lcres := 3 } }) ∧
    (lcAllowed s.mgmt.lcstate.toNat q.2 = true → s.tokenOk q.2 = false → exec q.1 s = .next { s with mgmt := { s.mgmt with lcres := 2 } }) ∧
    (lcAllowed s.mgmt.lcstate.toNat q.2 = true → s.tokenOk q.2 = true → ∃ t, exec q.1 s = .next t ∧ t.mgmt.lcres = 1 ∧ t.mgmt.lcstate.toNat = q.2 ∧ t.mgmt.fill = true ∧
      t.mgmt.fillptr = 0 ∧ t.hbm.keyCur = none ∧ (∀ a, a < 2 ^ 40 → Memory.byte t.mem a = 0) ∧ t.hart = s.hart)) ∧
  (∀ (s : State) (off len index : Nat) (nonce : BitVec 256), let answers := fun (i : Instr) (b : List Byte) => exec i s = .next { s with outside := { s.outside with data := b, poisoned := false } }
    let meas := s.mgmt.meas.toList.flatMap fun d => beBytes 32 d.toNat; let m2 := s.mgmt.meas.get 1
    answers .getVersion [0x13] ∧ answers .getCapabilities [0x16, 0, 0, 0] ∧ answers .negotiateAlgorithms [0x10, 0x01] ∧
    (s.mgmt.lcstate ≠ 4 → answers .getDigests (beBytes 32 (Config.certDigest s.fuses.uniqueSecret m2).toNat) ∧
      answers (.getCertificate off len) ((List.range len).map fun i => Config.certByte s.fuses.uniqueSecret m2 (off + i)) ∧
      answers (.challenge nonce) (beBytes 64 (Config.identitySign s.fuses.uniqueSecret m2 (sha256 (beBytes 32 nonce.toNat ++ meas))).toNat) ∧
      (∀ k : Fin 6, answers (.getMeasurements (k.val + 1)) (beBytes 32 (s.mgmt.meas.get k).toNat)) ∧ (index = 0 ∨ 6 < index → answers (.getMeasurements index) meas)) ∧
    (s.mgmt.lcstate = 4 → ∀ i ∈ [Instr.getDigests, .getCertificate off len, .challenge nonce, .getMeasurements index], answers i [4]))

/-- How many units are mapped out that share a budget with unit k of a class: cores and slices of the die, octets of the package, LLC banks, pseudo-channels of the stack, lanes of
the link, wavelengths of the fibre. -/
def Sys2Proof.Claim.mappedOut (t : State) (cls die k : Nat) : Nat :=
  let out := fun (c u : Nat) => (t.mgmt.unitsOut.filter fun x => x.1 == c && x.2 / 64 == u / 64).length
  match cls with
  | 0 => (t.die die).coresOut.length
  | 1 => (List.range 8).foldl (fun n d => n + (t.die d).octetsOut.length) 0
  | 2 => (t.die die).slicesOut.length
  | 3 => t.mgmt.llcOut.length
  | 4 => if k < 384 then (t.die die).pchOutA else (t.die die).pchOutB
  | 5 => out 5 (die * 4096 + k)
  | _ => out 6 (die / 2 * 4096 + k)

/-- They are within their budget (Table 20.1). -/
def Sys2Proof.Claim.WithinBudget (t : State) (cls die k : Nat) : Prop := Claim.mappedOut t cls die k ≤ [2, 16, 1, 8, 24, 4, 2].getD cls 0

/-- The host's registers and the fleet. A register write is obeyed only while BAR0 is open; one that is not aligned counts as
malformed at a queue's window and is discarded elsewhere: FABTMO and ROUTE hold what is written. A link's and a
noise source's state follow their steps. A unit that fails is mapped out, and one that was not makes HEALTH at least DEGRADED within its class's budget (Table 20.1) and
REPLACE_REQUESTED, with the cause bit of its class, beyond it; DIERST of a die in service resets it: its transit
buffers drain, its SRAM is zero and it returns to service, or stays OUT when it was hot. A power evaluation records each die's reading, adds its energy and steps
down a die above its cap or at 95 °C. -/
def Obligations.HostWritesAndFleetSteps : Prop :=
  (∀ (s : State) (off : Nat) (v : Word), (s.bar0Open = false → exec (.registerWrite off v) s = .next s) ∧
    (s.bar0Open = true → off % 8 ≠ 0 → s.launch.held = [] → ∃ t, exec (.registerWrite off v) s = .next t ∧
      t = if 0x210000 ≤ off ∧ off < 0x250000 then s.updQueue ((off - 0x210000) / 0x1000) fun k => { k with malformed := k.malformed + 1, lasterr := 2 } else s) ∧
    (s.bar0Open = true →
      exec (.registerWrite 0x30 v) s = .next { s with mgmt := { s.mgmt with fabtmo := if v.toNat % 2 ^ 32 = 0 then 10000 else BitVec.ofNat 32 v.toNat } } ∧
      (∀ p, p < 64 → exec (.registerWrite (0x1100000 + 8 * p) v) s = exec (.routeWrite p v) s) ∧ (off % 8 = 0 → exec (.registerWrite off v) s = .next (s.regWrite off v)))) ∧
  (∀ (s : State) (p link die : Nat) (v : Word) (up : Bool), (p < 64 → ∃ t, exec (.routeWrite p v) s = .next t ∧
      t = { s with fabric := { s.fabric with route := Sparse.set 0 s.fabric.route p (v.setWidth 4), moved := t.fabric.moved } } ∧ ((∀ d, (s.die d).state = 0) → p ∉ t.fabric.moved)) ∧
    (link < 4 → ∃ t, exec (.linkTrained link up) s = .next t ∧ t.fabric.up.get (Fin.ofNat 4 link) = up ∧ (∀ k, k ≠ Fin.ofNat 4 link → t.fabric.up.get k = s.fabric.up.get k) ∧ t = { s with fabric := t.fabric }) ∧
    exec (.linkTrained 4 up) s = .next { s with fabric := { s.fabric with hostUp := up } } ∧
    (∃ t, exec (.nsfailChange die up) s = .next t ∧ (t.die die).nsfail = up ∧ (t.die die) = { s.die die with nsfail := up } ∧ t = { s with dies := t.dies })) ∧
  (∀ (s : State) (die k : Nat), ∀ q ∈ [(0, 48, fun t : State => decide (k ∈ (t.die die).coresOut)), (1, 384, fun t => decide (k ∈ (t.die die).octetsOut)),
      (2, 48, fun t => decide (k ∈ (t.die die).slicesOut)), (3, 512, fun t => decide (k ∈ t.mgmt.llcOut)), (4, 768, fun t => decide ((4, die * 1024 + k) ∈ t.mgmt.unitsOut)),
      (5, 4096, fun t => decide ((5, die * 4096 + k) ∈ t.mgmt.unitsOut)), (6, 4096, fun t => decide ((6, die / 2 * 4096 + k) ∈ t.mgmt.unitsOut))],
    k < q.2.1 → ∃ t, exec (.unitMapOut q.1 die k) s = .next t ∧ q.2.2 t = true ∧
      (q.2.2 s = false → (WithinBudget t q.1 die k → t.mgmt.health = (if s.mgmt.health = 2 then 2 else 1) ∧ t.mgmt.cause = s.mgmt.cause) ∧
        (¬ WithinBudget t q.1 die k → t.mgmt.health = 2 ∧ t.mgmt.cause = s.mgmt.cause ||| (1 <<< q.1)))) ∧
  (∀ (s : State) (die : Nat),
    (die < 8 → (s.die die).state = 0 → ∃ t, exec (.dierst die) s = .next t ∧ (t.die die).state = 1 ∧ .dieDrainEnd die ∈ t.agenda ∧
      t.isAbsent die = true) ∧
    ((s.die die).state ≠ 0 → exec (.dierst die) s = .next s) ∧
    ((s.die die).state = 1 → ((∀ k, ∀ c ∈ s.copyQueue die k, c.ladle = false) → ∃ t, exec (.dieDrainEnd die) s = .next t ∧ (t.die die).noc.ports = [] ∧ (∀ k, t.copyQueue die k = []) ∧ t.agenda = s.agenda ++ [.dieResetComplete die] ∧ t.mem = s.mem) ∧
      (∃ t, exec (.dieResetComplete die) s = .next t ∧ (t.die die).state = (if (s.die die).power.hot then 2 else 0) ∧ (t.die die).dsm = [] ∧ (t.die die).cache = [] ∧ (t.die die).version = 0 ∧
        (∀ c a, c < 48 → locVsp die c 0 ≤ a → a < locVsp die c 0 + 2 ^ 20 → Memory.byte t.mem a = 0) ∧ t.hart = s.hart))) ∧
  (∀ (s : State) (l : List (Nat × Nat)) (d : Fin 8), let x := l.getD d.val (0, 0); let p := (s.dies.get d).power
    ∃ t, exec (.powerEvaluation l) s = .next t ∧ t.now = s.now + 1000 ∧ (t.dies.get d).power.temp = BitVec.ofNat 8 x.2 ∧ (t.dies.get d).power.power = BitVec.ofNat 16 x.1 ∧
      (t.dies.get d).power.energy = p.energy + BitVec.ofNat 64 (1000 * x.1) ∧ (t.dies.get d).power.cap = p.cap ∧
      (s.mgmt.pkgcap = 0 → (t.dies.get d).power.downs = p.downs + (if p.cap ≠ 0 ∧ (p.cap.toNat < x.1 ∨ 95 ≤ x.2) ∧ p.step < 2 then 1 else 0)))

/-! ### Waits that end -/

/-- A wait of the current hart that has ended completes its instruction: at FENCE_COMPLETE, VLSYNC_COMPLETE, HWAIT_WAKE, EVWAIT_WAKE, HALT_COMPLETE, GRANT_CHANGE and MODE_SWITCH the
waiting FENCE, VLSYNC, HCTL.WAIT, EVWAIT, HALT, VSETVL or mode change has its effect, and the hart runs on past it. -/
def Sys2Proof.Claim.EndedHartWaitsCompleteTheirInstruction : Prop :=
  ∀ (s : State) (scope sets ew : BitVec 3) (k target : BitVec 5) (rd rs1 : XReg), let h := s.hart; let id := h.id; let x := h.handle k.toNat
    let past := { s with hart := { h with pc := h.pc + 4, run := .running, wait := none } }
    h.level = .app →
    (h.wait = some (.fence scope sets) → (∀ a ∈ s.accesses, a.hart = id → (sets.getLsbD 0 = true → a.reads = false) ∧ (sets.getLsbD 1 = true → a.writes = false)) →
      (sets.getLsbD 2 = true → s.enginesBusy h = false) → exec (.fenceComplete id) s = .next past) ∧
    (h.wait = some .vlsync → (∀ a ∈ s.accesses, a.hart = id → a.reads = false ∧ a.writes = false) → exec (.vlsyncComplete id) s = .next past) ∧
    (h.wait = some (.hwait rd k target) → ¬ (x.state = .filling ∨ x.state = .draining) ∨ x.state.code = target.toNat →
      ∃ t, exec (.hwaitWake id) s = .next t ∧ WritesReg s t 8 rd (BitVec.ofNat 64 x.state.code)) ∧
    (∀ (r : EventRec) (rest : List EventRec) (p : Place), h.wait = some (.evwait rd rs1) → h.events.recs = r :: rest → s.probe (s.rx rs1) 16 16 .write = .ok p →
      (s.cachePage (s.rx rs1)).gate p = .opened → p.reg = none → s.relaxed = false → Memory.wf s.mem = true → ∃ t, exec (.evwaitWake id) s = .next t ∧
        Memory.num t.mem p.loc 8 = r.ev.kind.toNat + 256 * r.ev.detail.toNat + 2 ^ 32 * r.seq.toNat ∧ Memory.num t.mem (p.loc + 8) 8 = r.ev.payload.toNat ∧
        t.hart.events = { h.events with recs := rest } ∧ (rd ≠ 0 → t.rx rd = BitVec.ofNat 64 (rest.length + 1)) ∧ t.hart.pc = h.pc + 4 ∧ t.hart.run = .running) ∧
    (h.wait = some .halt → s.haltWaits = false → ∃ t, exec (.haltComplete id) s = .next t ∧ t.hart.bound = false ∧ (∀ g ∈ t.others, g.id ≠ id) ∧
      ∃ e ∈ t.ended, e.hart.id = id ∧ e.hart.x = h.x ∧ e.hart.csr = h.csr) ∧
    (h.wait = some (.vsetvl rd rs1 ew) → h.vec.matrix = false → s.vectorBusy = false → let o := h.grant.decided.getD (s.decideGrant h.grantTarget)
      ∃ t, exec (.grantChange id) s = .next t ∧ t.hart.vec.octets = o ∧ t.hart.vec.ew = ew ∧ t.hart.csr.vstart = 0 ∧
        t.hart.csr.vl = BitVec.ofNat 64 (min (s.rx rs1).toNat (8 * octetCount o * 512 / ewBits ew)) ∧ (rd ≠ 0 → t.rx rd = t.hart.csr.vl) ∧ t.hart.pc = h.pc + 4 ∧ t.hart.run = .running) ∧
    (s.lent = false → s.vectorBusy = false →
      (h.wait = some .modeM → ∃ t, exec (.modeSwitch id) s = .next t ∧ t = { past with hart := { past.hart with vec := { h.vec with matrix := true, tile := none }, csr := t.hart.csr } } ∧ t.hart.csr = h.clearVstart.csr) ∧
      (h.wait = some .modeV → ∃ t, exec (.modeSwitch id) s = .next t ∧ t.hart.vec.matrix = false ∧ t.hart.pc = h.pc + 4 ∧ t.hart.run = .running ∧ t.hart.vec.v = h.vec.v ∧ t.hart.x = h.x ∧ t.mem = s.mem))

/-- A SYNC wait of the current hart that has ended completes its instruction: SCNTWAIT_SATISFIED once the counter has reached the value, SBARWAIT_RELEASE once the phase has passed or the
barrier is broken, SREDGET_SATISFIED once the round has closed, and SSEMACQ_GRANT for the first waiter once the semaphore holds enough. -/
def Sys2Proof.Claim.EndedSyncWaitsCompleteTheirInstruction : Prop :=
  ∀ (s : State) (xd xh xv : XReg) (ty : BitVec 3) (sys : Bool) (e : Nat), let id := s.hart.id; let v := s.rx xv
    s.tagsFull 1 = false → s.tableFull dupTrivet 1 = false → s.relaxed = false → s.accesses = [] →
    (s.hart.wait = some (.scntwait xd xh xv sys) → s.syncElemOf kCounter (s.rx xh) = some e → v.toNat ≤ (s.counter e).toNat →
      ∃ t, exec (.scntwaitSatisfied id) s = .next t ∧ WritesReg (s.tagged dupTrivet (s.counter e)) t 8 xd (s.counter e)) ∧
    (s.hart.wait = some (.sbarwait xd xh xv sys) → s.syncElemOf kBarrier (s.rx xh) = some e → let b := s.barrier e
      (b.n ≠ 0 → b.broken = false → b.phase.toNat ≠ v.toNat % 2 ^ 32 → ∃ t, exec (.sbarwaitRelease id) s = .next t ∧ WritesReg (s.tagged dupTrivet 0) t 8 xd 0) ∧
      (b.n ≠ 0 → b.broken = true → ∃ t, exec (.sbarwaitRelease id) s = .next t ∧ WritesReg (s.tagged dupTrivet 1) t 8 xd 1)) ∧
    (s.hart.wait = some (.sredget xd xh xv ty sys) → s.cellElem xh ty = some e → v.toNat % 2 ^ 32 ≤ (s.cell e).rounds.toNat →
      ∃ t, exec (.sredgetSatisfied id) s = .next t ∧ WritesReg (s.tagged dupTrivet (s.cell e).result) t 8 xd (s.cell e).result) ∧
    (∀ rest, s.hart.wait = some (.ssemacq xd xh xv sys) → s.syncElemOf kSem (s.rx xh) = some e → let x := s.sem e
      x.waiters = (id, v) :: rest → (∀ w ∈ rest, w.1 ≠ id) → v.toNat ≤ x.value.toNat → ∃ t, exec (.ssemacqGrant e) s = .next t ∧
        WritesReg ((s.setSem e ⟨x.value - v, rest⟩).tagged dupTrivet (x.value - v)) t 8 xd (x.value - v))

/-- Accesses on their way complete, and waiting instructions with them. -/
def Obligations.OutstandingAccessesAndWaitsComplete : Prop :=
  Claim.OutstandingAccessesCompleteInOrder ∧ Claim.WaitingInstructionsCompleteAtTheirStep ∧ Claim.EndedHartWaitsCompleteTheirInstruction ∧ Claim.EndedSyncWaitsCompleteTheirInstruction
end

