-- ==== Sys2Proof/Laws/Memory.lean ====
section
/-! SUPPORT. Sparse tables and memory: reading after writing, and the canonical form that every memory operation keeps. -/

namespace Sys2Proof.Machine

section Sparse

variable {α : Type} [DecidableEq α] {d x : α} {lo n k : Nat} {t : Sparse α}

theorem Sparse.wfFrom_mono {hi : Nat} (h : lo ≤ hi) (ht : Sparse.wfFrom d hi t = true) : Sparse.wfFrom d lo t = true := by
  cases t with
  | nil => rfl
  | cons p t =>
    simp only [Sparse.wfFrom, Bool.and_eq_true, decide_eq_true_eq] at ht ⊢
    exact ⟨⟨Nat.le_trans h ht.1.1, ht.1.2⟩, ht.2⟩

/-- Below its first key a table holds nothing. -/
theorem Sparse.get_below (ht : Sparse.wfFrom d lo t = true) (h : n < lo) : Sparse.get d t n = d := by
  cases t with
  | nil => rfl
  | cons p t =>
    simp only [Sparse.wfFrom, Bool.and_eq_true, decide_eq_true_eq] at ht
    have h1 : p.1 ≠ n := by omega
    have h2 : n < p.1 := by omega
    simp [Sparse.get, h1, h2]

/-- Writing a key keeps the canonical form. -/
theorem Sparse.wfFrom_set (ht : Sparse.wfFrom d lo t = true) (h : lo ≤ n) : Sparse.wfFrom d lo (Sparse.set d t n x) = true := by
  induction t generalizing lo with
  | nil => by_cases hx : x = d <;> simp [Sparse.set, Sparse.wfFrom, hx, h]
  | cons p t ih =>
    simp only [Sparse.wfFrom, Bool.and_eq_true, decide_eq_true_eq] at ht
    obtain ⟨⟨h1, h2⟩, h3⟩ := ht
    simp only [Sparse.set]
    split
    · split
      · simp [Sparse.wfFrom, h1, h2, h3]
      · have : n + 1 ≤ p.1 := by omega
        simp [Sparse.wfFrom, *]
    · split
      · subst n
        split
        · exact Sparse.wfFrom_mono (by omega) h3
        · simp [Sparse.wfFrom, *]
      · simp [Sparse.wfFrom, h1, h2, ih h3 (by omega)]

/-- A key reads what was written to it. -/
theorem Sparse.get_set_same (ht : Sparse.wfFrom d lo t = true) : Sparse.get d (Sparse.set d t n x) n = x := by
  induction t generalizing lo with
  | nil => by_cases hx : x = d <;> simp [Sparse.set, Sparse.get, hx]
  | cons p t ih =>
    simp only [Sparse.wfFrom, Bool.and_eq_true, decide_eq_true_eq] at ht
    obtain ⟨⟨-, -⟩, h3⟩ := ht
    simp only [Sparse.set]
    split
    · have : p.1 ≠ n := by omega
      split <;> simp [Sparse.get, *]
    · split
      · subst n
        split
        · rename_i hx
          rw [hx]; exact Sparse.get_below h3 (by omega)
        · simp [Sparse.get]
      · rename_i h1 h2
        simp [Sparse.get, Ne.symm h2, h1, ih h3]

/-- Other keys keep what they hold. -/
theorem Sparse.get_set_other (ht : Sparse.wfFrom d lo t = true) (hk : k ≠ n) : Sparse.get d (Sparse.set d t n x) k = Sparse.get d t k := by
  induction t generalizing lo with
  | nil => by_cases hx : x = d <;> simp [Sparse.set, Sparse.get, hx, Ne.symm hk]
  | cons p t ih =>
    simp only [Sparse.wfFrom, Bool.and_eq_true, decide_eq_true_eq] at ht
    obtain ⟨⟨-, -⟩, h3⟩ := ht
    simp only [Sparse.set]
    split
    · split
      · rfl
      · have h4 : n ≠ k := Ne.symm hk
        by_cases hkn : k < n
        · have : p.1 ≠ k := by omega
          have : k < p.1 := by omega
          simp [Sparse.get, *]
        · simp [Sparse.get, h4, hkn]
    · split
      · rename_i h5
        have h6 : p.1 ≠ k := fun h => hk (by omega)
        have h4 : n ≠ k := Ne.symm hk
        split
        · simp only [Sparse.get, h6, if_false]
          split
          · exact Sparse.get_below h3 (by omega)
          · rfl
        · simp only [Sparse.get, h6, h4, if_false]
          subst h5; rfl
      · simp [Sparse.get, ih h3]

/-- Dropping entries keeps the canonical form. -/
theorem Sparse.wfFrom_filter (p : Nat × α → Bool) (ht : Sparse.wfFrom d lo t = true) : Sparse.wfFrom d lo (t.filter p) = true := by
  induction t generalizing lo with
  | nil => rfl
  | cons q t ih =>
    simp only [Sparse.wfFrom, Bool.and_eq_true, decide_eq_true_eq] at ht
    obtain ⟨⟨h1, h2⟩, h3⟩ := ht
    rw [List.filter_cons]
    split
    · simp [Sparse.wfFrom, h1, h2, ih h3]
    · exact Sparse.wfFrom_mono (by omega) (ih h3)

/-- Two tables one above the other make one. -/
theorem Sparse.wfFrom_append {a b : Sparse α} (mid : Nat) (ha : Sparse.wfFrom d lo a = true) (hb : Sparse.wfFrom d mid b = true)
    (hlt : ∀ p ∈ a, p.1 < mid) (hlo : lo ≤ mid) : Sparse.wfFrom d lo (a ++ b) = true := by
  induction a generalizing lo with
  | nil => exact Sparse.wfFrom_mono hlo hb
  | cons q a ih =>
    simp only [Sparse.wfFrom, Bool.and_eq_true, decide_eq_true_eq] at ha
    obtain ⟨⟨h1, h2⟩, h3⟩ := ha
    have hq : q.1 < mid := hlt q (by simp)
    have := ih h3 (fun p hp => hlt p (by simp [hp])) hq
    simp [Sparse.wfFrom, *]

/-- A table whose keys lie above a bound is canonical from there. -/
theorem Sparse.wfFrom_above (mid : Nat) (ht : Sparse.wfFrom d lo t = true) (h : ∀ p ∈ t, mid ≤ p.1) : Sparse.wfFrom d mid t = true := by
  cases t with
  | nil => rfl
  | cons q t =>
    simp only [Sparse.wfFrom, Bool.and_eq_true, decide_eq_true_eq] at ht ⊢
    exact ⟨⟨h q (by simp), ht.1.2⟩, ht.2⟩

end Sparse

/-! ### Memory -/

variable {m : List Host.Cell}

theorem Memory.wf_nil : Memory.wf [] = true := rfl

theorem Memory.wf_set (h : Memory.wf m = true) (a : Nat) (b : Byte) : Memory.wf (Sparse.set (0 : Byte) m a b) = true :=
  Sparse.wfFrom_set h (Nat.zero_le a)

/-- Writing bytes keeps the canonical form. -/
theorem Memory.wf_put (h : Memory.wf m = true) (a : Nat) (l : List Byte) : Memory.wf (Memory.put m a l) = true := by
  induction l generalizing m a with
  | nil => exact h
  | cons b l ih => exact ih (Memory.wf_set h a b) (a + 1)

/-- Dropping the bytes of a range keeps the canonical form. -/
theorem Memory.wf_filter (h : Memory.wf m = true) (p : Host.Cell → Bool) : Memory.wf (m.filter p) = true :=
  Sparse.wfFrom_filter p h

theorem Memory.byte_set_same (h : Memory.wf m = true) (a : Nat) (b : Byte) : Memory.byte (Sparse.set (0 : Byte) m a b) a = b :=
  Sparse.get_set_same h

theorem Memory.byte_set_other (h : Memory.wf m = true) {a k : Nat} (b : Byte) (hk : k ≠ a) :
    Memory.byte (Sparse.set (0 : Byte) m a b) k = Memory.byte m k := Sparse.get_set_other h hk

/-- A byte outside the written range reads as before. -/
theorem Memory.byte_put_outside (h : Memory.wf m = true) {a k : Nat} {l : List Byte} (hk : k < a ∨ a + l.length ≤ k) :
    Memory.byte (Memory.put m a l) k = Memory.byte m k := by
  induction l generalizing m a with
  | nil => rfl
  | cons b l ih =>
    simp only [List.length_cons] at hk
    rw [Memory.put, ih (Memory.wf_set h a b) (by omega), Memory.byte_set_other h b (by omega)]

/-- A byte of the written range reads as written. -/
theorem Memory.byte_put_inside (h : Memory.wf m = true) {a i : Nat} {l : List Byte} (hi : i < l.length) :
    Memory.byte (Memory.put m a l) (a + i) = l[i] := by
  induction l generalizing m a i with
  | nil => simp at hi
  | cons b l ih =>
    cases i with
    | zero => rw [Memory.put, Memory.byte_put_outside (Memory.wf_set h a b) (by omega)]; exact Memory.byte_set_same h a b
    | succ i =>
      have : a + (i + 1) = (a + 1) + i := by omega
      rw [Memory.put, this, ih (Memory.wf_set h a b) (by simpa using hi)]; rfl

@[simp] theorem leBytes_length (n x : Nat) : (leBytes n x).length = n := by
  induction n generalizing x with
  | zero => rfl
  | succ n ih => simp [leBytes, ih]

/-- The bytes of a number make the number again, modulo its size. -/
theorem leNat_leBytes (n x : Nat) : leNat (leBytes n x) = x % 256 ^ n := by
  induction n generalizing x with
  | zero => simp [leBytes, leNat, Nat.mod_one]
  | succ n ih =>
    simp only [leBytes, leNat, ih, BitVec.toNat_ofNat]
    have h : 256 ^ (n + 1) = 256 * 256 ^ n := by rw [Nat.pow_succ, Nat.mul_comm]
    rw [h, Nat.mod_mul]

/-- Reading back the bytes just written. -/
theorem Memory.bytes_put (h : Memory.wf m = true) (a : Nat) (l : List Byte) : Memory.bytes (Memory.put m a l) a l.length = l := by
  induction l generalizing m a with
  | nil => rfl
  | cons b l ih =>
    rw [List.length_cons, Memory.bytes]
    congr 1
    · exact Memory.byte_put_inside h (a := a) (i := 0) (l := b :: l) (Nat.zero_lt_succ _)
    · exact ih (Memory.wf_set h a b) (a + 1)

/-- A number read back from where it was written. -/
theorem Memory.num_put (h : Memory.wf m = true) (a n x : Nat) : Memory.num (Memory.put m a (leBytes n x)) a n = x % 256 ^ n := by
  have := Memory.bytes_put h a (leBytes n x)
  rw [leBytes_length] at this
  rw [Memory.num, this, leNat_leBytes]

/-- What an access does at its slice keeps the canonical form. -/
theorem AccessOp.wf_apply (h : Memory.wf m = true) (a : Nat) (op : AccessOp) : Memory.wf (op.apply m a) = true := by
  cases op with
  | store l => exact Memory.wf_put h a l
  | nibble high v => exact Memory.wf_set h a _
  | _ => exact h

/-- An access changes no byte outside those it covers. -/
theorem AccessOp.byte_outside (h : Memory.wf m = true) {a k : Nat} (op : AccessOp) (hk : k < a ∨ a + op.size ≤ k) :
    Memory.byte (op.apply m a) k = Memory.byte m k := by
  cases op with
  | store l => exact Memory.byte_put_outside h hk
  | nibble high v =>
    have : k ≠ a := by simp only [AccessOp.size] at hk; omega
    exact Memory.byte_set_other h _ this
  | _ => rfl

/-- A read-modify-write keeps the canonical form. -/
theorem wf_amoMem (h : Memory.wf m = true) (a : Nat) (op : AmoOp) (v c : Word) : Memory.wf (amoMem m a op v c).1 = true := by
  unfold amoMem
  simp only
  split
  · exact Memory.wf_put h a _
  · exact h

/-- Applying a list of accesses in order keeps the canonical form. -/
theorem wf_foldApply {β : Type} (f : β → AccessOp) (g : β → Nat) (p : β → Bool) (l : List β) (h : Memory.wf m = true) :
    Memory.wf (l.foldl (fun m a => if p a then (f a).apply m (g a) else m) m) = true := by
  induction l generalizing m with
  | nil => exact h
  | cons b l ih =>
    rw [List.foldl_cons]
    refine ih ?_
    split
    · exact AccessOp.wf_apply h _ _
    · exact h

theorem wf_scatter (h : Memory.wf m = true) (l : List Segment) (b : List Byte) : Memory.wf (scatter m l b) = true := by
  unfold scatter
  induction l generalizing m with
  | nil => exact h
  | cons g l ih =>
    rw [List.foldl_cons]
    refine ih ?_
    split
    · exact h
    · exact Memory.wf_put h _ _

theorem wf_putSlots (h : Memory.wf m = true) (n : Nat) (l : List (Place × Nat)) : Memory.wf (putSlots m n l) = true := by
  unfold putSlots
  induction l generalizing m with
  | nil => exact h
  | cons g l ih =>
    rw [List.foldl_cons]
    refine ih ?_
    split
    · exact h
    · exact Memory.wf_put h _ _

theorem StreamCmd.wf_move (h : Memory.wf m = true) (c : StreamCmd) (k : Nat) : Memory.wf (c.move m k) = true := by
  unfold StreamCmd.move
  generalize c.chunkElems k = l
  induction l generalizing m with
  | nil => exact h
  | cons g l ih =>
    rw [List.foldl_cons]
    refine ih ?_
    simp only
    split
    · split
      · exact h
      · exact Memory.wf_put h _ _
    · exact Memory.wf_put h _ _

/-- The bytes of a block that are not zero, with their addresses. -/
theorem wf_blockBytes (b : List Byte) (loc : Nat) :
    Sparse.wfFrom (0 : Byte) loc ((b.zipIdx loc).filterMap fun p => if p.1 = 0 then none else some (p.2, p.1)) = true ∧
    ∀ q ∈ (b.zipIdx loc).filterMap fun p => if p.1 = 0 then none else some (p.2, p.1), q.1 < loc + b.length := by
  induction b generalizing loc with
  | nil => exact ⟨rfl, by simp⟩
  | cons x b ih =>
    obtain ⟨h1, h2⟩ := ih (loc + 1)
    simp only [List.zipIdx_cons, List.filterMap_cons, List.length_cons]
    by_cases hx : x = 0
    · simp only [hx, if_true]
      exact ⟨Sparse.wfFrom_mono (by omega) h1, fun q hq => by have := h2 q hq; omega⟩
    · simp only [hx, if_false]
      refine ⟨by rw [Sparse.wfFrom, h1, decide_eq_true (Nat.le_refl loc), decide_eq_true hx]; rfl, fun q hq => ?_⟩
      rcases List.mem_cons.1 hq with rfl | hq
      · simp
      · have := h2 q hq; omega

/-- Replacing a block keeps the canonical form. -/
theorem Memory.wf_block (h : Memory.wf m = true) (loc : Nat) (b : List Byte) : Memory.wf (Memory.block m loc b) = true := by
  obtain ⟨h1, h2⟩ := wf_blockBytes b loc
  have hhi : Sparse.wfFrom (0 : Byte) (loc + b.length) (m.filter fun c => decide (loc + b.length ≤ c.1)) = true :=
    Sparse.wfFrom_above _ (Memory.wf_filter h _) fun p hp => by simpa using (List.mem_filter.1 hp).2
  have hmid := Sparse.wfFrom_append (loc + b.length) h1 hhi h2 (by omega)
  have := Sparse.wfFrom_append loc (Memory.wf_filter h fun c => decide (c.1 < loc)) hmid
    (fun p hp => by simpa using (List.mem_filter.1 hp).2) (Nat.zero_le _)
  rw [Memory.block, List.append_assoc]
  exact this

/-- What an access leaves at its slice is in canonical form. -/
theorem Access.wf_write (h : Memory.wf m = true) (a : Access) : Memory.wf (a.write m) = true := by
  unfold Access.write
  split
  · exact wf_amoMem h _ _ _ _
  · exact Memory.wf_put h _ _
  · exact AccessOp.wf_apply h _ _

/-- An access that only reads leaves memory as it is. -/
theorem Access.write_of_not_writes {a : Access} (h : a.writes = false) (m : List Host.Cell) : a.write m = m := by
  cases a with | mk hart side loc va op =>
  cases op <;> simp_all [Access.writes, Access.write, AccessOp.apply]

/-- An access that acts keeps the canonical form. -/
theorem State.wf_perform {s : State} (h : Memory.wf s.mem = true) (a : Access) : Memory.wf (s.perform a).mem = true := by
  unfold State.perform
  simp only
  split <;> exact Access.wf_write h a

theorem State.wf_storeOp {s : State} (h : Memory.wf s.mem = true) (side loc : Nat) (va : Word) (op : AccessOp) (r : Option (BitVec 3)) :
    Memory.wf (s.storeOp side loc va op r).mem = true := by
  unfold State.storeOp
  split
  · exact h
  · exact AccessOp.wf_apply h _ _

theorem State.wf_zeroRange {s : State} (h : Memory.wf s.mem = true) (lo n : Nat) : Memory.wf (s.zeroRange lo n).mem = true :=
  Memory.wf_filter h _

end Sys2Proof.Machine
end

