-- ==== Sys2Proof/Laws/State.lean ====
section
/-! SUPPORT. What each update of a state, a hart, its control registers and its vector side leaves: one equation per field and update. -/

namespace Sys2Proof.Machine

@[simp] theorem State.onHart_hart (s : State) (f : Hart → Hart) : (s.onHart f).hart = f s.hart := rfl
@[simp] theorem State.onHart_others (s : State) (f : Hart → Hart) : (s.onHart f).others = s.others := rfl
@[simp] theorem State.onHart_ended (s : State) (f : Hart → Hart) : (s.onHart f).ended = s.ended := rfl
@[simp] theorem State.onHart_mem (s : State) (f : Hart → Hart) : (s.onHart f).mem = s.mem := rfl
@[simp] theorem State.onHart_agenda (s : State) (f : Hart → Hart) : (s.onHart f).agenda = s.agenda := rfl
@[simp] theorem State.onHart_relaxed (s : State) (f : Hart → Hart) : (s.onHart f).relaxed = s.relaxed := rfl
@[simp] theorem State.onHart_free (s : State) (f : Hart → Hart) : (s.onHart f).free = s.free := rfl
@[simp] theorem State.onHart_now (s : State) (f : Hart → Hart) : (s.onHart f).now = s.now := rfl
@[simp] theorem State.onHart_accesses (s : State) (f : Hart → Hart) : (s.onHart f).accesses = s.accesses := rfl
@[simp] theorem State.onHart_vgroups (s : State) (f : Hart → Hart) : (s.onHart f).vgroups = s.vgroups := rfl
@[simp] theorem State.onHart_orphans (s : State) (f : Hart → Hart) : (s.onHart f).orphans = s.orphans := rfl
@[simp] theorem State.onHart_nextOrder (s : State) (f : Hart → Hart) : (s.onHart f).nextOrder = s.nextOrder := rfl
@[simp] theorem State.onHart_parked (s : State) (f : Hart → Hart) : (s.onHart f).parked = s.parked := rfl
@[simp] theorem State.onHart_streams (s : State) (f : Hart → Hart) : (s.onHart f).streams = s.streams := rfl
@[simp] theorem State.onHart_appends (s : State) (f : Hart → Hart) : (s.onHart f).appends = s.appends := rfl
@[simp] theorem State.onHart_trains (s : State) (f : Hart → Hart) : (s.onHart f).trains = s.trains := rfl
@[simp] theorem State.onHart_redirects (s : State) (f : Hart → Hart) : (s.onHart f).redirects = s.redirects := rfl
@[simp] theorem State.onHart_pins (s : State) (f : Hart → Hart) : (s.onHart f).pins = s.pins := rfl
@[simp] theorem State.onHart_duplicates (s : State) (f : Hart → Hart) : (s.onHart f).duplicates = s.duplicates := rfl
@[simp] theorem State.onHart_horizons (s : State) (f : Hart → Hart) : (s.onHart f).horizons = s.horizons := rfl
@[simp] theorem State.onHart_gens (s : State) (f : Hart → Hart) : (s.onHart f).gens = s.gens := rfl
@[simp] theorem State.onHart_bumps (s : State) (f : Hart → Hart) : (s.onHart f).bumps = s.bumps := rfl
@[simp] theorem State.onHart_caching (s : State) (f : Hart → Hart) : (s.onHart f).caching = s.caching := rfl
@[simp] theorem State.onHart_tlb (s : State) (f : Hart → Hart) : (s.onHart f).tlb = s.tlb := rfl
@[simp] theorem State.onHart_trivet (s : State) (f : Hart → Hart) : (s.onHart f).trivet = s.trivet := rfl
@[simp] theorem State.onHart_launch (s : State) (f : Hart → Hart) : (s.onHart f).launch = s.launch := rfl
@[simp] theorem State.onHart_mig (s : State) (f : Hart → Hart) : (s.onHart f).mig = s.mig := rfl
@[simp] theorem State.onHart_ladle (s : State) (f : Hart → Hart) : (s.onHart f).ladle = s.ladle := rfl
@[simp] theorem State.onHart_cores (s : State) (f : Hart → Hart) : (s.onHart f).cores = s.cores := rfl
@[simp] theorem State.onHart_dies (s : State) (f : Hart → Hart) : (s.onHart f).dies = s.dies := rfl
@[simp] theorem State.onHart_hbm (s : State) (f : Hart → Hart) : (s.onHart f).hbm = s.hbm := rfl
@[simp] theorem State.onHart_mgmt (s : State) (f : Hart → Hart) : (s.onHart f).mgmt = s.mgmt := rfl
@[simp] theorem State.onHart_fabric (s : State) (f : Hart → Hart) : (s.onHart f).fabric = s.fabric := rfl
@[simp] theorem State.onHart_fuses (s : State) (f : Hart → Hart) : (s.onHart f).fuses = s.fuses := rfl
@[simp] theorem State.onHart_outside (s : State) (f : Hart → Hart) : (s.onHart f).outside = s.outside := rfl
@[simp] theorem State.onHart_hostWaits (s : State) (f : Hart → Hart) : (s.onHart f).hostWaits = s.hostWaits := rfl

@[simp] theorem State.wx_hart (s : State) (r : XReg) (v : Word) : (s.wx r v).hart = s.hart.wx r v := rfl
@[simp] theorem State.wx_others (s : State) (r : XReg) (v : Word) : (s.wx r v).others = s.others := rfl
@[simp] theorem State.wx_ended (s : State) (r : XReg) (v : Word) : (s.wx r v).ended = s.ended := rfl
@[simp] theorem State.wx_mem (s : State) (r : XReg) (v : Word) : (s.wx r v).mem = s.mem := rfl
@[simp] theorem State.wx_agenda (s : State) (r : XReg) (v : Word) : (s.wx r v).agenda = s.agenda := rfl
@[simp] theorem State.wx_relaxed (s : State) (r : XReg) (v : Word) : (s.wx r v).relaxed = s.relaxed := rfl
@[simp] theorem State.wx_free (s : State) (r : XReg) (v : Word) : (s.wx r v).free = s.free := rfl
@[simp] theorem State.wx_now (s : State) (r : XReg) (v : Word) : (s.wx r v).now = s.now := rfl
@[simp] theorem State.wx_accesses (s : State) (r : XReg) (v : Word) : (s.wx r v).accesses = s.accesses := rfl
@[simp] theorem State.wx_vgroups (s : State) (r : XReg) (v : Word) : (s.wx r v).vgroups = s.vgroups := rfl
@[simp] theorem State.wx_orphans (s : State) (r : XReg) (v : Word) : (s.wx r v).orphans = s.orphans := rfl
@[simp] theorem State.wx_nextOrder (s : State) (r : XReg) (v : Word) : (s.wx r v).nextOrder = s.nextOrder := rfl
@[simp] theorem State.wx_parked (s : State) (r : XReg) (v : Word) : (s.wx r v).parked = s.parked := rfl
@[simp] theorem State.wx_streams (s : State) (r : XReg) (v : Word) : (s.wx r v).streams = s.streams := rfl
@[simp] theorem State.wx_appends (s : State) (r : XReg) (v : Word) : (s.wx r v).appends = s.appends := rfl
@[simp] theorem State.wx_trains (s : State) (r : XReg) (v : Word) : (s.wx r v).trains = s.trains := rfl
@[simp] theorem State.wx_redirects (s : State) (r : XReg) (v : Word) : (s.wx r v).redirects = s.redirects := rfl
@[simp] theorem State.wx_pins (s : State) (r : XReg) (v : Word) : (s.wx r v).pins = s.pins := rfl
@[simp] theorem State.wx_duplicates (s : State) (r : XReg) (v : Word) : (s.wx r v).duplicates = s.duplicates := rfl
@[simp] theorem State.wx_horizons (s : State) (r : XReg) (v : Word) : (s.wx r v).horizons = s.horizons := rfl
@[simp] theorem State.wx_gens (s : State) (r : XReg) (v : Word) : (s.wx r v).gens = s.gens := rfl
@[simp] theorem State.wx_bumps (s : State) (r : XReg) (v : Word) : (s.wx r v).bumps = s.bumps := rfl
@[simp] theorem State.wx_caching (s : State) (r : XReg) (v : Word) : (s.wx r v).caching = s.caching := rfl
@[simp] theorem State.wx_tlb (s : State) (r : XReg) (v : Word) : (s.wx r v).tlb = s.tlb := rfl
@[simp] theorem State.wx_trivet (s : State) (r : XReg) (v : Word) : (s.wx r v).trivet = s.trivet := rfl
@[simp] theorem State.wx_launch (s : State) (r : XReg) (v : Word) : (s.wx r v).launch = s.launch := rfl
@[simp] theorem State.wx_mig (s : State) (r : XReg) (v : Word) : (s.wx r v).mig = s.mig := rfl
@[simp] theorem State.wx_ladle (s : State) (r : XReg) (v : Word) : (s.wx r v).ladle = s.ladle := rfl
@[simp] theorem State.wx_cores (s : State) (r : XReg) (v : Word) : (s.wx r v).cores = s.cores := rfl
@[simp] theorem State.wx_dies (s : State) (r : XReg) (v : Word) : (s.wx r v).dies = s.dies := rfl
@[simp] theorem State.wx_hbm (s : State) (r : XReg) (v : Word) : (s.wx r v).hbm = s.hbm := rfl
@[simp] theorem State.wx_mgmt (s : State) (r : XReg) (v : Word) : (s.wx r v).mgmt = s.mgmt := rfl
@[simp] theorem State.wx_fabric (s : State) (r : XReg) (v : Word) : (s.wx r v).fabric = s.fabric := rfl
@[simp] theorem State.wx_fuses (s : State) (r : XReg) (v : Word) : (s.wx r v).fuses = s.fuses := rfl
@[simp] theorem State.wx_outside (s : State) (r : XReg) (v : Word) : (s.wx r v).outside = s.outside := rfl
@[simp] theorem State.wx_hostWaits (s : State) (r : XReg) (v : Word) : (s.wx r v).hostWaits = s.hostWaits := rfl

@[simp] theorem State.setPc_hart (s : State) (p : Word) : (s.setPc p).hart = { s.hart with pc := p, run := .running, wait := none } := rfl
@[simp] theorem State.setPc_others (s : State) (p : Word) : (s.setPc p).others = s.others := rfl
@[simp] theorem State.setPc_ended (s : State) (p : Word) : (s.setPc p).ended = s.ended := rfl
@[simp] theorem State.setPc_mem (s : State) (p : Word) : (s.setPc p).mem = s.mem := rfl
@[simp] theorem State.setPc_agenda (s : State) (p : Word) : (s.setPc p).agenda = s.agenda := rfl
@[simp] theorem State.setPc_relaxed (s : State) (p : Word) : (s.setPc p).relaxed = s.relaxed := rfl
@[simp] theorem State.setPc_free (s : State) (p : Word) : (s.setPc p).free = s.free := rfl
@[simp] theorem State.setPc_now (s : State) (p : Word) : (s.setPc p).now = s.now := rfl
@[simp] theorem State.setPc_accesses (s : State) (p : Word) : (s.setPc p).accesses = s.accesses := rfl
@[simp] theorem State.setPc_vgroups (s : State) (p : Word) : (s.setPc p).vgroups = s.vgroups := rfl
@[simp] theorem State.setPc_orphans (s : State) (p : Word) : (s.setPc p).orphans = s.orphans := rfl
@[simp] theorem State.setPc_nextOrder (s : State) (p : Word) : (s.setPc p).nextOrder = s.nextOrder := rfl
@[simp] theorem State.setPc_parked (s : State) (p : Word) : (s.setPc p).parked = s.parked := rfl
@[simp] theorem State.setPc_streams (s : State) (p : Word) : (s.setPc p).streams = s.streams := rfl
@[simp] theorem State.setPc_appends (s : State) (p : Word) : (s.setPc p).appends = s.appends := rfl
@[simp] theorem State.setPc_trains (s : State) (p : Word) : (s.setPc p).trains = s.trains := rfl
@[simp] theorem State.setPc_redirects (s : State) (p : Word) : (s.setPc p).redirects = s.redirects := rfl
@[simp] theorem State.setPc_pins (s : State) (p : Word) : (s.setPc p).pins = s.pins := rfl
@[simp] theorem State.setPc_duplicates (s : State) (p : Word) : (s.setPc p).duplicates = s.duplicates := rfl
@[simp] theorem State.setPc_horizons (s : State) (p : Word) : (s.setPc p).horizons = s.horizons := rfl
@[simp] theorem State.setPc_gens (s : State) (p : Word) : (s.setPc p).gens = s.gens := rfl
@[simp] theorem State.setPc_bumps (s : State) (p : Word) : (s.setPc p).bumps = s.bumps := rfl
@[simp] theorem State.setPc_caching (s : State) (p : Word) : (s.setPc p).caching = s.caching := rfl
@[simp] theorem State.setPc_tlb (s : State) (p : Word) : (s.setPc p).tlb = s.tlb := rfl
@[simp] theorem State.setPc_trivet (s : State) (p : Word) : (s.setPc p).trivet = s.trivet := rfl
@[simp] theorem State.setPc_launch (s : State) (p : Word) : (s.setPc p).launch = s.launch := rfl
@[simp] theorem State.setPc_mig (s : State) (p : Word) : (s.setPc p).mig = s.mig := rfl
@[simp] theorem State.setPc_ladle (s : State) (p : Word) : (s.setPc p).ladle = s.ladle := rfl
@[simp] theorem State.setPc_cores (s : State) (p : Word) : (s.setPc p).cores = s.cores := rfl
@[simp] theorem State.setPc_dies (s : State) (p : Word) : (s.setPc p).dies = s.dies := rfl
@[simp] theorem State.setPc_hbm (s : State) (p : Word) : (s.setPc p).hbm = s.hbm := rfl
@[simp] theorem State.setPc_mgmt (s : State) (p : Word) : (s.setPc p).mgmt = s.mgmt := rfl
@[simp] theorem State.setPc_fabric (s : State) (p : Word) : (s.setPc p).fabric = s.fabric := rfl
@[simp] theorem State.setPc_fuses (s : State) (p : Word) : (s.setPc p).fuses = s.fuses := rfl
@[simp] theorem State.setPc_outside (s : State) (p : Word) : (s.setPc p).outside = s.outside := rfl
@[simp] theorem State.setPc_hostWaits (s : State) (p : Word) : (s.setPc p).hostWaits = s.hostWaits := rfl

@[simp] theorem State.adv_hart (s : State) (n : Nat) : (s.adv n).hart = { s.hart with pc := s.hart.pc + BitVec.ofNat 64 n, run := .running, wait := none } := rfl
@[simp] theorem State.adv_others (s : State) (n : Nat) : (s.adv n).others = s.others := rfl
@[simp] theorem State.adv_ended (s : State) (n : Nat) : (s.adv n).ended = s.ended := rfl
@[simp] theorem State.adv_mem (s : State) (n : Nat) : (s.adv n).mem = s.mem := rfl
@[simp] theorem State.adv_agenda (s : State) (n : Nat) : (s.adv n).agenda = s.agenda := rfl
@[simp] theorem State.adv_relaxed (s : State) (n : Nat) : (s.adv n).relaxed = s.relaxed := rfl
@[simp] theorem State.adv_free (s : State) (n : Nat) : (s.adv n).free = s.free := rfl
@[simp] theorem State.adv_now (s : State) (n : Nat) : (s.adv n).now = s.now := rfl
@[simp] theorem State.adv_accesses (s : State) (n : Nat) : (s.adv n).accesses = s.accesses := rfl
@[simp] theorem State.adv_vgroups (s : State) (n : Nat) : (s.adv n).vgroups = s.vgroups := rfl
@[simp] theorem State.adv_orphans (s : State) (n : Nat) : (s.adv n).orphans = s.orphans := rfl
@[simp] theorem State.adv_nextOrder (s : State) (n : Nat) : (s.adv n).nextOrder = s.nextOrder := rfl
@[simp] theorem State.adv_parked (s : State) (n : Nat) : (s.adv n).parked = s.parked := rfl
@[simp] theorem State.adv_streams (s : State) (n : Nat) : (s.adv n).streams = s.streams := rfl
@[simp] theorem State.adv_appends (s : State) (n : Nat) : (s.adv n).appends = s.appends := rfl
@[simp] theorem State.adv_trains (s : State) (n : Nat) : (s.adv n).trains = s.trains := rfl
@[simp] theorem State.adv_redirects (s : State) (n : Nat) : (s.adv n).redirects = s.redirects := rfl
@[simp] theorem State.adv_pins (s : State) (n : Nat) : (s.adv n).pins = s.pins := rfl
@[simp] theorem State.adv_duplicates (s : State) (n : Nat) : (s.adv n).duplicates = s.duplicates := rfl
@[simp] theorem State.adv_horizons (s : State) (n : Nat) : (s.adv n).horizons = s.horizons := rfl
@[simp] theorem State.adv_gens (s : State) (n : Nat) : (s.adv n).gens = s.gens := rfl
@[simp] theorem State.adv_bumps (s : State) (n : Nat) : (s.adv n).bumps = s.bumps := rfl
@[simp] theorem State.adv_caching (s : State) (n : Nat) : (s.adv n).caching = s.caching := rfl
@[simp] theorem State.adv_tlb (s : State) (n : Nat) : (s.adv n).tlb = s.tlb := rfl
@[simp] theorem State.adv_trivet (s : State) (n : Nat) : (s.adv n).trivet = s.trivet := rfl
@[simp] theorem State.adv_launch (s : State) (n : Nat) : (s.adv n).launch = s.launch := rfl
@[simp] theorem State.adv_mig (s : State) (n : Nat) : (s.adv n).mig = s.mig := rfl
@[simp] theorem State.adv_ladle (s : State) (n : Nat) : (s.adv n).ladle = s.ladle := rfl
@[simp] theorem State.adv_cores (s : State) (n : Nat) : (s.adv n).cores = s.cores := rfl
@[simp] theorem State.adv_dies (s : State) (n : Nat) : (s.adv n).dies = s.dies := rfl
@[simp] theorem State.adv_hbm (s : State) (n : Nat) : (s.adv n).hbm = s.hbm := rfl
@[simp] theorem State.adv_mgmt (s : State) (n : Nat) : (s.adv n).mgmt = s.mgmt := rfl
@[simp] theorem State.adv_fabric (s : State) (n : Nat) : (s.adv n).fabric = s.fabric := rfl
@[simp] theorem State.adv_fuses (s : State) (n : Nat) : (s.adv n).fuses = s.fuses := rfl
@[simp] theorem State.adv_outside (s : State) (n : Nat) : (s.adv n).outside = s.outside := rfl
@[simp] theorem State.adv_hostWaits (s : State) (n : Nat) : (s.adv n).hostWaits = s.hostWaits := rfl

@[simp] theorem State.ret_hart (s : State) (r : XReg) (v : Word) : (s.ret r v).hart = { s.hart.wx r v with pc := (s.hart.wx r v).pc + 4, run := .running, wait := none } := rfl
@[simp] theorem State.ret_others (s : State) (r : XReg) (v : Word) : (s.ret r v).others = s.others := rfl
@[simp] theorem State.ret_ended (s : State) (r : XReg) (v : Word) : (s.ret r v).ended = s.ended := rfl
@[simp] theorem State.ret_mem (s : State) (r : XReg) (v : Word) : (s.ret r v).mem = s.mem := rfl
@[simp] theorem State.ret_agenda (s : State) (r : XReg) (v : Word) : (s.ret r v).agenda = s.agenda := rfl
@[simp] theorem State.ret_relaxed (s : State) (r : XReg) (v : Word) : (s.ret r v).relaxed = s.relaxed := rfl
@[simp] theorem State.ret_free (s : State) (r : XReg) (v : Word) : (s.ret r v).free = s.free := rfl
@[simp] theorem State.ret_now (s : State) (r : XReg) (v : Word) : (s.ret r v).now = s.now := rfl
@[simp] theorem State.ret_accesses (s : State) (r : XReg) (v : Word) : (s.ret r v).accesses = s.accesses := rfl
@[simp] theorem State.ret_vgroups (s : State) (r : XReg) (v : Word) : (s.ret r v).vgroups = s.vgroups := rfl
@[simp] theorem State.ret_orphans (s : State) (r : XReg) (v : Word) : (s.ret r v).orphans = s.orphans := rfl
@[simp] theorem State.ret_nextOrder (s : State) (r : XReg) (v : Word) : (s.ret r v).nextOrder = s.nextOrder := rfl
@[simp] theorem State.ret_parked (s : State) (r : XReg) (v : Word) : (s.ret r v).parked = s.parked := rfl
@[simp] theorem State.ret_streams (s : State) (r : XReg) (v : Word) : (s.ret r v).streams = s.streams := rfl
@[simp] theorem State.ret_appends (s : State) (r : XReg) (v : Word) : (s.ret r v).appends = s.appends := rfl
@[simp] theorem State.ret_trains (s : State) (r : XReg) (v : Word) : (s.ret r v).trains = s.trains := rfl
@[simp] theorem State.ret_redirects (s : State) (r : XReg) (v : Word) : (s.ret r v).redirects = s.redirects := rfl
@[simp] theorem State.ret_pins (s : State) (r : XReg) (v : Word) : (s.ret r v).pins = s.pins := rfl
@[simp] theorem State.ret_duplicates (s : State) (r : XReg) (v : Word) : (s.ret r v).duplicates = s.duplicates := rfl
@[simp] theorem State.ret_horizons (s : State) (r : XReg) (v : Word) : (s.ret r v).horizons = s.horizons := rfl
@[simp] theorem State.ret_gens (s : State) (r : XReg) (v : Word) : (s.ret r v).gens = s.gens := rfl
@[simp] theorem State.ret_bumps (s : State) (r : XReg) (v : Word) : (s.ret r v).bumps = s.bumps := rfl
@[simp] theorem State.ret_caching (s : State) (r : XReg) (v : Word) : (s.ret r v).caching = s.caching := rfl
@[simp] theorem State.ret_tlb (s : State) (r : XReg) (v : Word) : (s.ret r v).tlb = s.tlb := rfl
@[simp] theorem State.ret_trivet (s : State) (r : XReg) (v : Word) : (s.ret r v).trivet = s.trivet := rfl
@[simp] theorem State.ret_launch (s : State) (r : XReg) (v : Word) : (s.ret r v).launch = s.launch := rfl
@[simp] theorem State.ret_mig (s : State) (r : XReg) (v : Word) : (s.ret r v).mig = s.mig := rfl
@[simp] theorem State.ret_ladle (s : State) (r : XReg) (v : Word) : (s.ret r v).ladle = s.ladle := rfl
@[simp] theorem State.ret_cores (s : State) (r : XReg) (v : Word) : (s.ret r v).cores = s.cores := rfl
@[simp] theorem State.ret_dies (s : State) (r : XReg) (v : Word) : (s.ret r v).dies = s.dies := rfl
@[simp] theorem State.ret_hbm (s : State) (r : XReg) (v : Word) : (s.ret r v).hbm = s.hbm := rfl
@[simp] theorem State.ret_mgmt (s : State) (r : XReg) (v : Word) : (s.ret r v).mgmt = s.mgmt := rfl
@[simp] theorem State.ret_fabric (s : State) (r : XReg) (v : Word) : (s.ret r v).fabric = s.fabric := rfl
@[simp] theorem State.ret_fuses (s : State) (r : XReg) (v : Word) : (s.ret r v).fuses = s.fuses := rfl
@[simp] theorem State.ret_outside (s : State) (r : XReg) (v : Word) : (s.ret r v).outside = s.outside := rfl
@[simp] theorem State.ret_hostWaits (s : State) (r : XReg) (v : Word) : (s.ret r v).hostWaits = s.hostWaits := rfl

@[simp] theorem State.waits_hart (s : State) (i : Instr) : (s.waits i).hart = { s.hart with run := .waiting, wait := some i } := rfl
@[simp] theorem State.waits_others (s : State) (i : Instr) : (s.waits i).others = s.others := rfl
@[simp] theorem State.waits_ended (s : State) (i : Instr) : (s.waits i).ended = s.ended := rfl
@[simp] theorem State.waits_mem (s : State) (i : Instr) : (s.waits i).mem = s.mem := rfl
@[simp] theorem State.waits_agenda (s : State) (i : Instr) : (s.waits i).agenda = s.agenda := rfl
@[simp] theorem State.waits_relaxed (s : State) (i : Instr) : (s.waits i).relaxed = s.relaxed := rfl
@[simp] theorem State.waits_free (s : State) (i : Instr) : (s.waits i).free = s.free := rfl
@[simp] theorem State.waits_now (s : State) (i : Instr) : (s.waits i).now = s.now := rfl
@[simp] theorem State.waits_accesses (s : State) (i : Instr) : (s.waits i).accesses = s.accesses := rfl
@[simp] theorem State.waits_vgroups (s : State) (i : Instr) : (s.waits i).vgroups = s.vgroups := rfl
@[simp] theorem State.waits_orphans (s : State) (i : Instr) : (s.waits i).orphans = s.orphans := rfl
@[simp] theorem State.waits_nextOrder (s : State) (i : Instr) : (s.waits i).nextOrder = s.nextOrder := rfl
@[simp] theorem State.waits_parked (s : State) (i : Instr) : (s.waits i).parked = s.parked := rfl
@[simp] theorem State.waits_streams (s : State) (i : Instr) : (s.waits i).streams = s.streams := rfl
@[simp] theorem State.waits_appends (s : State) (i : Instr) : (s.waits i).appends = s.appends := rfl
@[simp] theorem State.waits_trains (s : State) (i : Instr) : (s.waits i).trains = s.trains := rfl
@[simp] theorem State.waits_redirects (s : State) (i : Instr) : (s.waits i).redirects = s.redirects := rfl
@[simp] theorem State.waits_pins (s : State) (i : Instr) : (s.waits i).pins = s.pins := rfl
@[simp] theorem State.waits_duplicates (s : State) (i : Instr) : (s.waits i).duplicates = s.duplicates := rfl
@[simp] theorem State.waits_horizons (s : State) (i : Instr) : (s.waits i).horizons = s.horizons := rfl
@[simp] theorem State.waits_gens (s : State) (i : Instr) : (s.waits i).gens = s.gens := rfl
@[simp] theorem State.waits_bumps (s : State) (i : Instr) : (s.waits i).bumps = s.bumps := rfl
@[simp] theorem State.waits_caching (s : State) (i : Instr) : (s.waits i).caching = s.caching := rfl
@[simp] theorem State.waits_tlb (s : State) (i : Instr) : (s.waits i).tlb = s.tlb := rfl
@[simp] theorem State.waits_trivet (s : State) (i : Instr) : (s.waits i).trivet = s.trivet := rfl
@[simp] theorem State.waits_launch (s : State) (i : Instr) : (s.waits i).launch = s.launch := rfl
@[simp] theorem State.waits_mig (s : State) (i : Instr) : (s.waits i).mig = s.mig := rfl
@[simp] theorem State.waits_ladle (s : State) (i : Instr) : (s.waits i).ladle = s.ladle := rfl
@[simp] theorem State.waits_cores (s : State) (i : Instr) : (s.waits i).cores = s.cores := rfl
@[simp] theorem State.waits_dies (s : State) (i : Instr) : (s.waits i).dies = s.dies := rfl
@[simp] theorem State.waits_hbm (s : State) (i : Instr) : (s.waits i).hbm = s.hbm := rfl
@[simp] theorem State.waits_mgmt (s : State) (i : Instr) : (s.waits i).mgmt = s.mgmt := rfl
@[simp] theorem State.waits_fabric (s : State) (i : Instr) : (s.waits i).fabric = s.fabric := rfl
@[simp] theorem State.waits_fuses (s : State) (i : Instr) : (s.waits i).fuses = s.fuses := rfl
@[simp] theorem State.waits_outside (s : State) (i : Instr) : (s.waits i).outside = s.outside := rfl
@[simp] theorem State.waits_hostWaits (s : State) (i : Instr) : (s.waits i).hostWaits = s.hostWaits := rfl

@[simp] theorem State.blocks_hart (s : State) (i : Instr) : (s.blocks i).hart = { s.hart with run := .blocked, wait := some i } := rfl
@[simp] theorem State.blocks_others (s : State) (i : Instr) : (s.blocks i).others = s.others := rfl
@[simp] theorem State.blocks_ended (s : State) (i : Instr) : (s.blocks i).ended = s.ended := rfl
@[simp] theorem State.blocks_mem (s : State) (i : Instr) : (s.blocks i).mem = s.mem := rfl
@[simp] theorem State.blocks_agenda (s : State) (i : Instr) : (s.blocks i).agenda = s.agenda := rfl
@[simp] theorem State.blocks_relaxed (s : State) (i : Instr) : (s.blocks i).relaxed = s.relaxed := rfl
@[simp] theorem State.blocks_free (s : State) (i : Instr) : (s.blocks i).free = s.free := rfl
@[simp] theorem State.blocks_now (s : State) (i : Instr) : (s.blocks i).now = s.now := rfl
@[simp] theorem State.blocks_accesses (s : State) (i : Instr) : (s.blocks i).accesses = s.accesses := rfl
@[simp] theorem State.blocks_vgroups (s : State) (i : Instr) : (s.blocks i).vgroups = s.vgroups := rfl
@[simp] theorem State.blocks_orphans (s : State) (i : Instr) : (s.blocks i).orphans = s.orphans := rfl
@[simp] theorem State.blocks_nextOrder (s : State) (i : Instr) : (s.blocks i).nextOrder = s.nextOrder := rfl
@[simp] theorem State.blocks_parked (s : State) (i : Instr) : (s.blocks i).parked = s.parked := rfl
@[simp] theorem State.blocks_streams (s : State) (i : Instr) : (s.blocks i).streams = s.streams := rfl
@[simp] theorem State.blocks_appends (s : State) (i : Instr) : (s.blocks i).appends = s.appends := rfl
@[simp] theorem State.blocks_trains (s : State) (i : Instr) : (s.blocks i).trains = s.trains := rfl
@[simp] theorem State.blocks_redirects (s : State) (i : Instr) : (s.blocks i).redirects = s.redirects := rfl
@[simp] theorem State.blocks_pins (s : State) (i : Instr) : (s.blocks i).pins = s.pins := rfl
@[simp] theorem State.blocks_duplicates (s : State) (i : Instr) : (s.blocks i).duplicates = s.duplicates := rfl
@[simp] theorem State.blocks_horizons (s : State) (i : Instr) : (s.blocks i).horizons = s.horizons := rfl
@[simp] theorem State.blocks_gens (s : State) (i : Instr) : (s.blocks i).gens = s.gens := rfl
@[simp] theorem State.blocks_bumps (s : State) (i : Instr) : (s.blocks i).bumps = s.bumps := rfl
@[simp] theorem State.blocks_caching (s : State) (i : Instr) : (s.blocks i).caching = s.caching := rfl
@[simp] theorem State.blocks_tlb (s : State) (i : Instr) : (s.blocks i).tlb = s.tlb := rfl
@[simp] theorem State.blocks_trivet (s : State) (i : Instr) : (s.blocks i).trivet = s.trivet := rfl
@[simp] theorem State.blocks_launch (s : State) (i : Instr) : (s.blocks i).launch = s.launch := rfl
@[simp] theorem State.blocks_mig (s : State) (i : Instr) : (s.blocks i).mig = s.mig := rfl
@[simp] theorem State.blocks_ladle (s : State) (i : Instr) : (s.blocks i).ladle = s.ladle := rfl
@[simp] theorem State.blocks_cores (s : State) (i : Instr) : (s.blocks i).cores = s.cores := rfl
@[simp] theorem State.blocks_dies (s : State) (i : Instr) : (s.blocks i).dies = s.dies := rfl
@[simp] theorem State.blocks_hbm (s : State) (i : Instr) : (s.blocks i).hbm = s.hbm := rfl
@[simp] theorem State.blocks_mgmt (s : State) (i : Instr) : (s.blocks i).mgmt = s.mgmt := rfl
@[simp] theorem State.blocks_fabric (s : State) (i : Instr) : (s.blocks i).fabric = s.fabric := rfl
@[simp] theorem State.blocks_fuses (s : State) (i : Instr) : (s.blocks i).fuses = s.fuses := rfl
@[simp] theorem State.blocks_outside (s : State) (i : Instr) : (s.blocks i).outside = s.outside := rfl
@[simp] theorem State.blocks_hostWaits (s : State) (i : Instr) : (s.blocks i).hostWaits = s.hostWaits := rfl

@[simp] theorem State.trap_hart (s : State) (w : Nat) (t : Trap) : (s.trap w t).hart = s.hart.trap w t := rfl
@[simp] theorem State.trap_others (s : State) (w : Nat) (t : Trap) : (s.trap w t).others = s.others := rfl
@[simp] theorem State.trap_ended (s : State) (w : Nat) (t : Trap) : (s.trap w t).ended = s.ended := rfl
@[simp] theorem State.trap_mem (s : State) (w : Nat) (t : Trap) : (s.trap w t).mem = s.mem := rfl
@[simp] theorem State.trap_agenda (s : State) (w : Nat) (t : Trap) : (s.trap w t).agenda = s.agenda := rfl
@[simp] theorem State.trap_relaxed (s : State) (w : Nat) (t : Trap) : (s.trap w t).relaxed = s.relaxed := rfl
@[simp] theorem State.trap_free (s : State) (w : Nat) (t : Trap) : (s.trap w t).free = s.free := rfl
@[simp] theorem State.trap_now (s : State) (w : Nat) (t : Trap) : (s.trap w t).now = s.now := rfl
@[simp] theorem State.trap_accesses (s : State) (w : Nat) (t : Trap) : (s.trap w t).accesses = s.accesses := rfl
@[simp] theorem State.trap_vgroups (s : State) (w : Nat) (t : Trap) : (s.trap w t).vgroups = s.vgroups := rfl
@[simp] theorem State.trap_orphans (s : State) (w : Nat) (t : Trap) : (s.trap w t).orphans = s.orphans := rfl
@[simp] theorem State.trap_nextOrder (s : State) (w : Nat) (t : Trap) : (s.trap w t).nextOrder = s.nextOrder := rfl
@[simp] theorem State.trap_parked (s : State) (w : Nat) (t : Trap) : (s.trap w t).parked = s.parked := rfl
@[simp] theorem State.trap_streams (s : State) (w : Nat) (t : Trap) : (s.trap w t).streams = s.streams := rfl
@[simp] theorem State.trap_appends (s : State) (w : Nat) (t : Trap) : (s.trap w t).appends = s.appends := rfl
@[simp] theorem State.trap_trains (s : State) (w : Nat) (t : Trap) : (s.trap w t).trains = s.trains := rfl
@[simp] theorem State.trap_redirects (s : State) (w : Nat) (t : Trap) : (s.trap w t).redirects = s.redirects := rfl
@[simp] theorem State.trap_pins (s : State) (w : Nat) (t : Trap) : (s.trap w t).pins = s.pins := rfl
@[simp] theorem State.trap_duplicates (s : State) (w : Nat) (t : Trap) : (s.trap w t).duplicates = s.duplicates := rfl
@[simp] theorem State.trap_horizons (s : State) (w : Nat) (t : Trap) : (s.trap w t).horizons = s.horizons := rfl
@[simp] theorem State.trap_gens (s : State) (w : Nat) (t : Trap) : (s.trap w t).gens = s.gens := rfl
@[simp] theorem State.trap_bumps (s : State) (w : Nat) (t : Trap) : (s.trap w t).bumps = s.bumps := rfl
@[simp] theorem State.trap_caching (s : State) (w : Nat) (t : Trap) : (s.trap w t).caching = s.caching := rfl
@[simp] theorem State.trap_tlb (s : State) (w : Nat) (t : Trap) : (s.trap w t).tlb = s.tlb := rfl
@[simp] theorem State.trap_trivet (s : State) (w : Nat) (t : Trap) : (s.trap w t).trivet = s.trivet := rfl
@[simp] theorem State.trap_launch (s : State) (w : Nat) (t : Trap) : (s.trap w t).launch = s.launch := rfl
@[simp] theorem State.trap_mig (s : State) (w : Nat) (t : Trap) : (s.trap w t).mig = s.mig := rfl
@[simp] theorem State.trap_ladle (s : State) (w : Nat) (t : Trap) : (s.trap w t).ladle = s.ladle := rfl
@[simp] theorem State.trap_cores (s : State) (w : Nat) (t : Trap) : (s.trap w t).cores = s.cores := rfl
@[simp] theorem State.trap_dies (s : State) (w : Nat) (t : Trap) : (s.trap w t).dies = s.dies := rfl
@[simp] theorem State.trap_hbm (s : State) (w : Nat) (t : Trap) : (s.trap w t).hbm = s.hbm := rfl
@[simp] theorem State.trap_mgmt (s : State) (w : Nat) (t : Trap) : (s.trap w t).mgmt = s.mgmt := rfl
@[simp] theorem State.trap_fabric (s : State) (w : Nat) (t : Trap) : (s.trap w t).fabric = s.fabric := rfl
@[simp] theorem State.trap_fuses (s : State) (w : Nat) (t : Trap) : (s.trap w t).fuses = s.fuses := rfl
@[simp] theorem State.trap_outside (s : State) (w : Nat) (t : Trap) : (s.trap w t).outside = s.outside := rfl
@[simp] theorem State.trap_hostWaits (s : State) (w : Nat) (t : Trap) : (s.trap w t).hostWaits = s.hostWaits := rfl

@[simp] theorem State.due_hart (s : State) (l : List Due) : (s.due l).hart = s.hart := rfl
@[simp] theorem State.due_others (s : State) (l : List Due) : (s.due l).others = s.others := rfl
@[simp] theorem State.due_ended (s : State) (l : List Due) : (s.due l).ended = s.ended := rfl
@[simp] theorem State.due_mem (s : State) (l : List Due) : (s.due l).mem = s.mem := rfl
@[simp] theorem State.due_agenda (s : State) (l : List Due) : (s.due l).agenda = s.agenda ++ l := rfl
@[simp] theorem State.due_relaxed (s : State) (l : List Due) : (s.due l).relaxed = s.relaxed := rfl
@[simp] theorem State.due_free (s : State) (l : List Due) : (s.due l).free = s.free := rfl
@[simp] theorem State.due_now (s : State) (l : List Due) : (s.due l).now = s.now := rfl
@[simp] theorem State.due_accesses (s : State) (l : List Due) : (s.due l).accesses = s.accesses := rfl
@[simp] theorem State.due_vgroups (s : State) (l : List Due) : (s.due l).vgroups = s.vgroups := rfl
@[simp] theorem State.due_orphans (s : State) (l : List Due) : (s.due l).orphans = s.orphans := rfl
@[simp] theorem State.due_nextOrder (s : State) (l : List Due) : (s.due l).nextOrder = s.nextOrder := rfl
@[simp] theorem State.due_parked (s : State) (l : List Due) : (s.due l).parked = s.parked := rfl
@[simp] theorem State.due_streams (s : State) (l : List Due) : (s.due l).streams = s.streams := rfl
@[simp] theorem State.due_appends (s : State) (l : List Due) : (s.due l).appends = s.appends := rfl
@[simp] theorem State.due_trains (s : State) (l : List Due) : (s.due l).trains = s.trains := rfl
@[simp] theorem State.due_redirects (s : State) (l : List Due) : (s.due l).redirects = s.redirects := rfl
@[simp] theorem State.due_pins (s : State) (l : List Due) : (s.due l).pins = s.pins := rfl
@[simp] theorem State.due_duplicates (s : State) (l : List Due) : (s.due l).duplicates = s.duplicates := rfl
@[simp] theorem State.due_horizons (s : State) (l : List Due) : (s.due l).horizons = s.horizons := rfl
@[simp] theorem State.due_gens (s : State) (l : List Due) : (s.due l).gens = s.gens := rfl
@[simp] theorem State.due_bumps (s : State) (l : List Due) : (s.due l).bumps = s.bumps := rfl
@[simp] theorem State.due_caching (s : State) (l : List Due) : (s.due l).caching = s.caching := rfl
@[simp] theorem State.due_tlb (s : State) (l : List Due) : (s.due l).tlb = s.tlb := rfl
@[simp] theorem State.due_trivet (s : State) (l : List Due) : (s.due l).trivet = s.trivet := rfl
@[simp] theorem State.due_launch (s : State) (l : List Due) : (s.due l).launch = s.launch := rfl
@[simp] theorem State.due_mig (s : State) (l : List Due) : (s.due l).mig = s.mig := rfl
@[simp] theorem State.due_ladle (s : State) (l : List Due) : (s.due l).ladle = s.ladle := rfl
@[simp] theorem State.due_cores (s : State) (l : List Due) : (s.due l).cores = s.cores := rfl
@[simp] theorem State.due_dies (s : State) (l : List Due) : (s.due l).dies = s.dies := rfl
@[simp] theorem State.due_hbm (s : State) (l : List Due) : (s.due l).hbm = s.hbm := rfl
@[simp] theorem State.due_mgmt (s : State) (l : List Due) : (s.due l).mgmt = s.mgmt := rfl
@[simp] theorem State.due_fabric (s : State) (l : List Due) : (s.due l).fabric = s.fabric := rfl
@[simp] theorem State.due_fuses (s : State) (l : List Due) : (s.due l).fuses = s.fuses := rfl
@[simp] theorem State.due_outside (s : State) (l : List Due) : (s.due l).outside = s.outside := rfl
@[simp] theorem State.due_hostWaits (s : State) (l : List Due) : (s.due l).hostWaits = s.hostWaits := rfl

@[simp] theorem State.orFlags_hart (s : State) (f : Flags) : (s.orFlags f).hart = { s.hart with csr := { s.hart.csr with fflags := s.hart.csr.fflags ||| f } } := rfl
@[simp] theorem State.orFlags_others (s : State) (f : Flags) : (s.orFlags f).others = s.others := rfl
@[simp] theorem State.orFlags_ended (s : State) (f : Flags) : (s.orFlags f).ended = s.ended := rfl
@[simp] theorem State.orFlags_mem (s : State) (f : Flags) : (s.orFlags f).mem = s.mem := rfl
@[simp] theorem State.orFlags_agenda (s : State) (f : Flags) : (s.orFlags f).agenda = s.agenda := rfl
@[simp] theorem State.orFlags_relaxed (s : State) (f : Flags) : (s.orFlags f).relaxed = s.relaxed := rfl
@[simp] theorem State.orFlags_free (s : State) (f : Flags) : (s.orFlags f).free = s.free := rfl
@[simp] theorem State.orFlags_now (s : State) (f : Flags) : (s.orFlags f).now = s.now := rfl
@[simp] theorem State.orFlags_accesses (s : State) (f : Flags) : (s.orFlags f).accesses = s.accesses := rfl
@[simp] theorem State.orFlags_vgroups (s : State) (f : Flags) : (s.orFlags f).vgroups = s.vgroups := rfl
@[simp] theorem State.orFlags_orphans (s : State) (f : Flags) : (s.orFlags f).orphans = s.orphans := rfl
@[simp] theorem State.orFlags_nextOrder (s : State) (f : Flags) : (s.orFlags f).nextOrder = s.nextOrder := rfl
@[simp] theorem State.orFlags_parked (s : State) (f : Flags) : (s.orFlags f).parked = s.parked := rfl
@[simp] theorem State.orFlags_streams (s : State) (f : Flags) : (s.orFlags f).streams = s.streams := rfl
@[simp] theorem State.orFlags_appends (s : State) (f : Flags) : (s.orFlags f).appends = s.appends := rfl
@[simp] theorem State.orFlags_trains (s : State) (f : Flags) : (s.orFlags f).trains = s.trains := rfl
@[simp] theorem State.orFlags_redirects (s : State) (f : Flags) : (s.orFlags f).redirects = s.redirects := rfl
@[simp] theorem State.orFlags_pins (s : State) (f : Flags) : (s.orFlags f).pins = s.pins := rfl
@[simp] theorem State.orFlags_duplicates (s : State) (f : Flags) : (s.orFlags f).duplicates = s.duplicates := rfl
@[simp] theorem State.orFlags_horizons (s : State) (f : Flags) : (s.orFlags f).horizons = s.horizons := rfl
@[simp] theorem State.orFlags_gens (s : State) (f : Flags) : (s.orFlags f).gens = s.gens := rfl
@[simp] theorem State.orFlags_bumps (s : State) (f : Flags) : (s.orFlags f).bumps = s.bumps := rfl
@[simp] theorem State.orFlags_caching (s : State) (f : Flags) : (s.orFlags f).caching = s.caching := rfl
@[simp] theorem State.orFlags_tlb (s : State) (f : Flags) : (s.orFlags f).tlb = s.tlb := rfl
@[simp] theorem State.orFlags_trivet (s : State) (f : Flags) : (s.orFlags f).trivet = s.trivet := rfl
@[simp] theorem State.orFlags_launch (s : State) (f : Flags) : (s.orFlags f).launch = s.launch := rfl
@[simp] theorem State.orFlags_mig (s : State) (f : Flags) : (s.orFlags f).mig = s.mig := rfl
@[simp] theorem State.orFlags_ladle (s : State) (f : Flags) : (s.orFlags f).ladle = s.ladle := rfl
@[simp] theorem State.orFlags_cores (s : State) (f : Flags) : (s.orFlags f).cores = s.cores := rfl
@[simp] theorem State.orFlags_dies (s : State) (f : Flags) : (s.orFlags f).dies = s.dies := rfl
@[simp] theorem State.orFlags_hbm (s : State) (f : Flags) : (s.orFlags f).hbm = s.hbm := rfl
@[simp] theorem State.orFlags_mgmt (s : State) (f : Flags) : (s.orFlags f).mgmt = s.mgmt := rfl
@[simp] theorem State.orFlags_fabric (s : State) (f : Flags) : (s.orFlags f).fabric = s.fabric := rfl
@[simp] theorem State.orFlags_fuses (s : State) (f : Flags) : (s.orFlags f).fuses = s.fuses := rfl
@[simp] theorem State.orFlags_outside (s : State) (f : Flags) : (s.orFlags f).outside = s.outside := rfl
@[simp] theorem State.orFlags_hostWaits (s : State) (f : Flags) : (s.orFlags f).hostWaits = s.hostWaits := rfl

@[simp] theorem State.setAccess_hart (s : State) (k : Nat) (a : Access) : (s.setAccess k a).hart = s.hart := rfl
@[simp] theorem State.setAccess_others (s : State) (k : Nat) (a : Access) : (s.setAccess k a).others = s.others := rfl
@[simp] theorem State.setAccess_ended (s : State) (k : Nat) (a : Access) : (s.setAccess k a).ended = s.ended := rfl
@[simp] theorem State.setAccess_mem (s : State) (k : Nat) (a : Access) : (s.setAccess k a).mem = s.mem := rfl
@[simp] theorem State.setAccess_agenda (s : State) (k : Nat) (a : Access) : (s.setAccess k a).agenda = s.agenda := rfl
@[simp] theorem State.setAccess_relaxed (s : State) (k : Nat) (a : Access) : (s.setAccess k a).relaxed = s.relaxed := rfl
@[simp] theorem State.setAccess_free (s : State) (k : Nat) (a : Access) : (s.setAccess k a).free = s.free := rfl
@[simp] theorem State.setAccess_now (s : State) (k : Nat) (a : Access) : (s.setAccess k a).now = s.now := rfl
@[simp] theorem State.setAccess_accesses (s : State) (k : Nat) (a : Access) : (s.setAccess k a).accesses = s.accesses.set k a := rfl
@[simp] theorem State.setAccess_vgroups (s : State) (k : Nat) (a : Access) : (s.setAccess k a).vgroups = s.vgroups := rfl
@[simp] theorem State.setAccess_orphans (s : State) (k : Nat) (a : Access) : (s.setAccess k a).orphans = s.orphans := rfl
@[simp] theorem State.setAccess_nextOrder (s : State) (k : Nat) (a : Access) : (s.setAccess k a).nextOrder = s.nextOrder := rfl
@[simp] theorem State.setAccess_parked (s : State) (k : Nat) (a : Access) : (s.setAccess k a).parked = s.parked := rfl
@[simp] theorem State.setAccess_streams (s : State) (k : Nat) (a : Access) : (s.setAccess k a).streams = s.streams := rfl
@[simp] theorem State.setAccess_appends (s : State) (k : Nat) (a : Access) : (s.setAccess k a).appends = s.appends := rfl
@[simp] theorem State.setAccess_trains (s : State) (k : Nat) (a : Access) : (s.setAccess k a).trains = s.trains := rfl
@[simp] theorem State.setAccess_redirects (s : State) (k : Nat) (a : Access) : (s.setAccess k a).redirects = s.redirects := rfl
@[simp] theorem State.setAccess_pins (s : State) (k : Nat) (a : Access) : (s.setAccess k a).pins = s.pins := rfl
@[simp] theorem State.setAccess_duplicates (s : State) (k : Nat) (a : Access) : (s.setAccess k a).duplicates = s.duplicates := rfl
@[simp] theorem State.setAccess_horizons (s : State) (k : Nat) (a : Access) : (s.setAccess k a).horizons = s.horizons := rfl
@[simp] theorem State.setAccess_gens (s : State) (k : Nat) (a : Access) : (s.setAccess k a).gens = s.gens := rfl
@[simp] theorem State.setAccess_bumps (s : State) (k : Nat) (a : Access) : (s.setAccess k a).bumps = s.bumps := rfl
@[simp] theorem State.setAccess_caching (s : State) (k : Nat) (a : Access) : (s.setAccess k a).caching = s.caching := rfl
@[simp] theorem State.setAccess_tlb (s : State) (k : Nat) (a : Access) : (s.setAccess k a).tlb = s.tlb := rfl
@[simp] theorem State.setAccess_trivet (s : State) (k : Nat) (a : Access) : (s.setAccess k a).trivet = s.trivet := rfl
@[simp] theorem State.setAccess_launch (s : State) (k : Nat) (a : Access) : (s.setAccess k a).launch = s.launch := rfl
@[simp] theorem State.setAccess_mig (s : State) (k : Nat) (a : Access) : (s.setAccess k a).mig = s.mig := rfl
@[simp] theorem State.setAccess_ladle (s : State) (k : Nat) (a : Access) : (s.setAccess k a).ladle = s.ladle := rfl
@[simp] theorem State.setAccess_cores (s : State) (k : Nat) (a : Access) : (s.setAccess k a).cores = s.cores := rfl
@[simp] theorem State.setAccess_dies (s : State) (k : Nat) (a : Access) : (s.setAccess k a).dies = s.dies := rfl
@[simp] theorem State.setAccess_hbm (s : State) (k : Nat) (a : Access) : (s.setAccess k a).hbm = s.hbm := rfl
@[simp] theorem State.setAccess_mgmt (s : State) (k : Nat) (a : Access) : (s.setAccess k a).mgmt = s.mgmt := rfl
@[simp] theorem State.setAccess_fabric (s : State) (k : Nat) (a : Access) : (s.setAccess k a).fabric = s.fabric := rfl
@[simp] theorem State.setAccess_fuses (s : State) (k : Nat) (a : Access) : (s.setAccess k a).fuses = s.fuses := rfl
@[simp] theorem State.setAccess_outside (s : State) (k : Nat) (a : Access) : (s.setAccess k a).outside = s.outside := rfl
@[simp] theorem State.setAccess_hostWaits (s : State) (k : Nat) (a : Access) : (s.setAccess k a).hostWaits = s.hostWaits := rfl

@[simp] theorem Hart.setVec_id (h : Hart) (r : VReg) (t : BitVec 8) (x : VBits) : (h.setVec r t x).id = h.id := rfl
@[simp] theorem Hart.setVec_bound (h : Hart) (r : VReg) (t : BitVec 8) (x : VBits) : (h.setVec r t x).bound = h.bound := rfl
@[simp] theorem Hart.setVec_run (h : Hart) (r : VReg) (t : BitVec 8) (x : VBits) : (h.setVec r t x).run = h.run := rfl
@[simp] theorem Hart.setVec_wait (h : Hart) (r : VReg) (t : BitVec 8) (x : VBits) : (h.setVec r t x).wait = h.wait := rfl
@[simp] theorem Hart.setVec_level (h : Hart) (r : VReg) (t : BitVec 8) (x : VBits) : (h.setVec r t x).level = h.level := rfl
@[simp] theorem Hart.setVec_pc (h : Hart) (r : VReg) (t : BitVec 8) (x : VBits) : (h.setVec r t x).pc = h.pc := rfl
@[simp] theorem Hart.setVec_x (h : Hart) (r : VReg) (t : BitVec 8) (x : VBits) : (h.setVec r t x).x = h.x := rfl
@[simp] theorem Hart.setVec_sx (h : Hart) (r : VReg) (t : BitVec 8) (x : VBits) : (h.setVec r t x).sx = h.sx := rfl
@[simp] theorem Hart.setVec_csr (h : Hart) (r : VReg) (t : BitVec 8) (x : VBits) : (h.setVec r t x).csr = h.csr := rfl
@[simp] theorem Hart.setVec_sup (h : Hart) (r : VReg) (t : BitVec 8) (x : VBits) : (h.setVec r t x).sup = h.sup := rfl
@[simp] theorem Hart.setVec_handles (h : Hart) (r : VReg) (t : BitVec 8) (x : VBits) : (h.setVec r t x).handles = h.handles := rfl
@[simp] theorem Hart.setVec_events (h : Hart) (r : VReg) (t : BitVec 8) (x : VBits) : (h.setVec r t x).events = h.events := rfl
@[simp] theorem Hart.setVec_tags (h : Hart) (r : VReg) (t : BitVec 8) (x : VBits) : (h.setVec r t x).tags = h.tags := rfl
@[simp] theorem Hart.setVec_grant (h : Hart) (r : VReg) (t : BitVec 8) (x : VBits) : (h.setVec r t x).grant = h.grant := rfl
@[simp] theorem Hart.setVec_job (h : Hart) (r : VReg) (t : BitVec 8) (x : VBits) : (h.setVec r t x).job = h.job := rfl
@[simp] theorem Hart.setVec_strips (h : Hart) (r : VReg) (t : BitVec 8) (x : VBits) : (h.setVec r t x).strips = h.strips := rfl
@[simp] theorem Hart.setVec_lenders (h : Hart) (r : VReg) (t : BitVec 8) (x : VBits) : (h.setVec r t x).lenders = h.lenders := rfl
@[simp] theorem Hart.setVec_preempt (h : Hart) (r : VReg) (t : BitVec 8) (x : VBits) : (h.setVec r t x).preempt = h.preempt := rfl
@[simp] theorem Hart.setVec_freeze (h : Hart) (r : VReg) (t : BitVec 8) (x : VBits) : (h.setVec r t x).freeze = h.freeze := rfl
@[simp] theorem Hart.setVec_ifr (h : Hart) (r : VReg) (t : BitVec 8) (x : VBits) : (h.setVec r t x).ifr = h.ifr := rfl
@[simp] theorem Hart.setVec_seed (h : Hart) (r : VReg) (t : BitVec 8) (x : VBits) : (h.setVec r t x).seed = h.seed := rfl
@[simp] theorem Hart.setVec_vec_v (h : Hart) (r : VReg) (t : BitVec 8) (x : VBits) : (h.setVec r t x).vec.v = h.vec.v.set r.val x r.isLt := rfl
@[simp] theorem Hart.setVec_vec_tag (h : Hart) (r : VReg) (t : BitVec 8) (x : VBits) : (h.setVec r t x).vec.tag = h.vec.tag.set r.val t r.isLt := rfl
@[simp] theorem Hart.setVec_vec_m (h : Hart) (r : VReg) (t : BitVec 8) (x : VBits) : (h.setVec r t x).vec.m = h.vec.m := rfl
@[simp] theorem Hart.setVec_vec_acc (h : Hart) (r : VReg) (t : BitVec 8) (x : VBits) : (h.setVec r t x).vec.acc = h.vec.acc := rfl
@[simp] theorem Hart.setVec_vec_accI32 (h : Hart) (r : VReg) (t : BitVec 8) (x : VBits) : (h.setVec r t x).vec.accI32 = h.vec.accI32 := rfl
@[simp] theorem Hart.setVec_vec_matrix (h : Hart) (r : VReg) (t : BitVec 8) (x : VBits) : (h.setVec r t x).vec.matrix = h.vec.matrix := rfl
@[simp] theorem Hart.setVec_vec_octets (h : Hart) (r : VReg) (t : BitVec 8) (x : VBits) : (h.setVec r t x).vec.octets = h.vec.octets := rfl
@[simp] theorem Hart.setVec_vec_ew (h : Hart) (r : VReg) (t : BitVec 8) (x : VBits) : (h.setVec r t x).vec.ew = h.vec.ew := rfl
@[simp] theorem Hart.setVec_vec_tile (h : Hart) (r : VReg) (t : BitVec 8) (x : VBits) : (h.setVec r t x).vec.tile = (h.vec.tile.filter fun t => !t.holds r).filter fun t => !t.holds r := rfl

@[simp] theorem Hart.wv_id (h : Hart) (r : VReg) (x : VBits) : (h.wv r x).id = h.id := rfl
@[simp] theorem Hart.wv_bound (h : Hart) (r : VReg) (x : VBits) : (h.wv r x).bound = h.bound := rfl
@[simp] theorem Hart.wv_run (h : Hart) (r : VReg) (x : VBits) : (h.wv r x).run = h.run := rfl
@[simp] theorem Hart.wv_wait (h : Hart) (r : VReg) (x : VBits) : (h.wv r x).wait = h.wait := rfl
@[simp] theorem Hart.wv_level (h : Hart) (r : VReg) (x : VBits) : (h.wv r x).level = h.level := rfl
@[simp] theorem Hart.wv_pc (h : Hart) (r : VReg) (x : VBits) : (h.wv r x).pc = h.pc := rfl
@[simp] theorem Hart.wv_x (h : Hart) (r : VReg) (x : VBits) : (h.wv r x).x = h.x := rfl
@[simp] theorem Hart.wv_sx (h : Hart) (r : VReg) (x : VBits) : (h.wv r x).sx = h.sx := rfl
@[simp] theorem Hart.wv_csr (h : Hart) (r : VReg) (x : VBits) : (h.wv r x).csr = h.csr := rfl
@[simp] theorem Hart.wv_sup (h : Hart) (r : VReg) (x : VBits) : (h.wv r x).sup = h.sup := rfl
@[simp] theorem Hart.wv_handles (h : Hart) (r : VReg) (x : VBits) : (h.wv r x).handles = h.handles := rfl
@[simp] theorem Hart.wv_events (h : Hart) (r : VReg) (x : VBits) : (h.wv r x).events = h.events := rfl
@[simp] theorem Hart.wv_tags (h : Hart) (r : VReg) (x : VBits) : (h.wv r x).tags = h.tags := rfl
@[simp] theorem Hart.wv_grant (h : Hart) (r : VReg) (x : VBits) : (h.wv r x).grant = h.grant := rfl
@[simp] theorem Hart.wv_job (h : Hart) (r : VReg) (x : VBits) : (h.wv r x).job = h.job := rfl
@[simp] theorem Hart.wv_strips (h : Hart) (r : VReg) (x : VBits) : (h.wv r x).strips = h.strips := rfl
@[simp] theorem Hart.wv_lenders (h : Hart) (r : VReg) (x : VBits) : (h.wv r x).lenders = h.lenders := rfl
@[simp] theorem Hart.wv_preempt (h : Hart) (r : VReg) (x : VBits) : (h.wv r x).preempt = h.preempt := rfl
@[simp] theorem Hart.wv_freeze (h : Hart) (r : VReg) (x : VBits) : (h.wv r x).freeze = h.freeze := rfl
@[simp] theorem Hart.wv_ifr (h : Hart) (r : VReg) (x : VBits) : (h.wv r x).ifr = h.ifr := rfl
@[simp] theorem Hart.wv_seed (h : Hart) (r : VReg) (x : VBits) : (h.wv r x).seed = h.seed := rfl
@[simp] theorem Hart.wv_vec_v (h : Hart) (r : VReg) (x : VBits) : (h.wv r x).vec.v = h.vec.v.set r.val x r.isLt := rfl
@[simp] theorem Hart.wv_vec_tag (h : Hart) (r : VReg) (x : VBits) : (h.wv r x).vec.tag = h.vec.tag := rfl
@[simp] theorem Hart.wv_vec_m (h : Hart) (r : VReg) (x : VBits) : (h.wv r x).vec.m = h.vec.m := rfl
@[simp] theorem Hart.wv_vec_acc (h : Hart) (r : VReg) (x : VBits) : (h.wv r x).vec.acc = h.vec.acc := rfl
@[simp] theorem Hart.wv_vec_accI32 (h : Hart) (r : VReg) (x : VBits) : (h.wv r x).vec.accI32 = h.vec.accI32 := rfl
@[simp] theorem Hart.wv_vec_matrix (h : Hart) (r : VReg) (x : VBits) : (h.wv r x).vec.matrix = h.vec.matrix := rfl
@[simp] theorem Hart.wv_vec_octets (h : Hart) (r : VReg) (x : VBits) : (h.wv r x).vec.octets = h.vec.octets := rfl
@[simp] theorem Hart.wv_vec_ew (h : Hart) (r : VReg) (x : VBits) : (h.wv r x).vec.ew = h.vec.ew := rfl
@[simp] theorem Hart.wv_vec_tile (h : Hart) (r : VReg) (x : VBits) : (h.wv r x).vec.tile = h.vec.tile.filter fun t => !t.holds r := rfl

@[simp] theorem Hart.setTag_id (h : Hart) (r : VReg) (t : BitVec 8) : (h.setTag r t).id = h.id := rfl
@[simp] theorem Hart.setTag_bound (h : Hart) (r : VReg) (t : BitVec 8) : (h.setTag r t).bound = h.bound := rfl
@[simp] theorem Hart.setTag_run (h : Hart) (r : VReg) (t : BitVec 8) : (h.setTag r t).run = h.run := rfl
@[simp] theorem Hart.setTag_wait (h : Hart) (r : VReg) (t : BitVec 8) : (h.setTag r t).wait = h.wait := rfl
@[simp] theorem Hart.setTag_level (h : Hart) (r : VReg) (t : BitVec 8) : (h.setTag r t).level = h.level := rfl
@[simp] theorem Hart.setTag_pc (h : Hart) (r : VReg) (t : BitVec 8) : (h.setTag r t).pc = h.pc := rfl
@[simp] theorem Hart.setTag_x (h : Hart) (r : VReg) (t : BitVec 8) : (h.setTag r t).x = h.x := rfl
@[simp] theorem Hart.setTag_sx (h : Hart) (r : VReg) (t : BitVec 8) : (h.setTag r t).sx = h.sx := rfl
@[simp] theorem Hart.setTag_csr (h : Hart) (r : VReg) (t : BitVec 8) : (h.setTag r t).csr = h.csr := rfl
@[simp] theorem Hart.setTag_sup (h : Hart) (r : VReg) (t : BitVec 8) : (h.setTag r t).sup = h.sup := rfl
@[simp] theorem Hart.setTag_handles (h : Hart) (r : VReg) (t : BitVec 8) : (h.setTag r t).handles = h.handles := rfl
@[simp] theorem Hart.setTag_events (h : Hart) (r : VReg) (t : BitVec 8) : (h.setTag r t).events = h.events := rfl
@[simp] theorem Hart.setTag_tags (h : Hart) (r : VReg) (t : BitVec 8) : (h.setTag r t).tags = h.tags := rfl
@[simp] theorem Hart.setTag_grant (h : Hart) (r : VReg) (t : BitVec 8) : (h.setTag r t).grant = h.grant := rfl
@[simp] theorem Hart.setTag_job (h : Hart) (r : VReg) (t : BitVec 8) : (h.setTag r t).job = h.job := rfl
@[simp] theorem Hart.setTag_strips (h : Hart) (r : VReg) (t : BitVec 8) : (h.setTag r t).strips = h.strips := rfl
@[simp] theorem Hart.setTag_lenders (h : Hart) (r : VReg) (t : BitVec 8) : (h.setTag r t).lenders = h.lenders := rfl
@[simp] theorem Hart.setTag_preempt (h : Hart) (r : VReg) (t : BitVec 8) : (h.setTag r t).preempt = h.preempt := rfl
@[simp] theorem Hart.setTag_freeze (h : Hart) (r : VReg) (t : BitVec 8) : (h.setTag r t).freeze = h.freeze := rfl
@[simp] theorem Hart.setTag_ifr (h : Hart) (r : VReg) (t : BitVec 8) : (h.setTag r t).ifr = h.ifr := rfl
@[simp] theorem Hart.setTag_seed (h : Hart) (r : VReg) (t : BitVec 8) : (h.setTag r t).seed = h.seed := rfl
@[simp] theorem Hart.setTag_vec_v (h : Hart) (r : VReg) (t : BitVec 8) : (h.setTag r t).vec.v = h.vec.v := rfl
@[simp] theorem Hart.setTag_vec_tag (h : Hart) (r : VReg) (t : BitVec 8) : (h.setTag r t).vec.tag = h.vec.tag.set r.val t r.isLt := rfl
@[simp] theorem Hart.setTag_vec_m (h : Hart) (r : VReg) (t : BitVec 8) : (h.setTag r t).vec.m = h.vec.m := rfl
@[simp] theorem Hart.setTag_vec_acc (h : Hart) (r : VReg) (t : BitVec 8) : (h.setTag r t).vec.acc = h.vec.acc := rfl
@[simp] theorem Hart.setTag_vec_accI32 (h : Hart) (r : VReg) (t : BitVec 8) : (h.setTag r t).vec.accI32 = h.vec.accI32 := rfl
@[simp] theorem Hart.setTag_vec_matrix (h : Hart) (r : VReg) (t : BitVec 8) : (h.setTag r t).vec.matrix = h.vec.matrix := rfl
@[simp] theorem Hart.setTag_vec_octets (h : Hart) (r : VReg) (t : BitVec 8) : (h.setTag r t).vec.octets = h.vec.octets := rfl
@[simp] theorem Hart.setTag_vec_ew (h : Hart) (r : VReg) (t : BitVec 8) : (h.setTag r t).vec.ew = h.vec.ew := rfl
@[simp] theorem Hart.setTag_vec_tile (h : Hart) (r : VReg) (t : BitVec 8) : (h.setTag r t).vec.tile = h.vec.tile.filter fun t => !t.holds r := rfl

@[simp] theorem Hart.clearVstart_id (h : Hart) : (h.clearVstart ).id = h.id := rfl
@[simp] theorem Hart.clearVstart_bound (h : Hart) : (h.clearVstart ).bound = h.bound := rfl
@[simp] theorem Hart.clearVstart_run (h : Hart) : (h.clearVstart ).run = h.run := rfl
@[simp] theorem Hart.clearVstart_wait (h : Hart) : (h.clearVstart ).wait = h.wait := rfl
@[simp] theorem Hart.clearVstart_level (h : Hart) : (h.clearVstart ).level = h.level := rfl
@[simp] theorem Hart.clearVstart_pc (h : Hart) : (h.clearVstart ).pc = h.pc := rfl
@[simp] theorem Hart.clearVstart_x (h : Hart) : (h.clearVstart ).x = h.x := rfl
@[simp] theorem Hart.clearVstart_sx (h : Hart) : (h.clearVstart ).sx = h.sx := rfl
@[simp] theorem Hart.clearVstart_sup (h : Hart) : (h.clearVstart ).sup = h.sup := rfl
@[simp] theorem Hart.clearVstart_vec (h : Hart) : (h.clearVstart ).vec = h.vec := rfl
@[simp] theorem Hart.clearVstart_handles (h : Hart) : (h.clearVstart ).handles = h.handles := rfl
@[simp] theorem Hart.clearVstart_events (h : Hart) : (h.clearVstart ).events = h.events := rfl
@[simp] theorem Hart.clearVstart_tags (h : Hart) : (h.clearVstart ).tags = h.tags := rfl
@[simp] theorem Hart.clearVstart_grant (h : Hart) : (h.clearVstart ).grant = h.grant := rfl
@[simp] theorem Hart.clearVstart_job (h : Hart) : (h.clearVstart ).job = h.job := rfl
@[simp] theorem Hart.clearVstart_strips (h : Hart) : (h.clearVstart ).strips = h.strips := rfl
@[simp] theorem Hart.clearVstart_lenders (h : Hart) : (h.clearVstart ).lenders = h.lenders := rfl
@[simp] theorem Hart.clearVstart_preempt (h : Hart) : (h.clearVstart ).preempt = h.preempt := rfl
@[simp] theorem Hart.clearVstart_freeze (h : Hart) : (h.clearVstart ).freeze = h.freeze := rfl
@[simp] theorem Hart.clearVstart_ifr (h : Hart) : (h.clearVstart ).ifr = h.ifr := rfl
@[simp] theorem Hart.clearVstart_seed (h : Hart) : (h.clearVstart ).seed = h.seed := rfl
@[simp] theorem Hart.clearVstart_csr_vl (h : Hart) : (h.clearVstart ).csr.vl = h.csr.vl := rfl
@[simp] theorem Hart.clearVstart_csr_vstart (h : Hart) : (h.clearVstart ).csr.vstart = h.csr.vstart &&& 0x8000000000000000 := rfl
@[simp] theorem Hart.clearVstart_csr_rowlen (h : Hart) : (h.clearVstart ).csr.rowlen = h.csr.rowlen := rfl
@[simp] theorem Hart.clearVstart_csr_mklen (h : Hart) : (h.clearVstart ).csr.mklen = h.csr.mklen := rfl
@[simp] theorem Hart.clearVstart_csr_mrows (h : Hart) : (h.clearVstart ).csr.mrows = h.csr.mrows := rfl
@[simp] theorem Hart.clearVstart_csr_frm (h : Hart) : (h.clearVstart ).csr.frm = h.csr.frm := rfl
@[simp] theorem Hart.clearVstart_csr_fflags (h : Hart) : (h.clearVstart ).csr.fflags = h.csr.fflags := rfl
@[simp] theorem Hart.clearVstart_csr_srmode (h : Hart) : (h.clearVstart ).csr.srmode = h.csr.srmode := rfl
@[simp] theorem Hart.clearVstart_csr_srlog (h : Hart) : (h.clearVstart ).csr.srlog = h.csr.srlog := rfl
@[simp] theorem Hart.clearVstart_csr_rngkey (h : Hart) : (h.clearVstart ).csr.rngkey = h.csr.rngkey := rfl
@[simp] theorem Hart.clearVstart_csr_rngstream (h : Hart) : (h.clearVstart ).csr.rngstream = h.csr.rngstream := rfl
@[simp] theorem Hart.clearVstart_csr_rngctr (h : Hart) : (h.clearVstart ).csr.rngctr = h.csr.rngctr := rfl
@[simp] theorem Hart.clearVstart_csr_nocclass (h : Hart) : (h.clearVstart ).csr.nocclass = h.csr.nocclass := rfl
@[simp] theorem Hart.clearVstart_csr_routever (h : Hart) : (h.clearVstart ).csr.routever = h.csr.routever := rfl
@[simp] theorem Hart.clearVstart_csr_gangid (h : Hart) : (h.clearVstart ).csr.gangid = h.csr.gangid := rfl
@[simp] theorem Hart.clearVstart_csr_gangsize (h : Hart) : (h.clearVstart ).csr.gangsize = h.csr.gangsize := rfl
@[simp] theorem Hart.clearVstart_csr_gangrank (h : Hart) : (h.clearVstart ).csr.gangrank = h.csr.gangrank := rfl
@[simp] theorem Hart.clearVstart_csr_launcharg (h : Hart) : (h.clearVstart ).csr.launcharg = h.csr.launcharg := rfl
@[simp] theorem Hart.clearVstart_csr_cycle (h : Hart) : (h.clearVstart ).csr.cycle = h.csr.cycle := rfl
@[simp] theorem Hart.clearVstart_csr_exact (h : Hart) : (h.clearVstart ).csr.exact = h.csr.exact := rfl
@[simp] theorem Hart.clearVstart_csr_racc (h : Hart) : (h.clearVstart ).csr.racc = h.csr.racc := rfl

@[simp] theorem Hart.bumpRngctr_id (h : Hart) (n : Nat) : (h.bumpRngctr n).id = h.id := rfl
@[simp] theorem Hart.bumpRngctr_bound (h : Hart) (n : Nat) : (h.bumpRngctr n).bound = h.bound := rfl
@[simp] theorem Hart.bumpRngctr_run (h : Hart) (n : Nat) : (h.bumpRngctr n).run = h.run := rfl
@[simp] theorem Hart.bumpRngctr_wait (h : Hart) (n : Nat) : (h.bumpRngctr n).wait = h.wait := rfl
@[simp] theorem Hart.bumpRngctr_level (h : Hart) (n : Nat) : (h.bumpRngctr n).level = h.level := rfl
@[simp] theorem Hart.bumpRngctr_pc (h : Hart) (n : Nat) : (h.bumpRngctr n).pc = h.pc := rfl
@[simp] theorem Hart.bumpRngctr_x (h : Hart) (n : Nat) : (h.bumpRngctr n).x = h.x := rfl
@[simp] theorem Hart.bumpRngctr_sx (h : Hart) (n : Nat) : (h.bumpRngctr n).sx = h.sx := rfl
@[simp] theorem Hart.bumpRngctr_sup (h : Hart) (n : Nat) : (h.bumpRngctr n).sup = h.sup := rfl
@[simp] theorem Hart.bumpRngctr_vec (h : Hart) (n : Nat) : (h.bumpRngctr n).vec = h.vec := rfl
@[simp] theorem Hart.bumpRngctr_handles (h : Hart) (n : Nat) : (h.bumpRngctr n).handles = h.handles := rfl
@[simp] theorem Hart.bumpRngctr_events (h : Hart) (n : Nat) : (h.bumpRngctr n).events = h.events := rfl
@[simp] theorem Hart.bumpRngctr_tags (h : Hart) (n : Nat) : (h.bumpRngctr n).tags = h.tags := rfl
@[simp] theorem Hart.bumpRngctr_grant (h : Hart) (n : Nat) : (h.bumpRngctr n).grant = h.grant := rfl
@[simp] theorem Hart.bumpRngctr_job (h : Hart) (n : Nat) : (h.bumpRngctr n).job = h.job := rfl
@[simp] theorem Hart.bumpRngctr_strips (h : Hart) (n : Nat) : (h.bumpRngctr n).strips = h.strips := rfl
@[simp] theorem Hart.bumpRngctr_lenders (h : Hart) (n : Nat) : (h.bumpRngctr n).lenders = h.lenders := rfl
@[simp] theorem Hart.bumpRngctr_preempt (h : Hart) (n : Nat) : (h.bumpRngctr n).preempt = h.preempt := rfl
@[simp] theorem Hart.bumpRngctr_freeze (h : Hart) (n : Nat) : (h.bumpRngctr n).freeze = h.freeze := rfl
@[simp] theorem Hart.bumpRngctr_ifr (h : Hart) (n : Nat) : (h.bumpRngctr n).ifr = h.ifr := rfl
@[simp] theorem Hart.bumpRngctr_seed (h : Hart) (n : Nat) : (h.bumpRngctr n).seed = h.seed := rfl
@[simp] theorem Hart.bumpRngctr_csr_vl (h : Hart) (n : Nat) : (h.bumpRngctr n).csr.vl = h.csr.vl := rfl
@[simp] theorem Hart.bumpRngctr_csr_vstart (h : Hart) (n : Nat) : (h.bumpRngctr n).csr.vstart = h.csr.vstart := rfl
@[simp] theorem Hart.bumpRngctr_csr_rowlen (h : Hart) (n : Nat) : (h.bumpRngctr n).csr.rowlen = h.csr.rowlen := rfl
@[simp] theorem Hart.bumpRngctr_csr_mklen (h : Hart) (n : Nat) : (h.bumpRngctr n).csr.mklen = h.csr.mklen := rfl
@[simp] theorem Hart.bumpRngctr_csr_mrows (h : Hart) (n : Nat) : (h.bumpRngctr n).csr.mrows = h.csr.mrows := rfl
@[simp] theorem Hart.bumpRngctr_csr_frm (h : Hart) (n : Nat) : (h.bumpRngctr n).csr.frm = h.csr.frm := rfl
@[simp] theorem Hart.bumpRngctr_csr_fflags (h : Hart) (n : Nat) : (h.bumpRngctr n).csr.fflags = h.csr.fflags := rfl
@[simp] theorem Hart.bumpRngctr_csr_srmode (h : Hart) (n : Nat) : (h.bumpRngctr n).csr.srmode = h.csr.srmode := rfl
@[simp] theorem Hart.bumpRngctr_csr_srlog (h : Hart) (n : Nat) : (h.bumpRngctr n).csr.srlog = h.csr.srlog := rfl
@[simp] theorem Hart.bumpRngctr_csr_rngkey (h : Hart) (n : Nat) : (h.bumpRngctr n).csr.rngkey = h.csr.rngkey := rfl
@[simp] theorem Hart.bumpRngctr_csr_rngstream (h : Hart) (n : Nat) : (h.bumpRngctr n).csr.rngstream = h.csr.rngstream := rfl
@[simp] theorem Hart.bumpRngctr_csr_rngctr (h : Hart) (n : Nat) : (h.bumpRngctr n).csr.rngctr = h.csr.rngctr + BitVec.ofNat 64 n := rfl
@[simp] theorem Hart.bumpRngctr_csr_nocclass (h : Hart) (n : Nat) : (h.bumpRngctr n).csr.nocclass = h.csr.nocclass := rfl
@[simp] theorem Hart.bumpRngctr_csr_routever (h : Hart) (n : Nat) : (h.bumpRngctr n).csr.routever = h.csr.routever := rfl
@[simp] theorem Hart.bumpRngctr_csr_gangid (h : Hart) (n : Nat) : (h.bumpRngctr n).csr.gangid = h.csr.gangid := rfl
@[simp] theorem Hart.bumpRngctr_csr_gangsize (h : Hart) (n : Nat) : (h.bumpRngctr n).csr.gangsize = h.csr.gangsize := rfl
@[simp] theorem Hart.bumpRngctr_csr_gangrank (h : Hart) (n : Nat) : (h.bumpRngctr n).csr.gangrank = h.csr.gangrank := rfl
@[simp] theorem Hart.bumpRngctr_csr_launcharg (h : Hart) (n : Nat) : (h.bumpRngctr n).csr.launcharg = h.csr.launcharg := rfl
@[simp] theorem Hart.bumpRngctr_csr_cycle (h : Hart) (n : Nat) : (h.bumpRngctr n).csr.cycle = h.csr.cycle := rfl
@[simp] theorem Hart.bumpRngctr_csr_exact (h : Hart) (n : Nat) : (h.bumpRngctr n).csr.exact = h.csr.exact := rfl
@[simp] theorem Hart.bumpRngctr_csr_racc (h : Hart) (n : Nat) : (h.bumpRngctr n).csr.racc = h.csr.racc := rfl

end Sys2Proof.Machine
end

