-- ==== Sys2Proof/Laws/Ops.lean ====
section
/-! SUPPORT. What each shared operation does, once: registers, guards, accesses, gates, seeds, vector and matrix instructions, traps. -/

namespace Sys2Proof.Machine

/-! ### Registers -/

@[simp] theorem Hart.rx_zero (h : Hart) : h.rx 0 = 0 := rfl

@[simp] theorem Hart.wx_zero (h : Hart) (v : Word) : h.wx 0 v = h := rfl

theorem vget_set_same {α : Type} {n : Nat} (v : Vector α n) (i : Fin n) (x : α) : (v.set i.val x i.isLt).get i = x := by
  show (v.set i.val x i.isLt)[i.val] = x
  simp

theorem vget_set_other {α : Type} {n : Nat} (v : Vector α n) {i j : Fin n} (h : j ≠ i) (x : α) : (v.set i.val x i.isLt).get j = v.get j := by
  show (v.set i.val x i.isLt)[j.val] = v[j.val]
  exact Vector.getElem_set_ne _ _ fun e => h (Fin.ext e.symm)

theorem Hart.rx_wx_same {h : Hart} {r : XReg} (hr : r ≠ 0) (v : Word) : (h.wx r v).rx r = v := by
  cases hl : h.level <;> simp [Hart.rx, Hart.wx, hr, hl, vget_set_same]

theorem Hart.rx_wx_other {h : Hart} {r q : XReg} (hq : q ≠ r) (v : Word) : (h.wx r v).rx q = h.rx q := by
  unfold Hart.rx Hart.wx
  by_cases hr : r = 0
  · simp [hr]
  · cases hl : h.level <;> simp [hr, vget_set_other _ hq]

/-- A register write changes the registers and nothing else of the hart. -/
theorem Hart.wx_frame (h : Hart) (r : XReg) (v : Word) : h.wx r v = { h with x := (h.wx r v).x, sx := (h.wx r v).sx } := by
  unfold Hart.wx
  by_cases hr : r = 0
  · simp [hr]
  · cases hl : h.level <;> simp [hr]

/-- A write to one bank leaves the other. -/
theorem Hart.wx_bank (h : Hart) (r : XReg) (v : Word) : match h.level with
    | .app => (h.wx r v).sx = h.sx
    | .sup => (h.wx r v).x = h.x := by
  unfold Hart.wx
  by_cases hr : r = 0
  · cases h.level <;> simp [hr]
  · cases hl : h.level <;> simp [hr]

/-- An elementwise register file keeps its other registers. -/
theorem Hart.rv_wv_other {h : Hart} {r q : VReg} (hq : q ≠ r) (x : VBits) : (h.wv r x).rv q = h.rv q := vget_set_other _ hq _

theorem Hart.rv_wv_same (h : Hart) (r : VReg) (x : VBits) : (h.wv r x).rv r = x := vget_set_same _ _ _

theorem Hart.rv_setVec_same (h : Hart) (r : VReg) (t : BitVec 8) (x : VBits) : (h.setVec r t x).rv r = x := vget_set_same _ _ _

theorem Hart.tagOf_setVec_same (h : Hart) (r : VReg) (t : BitVec 8) (x : VBits) : (h.setVec r t x).tagOf r = t := vget_set_same _ _ _

theorem Hart.rv_setVec_other {h : Hart} {r q : VReg} (hq : q ≠ r) (t : BitVec 8) (x : VBits) : (h.setVec r t x).rv q = h.rv q :=
  vget_set_other _ hq _

theorem Hart.tagOf_setVec_other {h : Hart} {r q : VReg} (hq : q ≠ r) (t : BitVec 8) (x : VBits) : (h.setVec r t x).tagOf q = h.tagOf q :=
  vget_set_other _ hq _

/-! ### Guards -/

variable {s : State} {i : Instr} {f : State → State}

theorem State.guardOperand_ok {ok : Bool} (h : ok = true) : s.guardOperand i ok f = f s := by simp [State.guardOperand, h]

theorem State.guardOperand_bad {ok : Bool} (h : ok = false) : s.guardOperand i ok f = s.illegalOperand i := by simp [State.guardOperand, h]

theorem State.privileged_sup (h : s.hart.level = .sup) : s.privileged i f = f s := by simp [State.privileged, State.isSup, h]

theorem State.privileged_app (h : s.hart.level = .app) : s.privileged i f = s.illegalInstruction i := by simp [State.privileged, State.isSup, h]

/-- When a vector instruction executes. -/
theorem State.vectorOp_ok {ok : Bool} (hl : s.hart.level = .app) (hm : s.hart.vec.matrix = false) (h : ok = true) (hb : s.lent = false) :
    s.vectorOp i ok f = f s := by simp [State.vectorOp, State.isSup, hl, hm, h, hb]

/-- When it is illegal. -/
theorem State.vectorOp_bad {ok : Bool} (h : s.hart.level = .sup ∨ s.hart.vec.matrix = true ∨ ok = false) : s.vectorOp i ok f = s.illegalOperand i := by
  rcases h with h | h | h <;> simp [State.vectorOp, State.isSup, h]

/-- When a matrix instruction executes: only a store does while the array is lent. -/
theorem State.matrixOp_ok {store ok : Bool} (hl : s.hart.level = .app) (hm : s.hart.vec.matrix = true) (h : ok = true) (hb : store = true ∨ s.lent = false) :
    s.matrixOp i store ok f = f s := by
  rcases hb with hb | hb <;> simp [State.matrixOp, State.isSup, hl, hm, h, hb]

/-- When it is illegal. -/
theorem State.matrixOp_bad {store ok : Bool} (h : s.hart.level = .sup ∨ s.hart.vec.matrix = false ∨ ok = false) : s.matrixOp i store ok f = s.illegalOperand i := by
  rcases h with h | h | h <;> simp [State.matrixOp, State.isSup, h]

theorem State.memoryOp_ok {ok : Bool} (hl : s.hart.level = .app) (h : ok = true) : s.memoryOp i ok f = f s := by
  simp [State.memoryOp, State.isSup, hl, h]

/-! ### Accesses -/

theorem State.passGates_open {l : List Place} (h : ∀ p ∈ l, s.gate p = .opened) : s.passGates i l f = f s := by
  have : (l.find? fun p => s.gate p != .opened) = none := by
    rw [List.find?_eq_none]; intro p hp; simp [h p hp]
  simp [State.passGates, this]

@[simp] theorem State.cachePage_off (h : s.caching = false) (va : Word) : s.cachePage va = s := by simp [State.cachePage, h]

/-- A scalar access whose checks hold and whose gate is open. -/
theorem State.scalarAccess_ok {va : Word} {n a : Nat} {k : AKind} {g : State → Place → State} {p : Place} (h : s.probe va n a k = .ok p)
    (hg : (s.cachePage va).gate p = .opened) : s.scalarAccess i va n a k g = g (s.cachePage va) p := by
  simp only [State.scalarAccess, h]
  exact State.passGates_open (by simpa using hg)

/-- A scalar access that fails a check traps. -/
theorem State.scalarAccess_trap {va : Word} {n a : Nat} {k : AKind} {g : State → Place → State} {c : Cause} (h : s.probe va n a k = .error c) :
    s.scalarAccess i va n a k g = s.accessTrap i c va := by simp only [State.scalarAccess, h]

/-- With no access outstanding nothing is unperformed. -/
@[simp] theorem State.unperformed_none (h : s.accesses = []) : s.unperformed = false := by simp [State.unperformed, State.outstanding, h]

/-- What waits for earlier accesses acts at once when they have all been performed. -/
theorem State.afterEarlier_ok {g : State → State} (h : s.unperformed = false) : s.afterEarlier i g = g s := by simp [State.afterEarlier, h]

/-- It waits otherwise. -/
theorem State.afterEarlier_waits {g : State → State} (h : s.unperformed = true) : s.afterEarlier i g = s.waits i := by simp [State.afterEarlier, h]

/-- The check of a SYNC's handle, with a tag and room in the Trivet's table. -/
theorem State.syncAt_ok {xh : XReg} {e : Nat} {g : State → Nat → State} (ht : s.tagsFull 1 = false) (hr : s.tableFull dupTrivet 1 = false)
    (hu : s.unperformed = false) : s.syncAt i xh (some e) g = g s e := by simp [State.syncAt, State.afterEarlier, ht, hr, hu]

/-! ### Seeds -/

theorem State.seedFor_none {mode : RMode} {draws : Bool} {n : Nat} (h : mode ≠ .sr ∨ draws = false ∨ n = 0) :
    s.seedFor mode draws n = .ok (Seed.none, s) := by
  unfold State.seedFor
  rcases h with h | h | h <;> simp [h]

/-! ### Traps -/

/-- What taking a trap at application level saves and where it goes (R174). -/
theorem Hart.trap_app {h : Hart} (hl : h.level = .app) (w : Nat) (t : Trap) :
    (h.trap w t).level = .sup ∧ (h.trap w t).pc = h.sup.trapvec ∧ (h.trap w t).sup.trappc = h.pc ∧
    (h.trap w t).sup.trapcause = BitVec.ofNat 64 t.cause.code ∧ (h.trap w t).sup.trapval = t.val ∧ (h.trap w t).sup.trapelem = t.elem ∧
    (h.trap w t).sx = copyArgs h.x h.sx ∧ (h.trap w t).x = h.x ∧ (h.trap w t).csr = h.csr ∧ (h.trap w t).vec = h.vec := by
  simp [Hart.trap, hl]

/-! ### Accesses at their slice, issue and decode -/

/-- An access that acts changes memory, and under a tag the duplicate table of its target, and nothing else. -/
theorem State.perform_frame (s : State) (a : Access) :
    s.perform a = { s with
      mem := a.write s.mem
      duplicates := if a.classT then s.duplicates ++ [⟨dupSlice a.loc, a.ctx, a.issuer, a.tag, a.read s.mem⟩] else s.duplicates } := by
  cases h : a.classT <;> simp [State.perform, State.note, h]

theorem State.issueInsn_quiet {s : State} {i : Instr} (hq : s.quiet = true) (hd : s.decodes i = none) : s.issueInsn i = exec i s := by
  simp [State.issueInsn, hq, hd]

theorem State.issueInsn_waits {s : State} {i : Instr} (hq : s.quiet = false) (hi : s.interlocked i = true) : s.issueInsn i = .next (s.waits i) := by
  simp [State.issueInsn, hq, hi]

theorem State.passDecode_room {s t : State} {i : Instr} {p : Pipe} {run : State → Out} (hr : s.decodeRoom p = true) (ht : run s = .next t) :
    s.passDecode i p run = .next (s.decodeInto t i p (nextState (run (s.onHart Hart.noFlags)) s).hart.csr.fflags) := by
  simp [State.passDecode, hr, ht]

theorem State.passDecode_full {s : State} {i : Instr} {p : Pipe} {run : State → Out} (hr : s.decodeRoom p = false) : s.passDecode i p run = .next (s.waits i) := by
  simp [State.passDecode, hr]

/-- The start of a micro-op changes the window of its core alone. -/
theorem State.startOp_frame (s : State) (core unit : Nat) (b : Bool) : s.startOp core unit b = { s with cores := (s.startOp core unit b).cores } := by
  unfold State.startOp
  dsimp only
  split <;> rfl

end Sys2Proof.Machine
end

