-- ==== Sys2Proof/Laws/PerInstr.lean ====
section
/-! SUPPORT. Per-instruction laws, one lemma per constructor: an instruction has an encoding exactly when it is no device step. -/

namespace Sys2Proof.Laws.Encoding

/-- The instruction has an encoding, or is a device step, which has none. -/
def Statement (i : Instr) : Prop := (encode i).isSome = !i.isDeviceStep

theorem add (rd : XReg) (rs1 : XReg) (rs2 : XReg) : Statement (.add rd rs1 rs2) := rfl
theorem sub (rd : XReg) (rs1 : XReg) (rs2 : XReg) : Statement (.sub rd rs1 rs2) := rfl
theorem and (rd : XReg) (rs1 : XReg) (rs2 : XReg) : Statement (.and rd rs1 rs2) := rfl
theorem or (rd : XReg) (rs1 : XReg) (rs2 : XReg) : Statement (.or rd rs1 rs2) := rfl
theorem xor (rd : XReg) (rs1 : XReg) (rs2 : XReg) : Statement (.xor rd rs1 rs2) := rfl
theorem sll (rd : XReg) (rs1 : XReg) (rs2 : XReg) : Statement (.sll rd rs1 rs2) := rfl
theorem srl (rd : XReg) (rs1 : XReg) (rs2 : XReg) : Statement (.srl rd rs1 rs2) := rfl
theorem sra (rd : XReg) (rs1 : XReg) (rs2 : XReg) : Statement (.sra rd rs1 rs2) := rfl
theorem rotl (rd : XReg) (rs1 : XReg) (rs2 : XReg) : Statement (.rotl rd rs1 rs2) := rfl
theorem rotr (rd : XReg) (rs1 : XReg) (rs2 : XReg) : Statement (.rotr rd rs1 rs2) := rfl
theorem slt (rd : XReg) (rs1 : XReg) (rs2 : XReg) : Statement (.slt rd rs1 rs2) := rfl
theorem sltn (rd : XReg) (rs1 : XReg) (rs2 : XReg) : Statement (.sltn rd rs1 rs2) := rfl
theorem min (rd : XReg) (rs1 : XReg) (rs2 : XReg) : Statement (.min rd rs1 rs2) := rfl
theorem max (rd : XReg) (rs1 : XReg) (rs2 : XReg) : Statement (.max rd rs1 rs2) := rfl
theorem minn (rd : XReg) (rs1 : XReg) (rs2 : XReg) : Statement (.minn rd rs1 rs2) := rfl
theorem maxn (rd : XReg) (rs1 : XReg) (rs2 : XReg) : Statement (.maxn rd rs1 rs2) := rfl
theorem mul (rd : XReg) (rs1 : XReg) (rs2 : XReg) : Statement (.mul rd rs1 rs2) := rfl
theorem mulh (rd : XReg) (rs1 : XReg) (rs2 : XReg) : Statement (.mulh rd rs1 rs2) := rfl
theorem mulhn (rd : XReg) (rs1 : XReg) (rs2 : XReg) : Statement (.mulhn rd rs1 rs2) := rfl
theorem div (rd : XReg) (rs1 : XReg) (rs2 : XReg) : Statement (.div rd rs1 rs2) := rfl
theorem divn (rd : XReg) (rs1 : XReg) (rs2 : XReg) : Statement (.divn rd rs1 rs2) := rfl
theorem rem (rd : XReg) (rs1 : XReg) (rs2 : XReg) : Statement (.rem rd rs1 rs2) := rfl
theorem remn (rd : XReg) (rs1 : XReg) (rs2 : XReg) : Statement (.remn rd rs1 rs2) := rfl
theorem clz (rd : XReg) (rs1 : XReg) (w : BitVec 3) : Statement (.clz rd rs1 w) := rfl
theorem ctz (rd : XReg) (rs1 : XReg) (w : BitVec 3) : Statement (.ctz rd rs1 w) := rfl
theorem popc (rd : XReg) (rs1 : XReg) (w : BitVec 3) : Statement (.popc rd rs1 w) := rfl
theorem sext (rd : XReg) (rs1 : XReg) (w : BitVec 3) : Statement (.sext rd rs1 w) := rfl
theorem zext (rd : XReg) (rs1 : XReg) (w : BitVec 3) : Statement (.zext rd rs1 w) := rfl
theorem fadd (rd : XReg) (rs1 : XReg) (rs2 : XReg) (fmt : Bool) (rnd : BitVec 3) : Statement (.fadd rd rs1 rs2 fmt rnd) := rfl
theorem fsub (rd : XReg) (rs1 : XReg) (rs2 : XReg) (fmt : Bool) (rnd : BitVec 3) : Statement (.fsub rd rs1 rs2 fmt rnd) := rfl
theorem fmul (rd : XReg) (rs1 : XReg) (rs2 : XReg) (fmt : Bool) (rnd : BitVec 3) : Statement (.fmul rd rs1 rs2 fmt rnd) := rfl
theorem fdiv (rd : XReg) (rs1 : XReg) (rs2 : XReg) (fmt : Bool) (rnd : BitVec 3) : Statement (.fdiv rd rs1 rs2 fmt rnd) := rfl
theorem fsqrt (rd : XReg) (rs1 : XReg) (fmt : Bool) (rnd : BitVec 3) : Statement (.fsqrt rd rs1 fmt rnd) := rfl
theorem fmin (rd : XReg) (rs1 : XReg) (rs2 : XReg) (fmt : Bool) : Statement (.fmin rd rs1 rs2 fmt) := rfl
theorem fmax (rd : XReg) (rs1 : XReg) (rs2 : XReg) (fmt : Bool) : Statement (.fmax rd rs1 rs2 fmt) := rfl
theorem fcmp (rd : XReg) (rs1 : XReg) (rs2 : XReg) (fmt : Bool) (cond : BitVec 3) : Statement (.fcmp rd rs1 rs2 fmt cond) := rfl
theorem fcvt (rd : XReg) (rs1 : XReg) (ty : BitVec 5) (fmt : Bool) (rnd : BitVec 3) (dir : Bool) : Statement (.fcvt rd rs1 ty fmt rnd dir) := rfl
theorem fclass (rd : XReg) (rs1 : XReg) (fmt : Bool) : Statement (.fclass rd rs1 fmt) := rfl
theorem ffma (rd : XReg) (rs1 : XReg) (rs2 : XReg) (rs3 : XReg) (fmt : Bool) (rnd : BitVec 3) : Statement (.ffma rd rs1 rs2 rs3 fmt rnd) := rfl
theorem addi (rd : XReg) (rs1 : XReg) (imm : BitVec 14) : Statement (.addi rd rs1 imm) := rfl
theorem andi (rd : XReg) (rs1 : XReg) (imm : BitVec 14) : Statement (.andi rd rs1 imm) := rfl
theorem ori (rd : XReg) (rs1 : XReg) (imm : BitVec 14) : Statement (.ori rd rs1 imm) := rfl
theorem xori (rd : XReg) (rs1 : XReg) (imm : BitVec 14) : Statement (.xori rd rs1 imm) := rfl
theorem slli (rd : XReg) (rs1 : XReg) (sh : BitVec 6) : Statement (.slli rd rs1 sh) := rfl
theorem srli (rd : XReg) (rs1 : XReg) (sh : BitVec 6) : Statement (.srli rd rs1 sh) := rfl
theorem srai (rd : XReg) (rs1 : XReg) (sh : BitVec 6) : Statement (.srai rd rs1 sh) := rfl
theorem slti (rd : XReg) (rs1 : XReg) (imm : BitVec 14) : Statement (.slti rd rs1 imm) := rfl
theorem lih (rd : XReg) (imm : BitVec 19) : Statement (.lih rd imm) := rfl
theorem addpc (rd : XReg) (imm : BitVec 19) : Statement (.addpc rd imm) := rfl
theorem ldI8 (rd : XReg) (rs1 : XReg) (imm : BitVec 14) : Statement (.ldI8 rd rs1 imm) := rfl
theorem ldN8 (rd : XReg) (rs1 : XReg) (imm : BitVec 14) : Statement (.ldN8 rd rs1 imm) := rfl
theorem ldI16 (rd : XReg) (rs1 : XReg) (imm : BitVec 14) : Statement (.ldI16 rd rs1 imm) := rfl
theorem ldN16 (rd : XReg) (rs1 : XReg) (imm : BitVec 14) : Statement (.ldN16 rd rs1 imm) := rfl
theorem ldI32 (rd : XReg) (rs1 : XReg) (imm : BitVec 14) : Statement (.ldI32 rd rs1 imm) := rfl
theorem ldN32 (rd : XReg) (rs1 : XReg) (imm : BitVec 14) : Statement (.ldN32 rd rs1 imm) := rfl
theorem ldI64 (rd : XReg) (rs1 : XReg) (imm : BitVec 14) : Statement (.ldI64 rd rs1 imm) := rfl
theorem ldacq (rd : XReg) (rs1 : XReg) (ew : BitVec 3) (scope : BitVec 3) : Statement (.ldacq rd rs1 ew scope) := rfl
theorem st8 (rs : XReg) (rs1 : XReg) (imm : BitVec 14) : Statement (.st8 rs rs1 imm) := rfl
theorem st16 (rs : XReg) (rs1 : XReg) (imm : BitVec 14) : Statement (.st16 rs rs1 imm) := rfl
theorem st32 (rs : XReg) (rs1 : XReg) (imm : BitVec 14) : Statement (.st32 rs rs1 imm) := rfl
theorem st64 (rs : XReg) (rs1 : XReg) (imm : BitVec 14) : Statement (.st64 rs rs1 imm) := rfl
theorem strel (rs : XReg) (rs1 : XReg) (ew : BitVec 3) (scope : BitVec 3) : Statement (.strel rs rs1 ew scope) := rfl
theorem amoAdd (rd : XReg) (rs1 : XReg) (rs2 : XReg) (ord : BitVec 2) (scope : BitVec 3) : Statement (.amoAdd rd rs1 rs2 ord scope) := rfl
theorem amoAnd (rd : XReg) (rs1 : XReg) (rs2 : XReg) (ord : BitVec 2) (scope : BitVec 3) : Statement (.amoAnd rd rs1 rs2 ord scope) := rfl
theorem amoOr (rd : XReg) (rs1 : XReg) (rs2 : XReg) (ord : BitVec 2) (scope : BitVec 3) : Statement (.amoOr rd rs1 rs2 ord scope) := rfl
theorem amoXor (rd : XReg) (rs1 : XReg) (rs2 : XReg) (ord : BitVec 2) (scope : BitVec 3) : Statement (.amoXor rd rs1 rs2 ord scope) := rfl
theorem amoMin (rd : XReg) (rs1 : XReg) (rs2 : XReg) (ord : BitVec 2) (scope : BitVec 3) : Statement (.amoMin rd rs1 rs2 ord scope) := rfl
theorem amoMax (rd : XReg) (rs1 : XReg) (rs2 : XReg) (ord : BitVec 2) (scope : BitVec 3) : Statement (.amoMax rd rs1 rs2 ord scope) := rfl
theorem amoSwap (rd : XReg) (rs1 : XReg) (rs2 : XReg) (ord : BitVec 2) (scope : BitVec 3) : Statement (.amoSwap rd rs1 rs2 ord scope) := rfl
theorem amoCas (rd : XReg) (rs1 : XReg) (rs2 : XReg) (ord : BitVec 2) (scope : BitVec 3) : Statement (.amoCas rd rs1 rs2 ord scope) := rfl
theorem prefetch (st : XReg) (rs1 : XReg) (level : BitVec 2) : Statement (.prefetch st rs1 level) := rfl
theorem pin (st : XReg) (rs1 : XReg) (level : BitVec 2) : Statement (.pin st rs1 level) := rfl
theorem unpin (st : XReg) (rs1 : XReg) (level : BitVec 2) : Statement (.unpin st rs1 level) := rfl
theorem beq (rs1 : XReg) (rs2 : XReg) (off : BitVec 14) : Statement (.beq rs1 rs2 off) := rfl
theorem bne (rs1 : XReg) (rs2 : XReg) (off : BitVec 14) : Statement (.bne rs1 rs2 off) := rfl
theorem blt (rs1 : XReg) (rs2 : XReg) (off : BitVec 14) : Statement (.blt rs1 rs2 off) := rfl
theorem bge (rs1 : XReg) (rs2 : XReg) (off : BitVec 14) : Statement (.bge rs1 rs2 off) := rfl
theorem bltn (rs1 : XReg) (rs2 : XReg) (off : BitVec 14) : Statement (.bltn rs1 rs2 off) := rfl
theorem bgen (rs1 : XReg) (rs2 : XReg) (off : BitVec 14) : Statement (.bgen rs1 rs2 off) := rfl
theorem jal (rd : XReg) (off : BitVec 19) : Statement (.jal rd off) := rfl
theorem jalr (rd : XReg) (rs1 : XReg) (imm : BitVec 14) : Statement (.jalr rd rs1 imm) := rfl
theorem ecall : Statement (.ecall) := rfl
theorem ebreak : Statement (.ebreak) := rfl
theorem tret : Statement (.tret) := rfl
theorem halt : Statement (.halt) := rfl
theorem yield : Statement (.yield) := rfl
theorem fence (scope : BitVec 3) (sets : BitVec 3) : Statement (.fence scope sets) := rfl
theorem vlsync : Statement (.vlsync) := rfl
theorem evpop (rd : XReg) (rs1 : XReg) : Statement (.evpop rd rs1) := rfl
theorem evwait (rd : XReg) (rs1 : XReg) : Statement (.evwait rd rs1) := rfl
theorem csrrw (rd : XReg) (rs1 : XReg) (csr : BitVec 12) : Statement (.csrrw rd rs1 csr) := rfl
theorem csrrs (rd : XReg) (rs1 : XReg) (csr : BitVec 12) : Statement (.csrrs rd rs1 csr) := rfl
theorem csrrc (rd : XReg) (rs1 : XReg) (csr : BitVec 12) : Statement (.csrrc rd rs1 csr) := rfl
theorem ifrsave (rd : XReg) : Statement (.ifrsave rd) := rfl
theorem ifrload (rd : XReg) : Statement (.ifrload rd) := rfl
theorem ifrreplay (rd : XReg) : Statement (.ifrreplay rd) := rfl
theorem ctxsavev (rd : XReg) : Statement (.ctxsavev rd) := rfl
theorem ctxloadv (rd : XReg) : Statement (.ctxloadv rd) := rfl
theorem genbump (rd : XReg) (rs1 : XReg) : Statement (.genbump rd rs1) := rfl
theorem lanecap (rd : XReg) (rs1 : XReg) (rs2 : XReg) : Statement (.lanecap rd rs1 rs2) := rfl
theorem sfuload (rd : XReg) (rs1 : XReg) (rs2 : XReg) : Statement (.sfuload rd rs1 rs2) := rfl
theorem launch (rd : XReg) (rs1 : XReg) (rs2 : XReg) : Statement (.launch rd rs1 rs2) := rfl
theorem vadd (vd : VReg) (va : VReg) (vb : VReg) (m : MReg) (ca : Bool) (cb : Bool) (z : Bool) : Statement (.vadd vd va vb m ca cb z) := rfl
theorem vsub (vd : VReg) (va : VReg) (vb : VReg) (m : MReg) (ca : Bool) (cb : Bool) (z : Bool) : Statement (.vsub vd va vb m ca cb z) := rfl
theorem vmul (vd : VReg) (va : VReg) (vb : VReg) (m : MReg) (ca : Bool) (cb : Bool) (z : Bool) : Statement (.vmul vd va vb m ca cb z) := rfl
theorem vmulh (vd : VReg) (va : VReg) (vb : VReg) (m : MReg) (ca : Bool) (cb : Bool) (z : Bool) : Statement (.vmulh vd va vb m ca cb z) := rfl
theorem vdiv (vd : VReg) (va : VReg) (vb : VReg) (m : MReg) (ca : Bool) (cb : Bool) (z : Bool) : Statement (.vdiv vd va vb m ca cb z) := rfl
theorem vfma (vd : VReg) (va : VReg) (vb : VReg) (m : MReg) (ca : Bool) (cb : Bool) (z : Bool) : Statement (.vfma vd va vb m ca cb z) := rfl
theorem vfms (vd : VReg) (va : VReg) (vb : VReg) (m : MReg) (ca : Bool) (cb : Bool) (z : Bool) : Statement (.vfms vd va vb m ca cb z) := rfl
theorem vfnma (vd : VReg) (va : VReg) (vb : VReg) (m : MReg) (ca : Bool) (cb : Bool) (z : Bool) : Statement (.vfnma vd va vb m ca cb z) := rfl
theorem vmin (vd : VReg) (va : VReg) (vb : VReg) (m : MReg) (ca : Bool) (cb : Bool) (z : Bool) : Statement (.vmin vd va vb m ca cb z) := rfl
theorem vmax (vd : VReg) (va : VReg) (vb : VReg) (m : MReg) (ca : Bool) (cb : Bool) (z : Bool) : Statement (.vmax vd va vb m ca cb z) := rfl
theorem vadds (vd : VReg) (va : VReg) (vb : VReg) (m : MReg) (ca : Bool) (cb : Bool) (z : Bool) : Statement (.vadds vd va vb m ca cb z) := rfl
theorem vsubs (vd : VReg) (va : VReg) (vb : VReg) (m : MReg) (ca : Bool) (cb : Bool) (z : Bool) : Statement (.vsubs vd va vb m ca cb z) := rfl
theorem vand (vd : VReg) (va : VReg) (vb : VReg) (m : MReg) (ca : Bool) (cb : Bool) (z : Bool) : Statement (.vand vd va vb m ca cb z) := rfl
theorem vor (vd : VReg) (va : VReg) (vb : VReg) (m : MReg) (ca : Bool) (cb : Bool) (z : Bool) : Statement (.vor vd va vb m ca cb z) := rfl
theorem vxor (vd : VReg) (va : VReg) (vb : VReg) (m : MReg) (ca : Bool) (cb : Bool) (z : Bool) : Statement (.vxor vd va vb m ca cb z) := rfl
theorem vsll (vd : VReg) (va : VReg) (vb : VReg) (m : MReg) (ca : Bool) (cb : Bool) (z : Bool) : Statement (.vsll vd va vb m ca cb z) := rfl
theorem vsrl (vd : VReg) (va : VReg) (vb : VReg) (m : MReg) (ca : Bool) (cb : Bool) (z : Bool) : Statement (.vsrl vd va vb m ca cb z) := rfl
theorem vsra (vd : VReg) (va : VReg) (vb : VReg) (m : MReg) (ca : Bool) (cb : Bool) (z : Bool) : Statement (.vsra vd va vb m ca cb z) := rfl
theorem vcmp (md : MReg) (cond : BitVec 3) (va : VReg) (vb : VReg) (m : MReg) (ca : Bool) (cb : Bool) (z : Bool) : Statement (.vcmp md cond va vb m ca cb z) := rfl
theorem vmerge (vd : VReg) (va : VReg) (vb : VReg) (m : MReg) (ca : Bool) (cb : Bool) : Statement (.vmerge vd va vb m ca cb) := rfl
theorem vmulsc (vd : VReg) (va : VReg) (vb : VReg) (m : MReg) (ca : Bool) (cb : Bool) (z : Bool) : Statement (.vmulsc vd va vb m ca cb z) := rfl
theorem vperm (vd : VReg) (va : VReg) (vb : VReg) (m : MReg) (ca : Bool) (cb : Bool) (z : Bool) : Statement (.vperm vd va vb m ca cb z) := rfl
theorem vzipLo (vd : VReg) (va : VReg) (m : MReg) (ca : Bool) (z : Bool) : Statement (.vzipLo vd va m ca z) := rfl
theorem vzipHi (vd : VReg) (va : VReg) (m : MReg) (ca : Bool) (z : Bool) : Statement (.vzipHi vd va m ca z) := rfl
theorem vunzipEven (vd : VReg) (va : VReg) (m : MReg) (ca : Bool) (z : Bool) : Statement (.vunzipEven vd va m ca z) := rfl
theorem vunzipOdd (vd : VReg) (va : VReg) (m : MReg) (ca : Bool) (z : Bool) : Statement (.vunzipOdd vd va m ca z) := rfl
theorem vsqrt (vd : VReg) (va : VReg) (m : MReg) (ca : Bool) (z : Bool) : Statement (.vsqrt vd va m ca z) := rfl
theorem vabs (vd : VReg) (va : VReg) (m : MReg) (ca : Bool) (z : Bool) : Statement (.vabs vd va m ca z) := rfl
theorem vneg (vd : VReg) (va : VReg) (m : MReg) (ca : Bool) (z : Bool) : Statement (.vneg vd va m ca z) := rfl
theorem vmov (vd : VReg) (va : VReg) (m : MReg) (ca : Bool) (z : Bool) : Statement (.vmov vd va m ca z) := rfl
theorem vreshuf (vd : VReg) (va : VReg) (m : MReg) (ca : Bool) (z : Bool) : Statement (.vreshuf vd va m ca z) := rfl
theorem vcompress (vd : VReg) (va : VReg) (m : MReg) (ca : Bool) : Statement (.vcompress vd va m ca) := rfl
theorem vexpand (vd : VReg) (va : VReg) (m : MReg) (ca : Bool) (z : Bool) : Statement (.vexpand vd va m ca z) := rfl
theorem viota (vd : VReg) (m : MReg) (ca : Bool) (z : Bool) : Statement (.viota vd m ca z) := rfl
theorem vcvt (vd : VReg) (va : VReg) (ty : BitVec 5) (sr : Bool) (m : MReg) (ca : Bool) (z : Bool) : Statement (.vcvt vd va ty sr m ca z) := rfl
theorem vsf (vd : VReg) (va : VReg) (fn : BitVec 6) (m : MReg) (ca : Bool) (z : Bool) : Statement (.vsf vd va fn m ca z) := rfl
theorem vsfrr (vd : VReg) (va : VReg) (fn : BitVec 6) (m : MReg) (ca : Bool) (z : Bool) : Statement (.vsfrr vd va fn m ca z) := rfl
theorem vsftab (vd : VReg) (va : VReg) (fn : BitVec 6) (m : MReg) (ca : Bool) (z : Bool) : Statement (.vsftab vd va fn m ca z) := rfl
theorem vsfpoly (vd : VReg) (va : VReg) (vb : VReg) (m : MReg) (ca : Bool) (cb : Bool) (z : Bool) : Statement (.vsfpoly vd va vb m ca cb z) := rfl
theorem vsfscl (vd : VReg) (va : VReg) (vb : VReg) (m : MReg) (ca : Bool) (cb : Bool) (z : Bool) : Statement (.vsfscl vd va vb m ca cb z) := rfl
theorem vrngN32 (vd : VReg) (m : MReg) (z : Bool) : Statement (.vrngN32 vd m z) := rfl
theorem vrngN64 (vd : VReg) (m : MReg) (z : Bool) : Statement (.vrngN64 vd m z) := rfl
theorem vrngF32 (vd : VReg) (m : MReg) (z : Bool) : Statement (.vrngF32 vd m z) := rfl
theorem vaddX (vd : VReg) (va : VReg) (xs : XReg) (sw : Bool) (m : MReg) (ca : Bool) (z : Bool) : Statement (.vaddX vd va xs sw m ca z) := rfl
theorem vsubX (vd : VReg) (va : VReg) (xs : XReg) (sw : Bool) (m : MReg) (ca : Bool) (z : Bool) : Statement (.vsubX vd va xs sw m ca z) := rfl
theorem vmulX (vd : VReg) (va : VReg) (xs : XReg) (sw : Bool) (m : MReg) (ca : Bool) (z : Bool) : Statement (.vmulX vd va xs sw m ca z) := rfl
theorem vfmaX (vd : VReg) (va : VReg) (xs : XReg) (sw : Bool) (m : MReg) (ca : Bool) (z : Bool) : Statement (.vfmaX vd va xs sw m ca z) := rfl
theorem vminX (vd : VReg) (va : VReg) (xs : XReg) (sw : Bool) (m : MReg) (ca : Bool) (z : Bool) : Statement (.vminX vd va xs sw m ca z) := rfl
theorem vmaxX (vd : VReg) (va : VReg) (xs : XReg) (sw : Bool) (m : MReg) (ca : Bool) (z : Bool) : Statement (.vmaxX vd va xs sw m ca z) := rfl
theorem vandX (vd : VReg) (va : VReg) (xs : XReg) (sw : Bool) (m : MReg) (ca : Bool) (z : Bool) : Statement (.vandX vd va xs sw m ca z) := rfl
theorem vorX (vd : VReg) (va : VReg) (xs : XReg) (sw : Bool) (m : MReg) (ca : Bool) (z : Bool) : Statement (.vorX vd va xs sw m ca z) := rfl
theorem vxorX (vd : VReg) (va : VReg) (xs : XReg) (sw : Bool) (m : MReg) (ca : Bool) (z : Bool) : Statement (.vxorX vd va xs sw m ca z) := rfl
theorem vsllX (vd : VReg) (va : VReg) (xs : XReg) (sw : Bool) (m : MReg) (ca : Bool) (z : Bool) : Statement (.vsllX vd va xs sw m ca z) := rfl
theorem vsrlX (vd : VReg) (va : VReg) (xs : XReg) (sw : Bool) (m : MReg) (ca : Bool) (z : Bool) : Statement (.vsrlX vd va xs sw m ca z) := rfl
theorem vsraX (vd : VReg) (va : VReg) (xs : XReg) (sw : Bool) (m : MReg) (ca : Bool) (z : Bool) : Statement (.vsraX vd va xs sw m ca z) := rfl
theorem vcmpX (md : MReg) (cond : BitVec 3) (va : VReg) (xs : XReg) (sw : Bool) (m : MReg) (ca : Bool) (z : Bool) : Statement (.vcmpX md cond va xs sw m ca z) := rfl
theorem vbcast (vd : VReg) (xs : XReg) (sw : Bool) (m : MReg) (z : Bool) : Statement (.vbcast vd xs sw m z) := rfl
theorem vmvx (xs : XReg) (va : VReg) (xi : XReg) (sw : Bool) (ca : Bool) : Statement (.vmvx xs va xi sw ca) := rfl
theorem vxmv (vd : VReg) (xs : XReg) (xi : XReg) (sw : Bool) : Statement (.vxmv vd xs xi sw) := rfl
theorem vaddi (vd : VReg) (va : VReg) (imm : BitVec 6) (m : MReg) (ca : Bool) (z : Bool) : Statement (.vaddi vd va imm m ca z) := rfl
theorem vandi (vd : VReg) (va : VReg) (imm : BitVec 6) (m : MReg) (ca : Bool) (z : Bool) : Statement (.vandi vd va imm m ca z) := rfl
theorem vslli (vd : VReg) (va : VReg) (imm : BitVec 6) (m : MReg) (ca : Bool) (z : Bool) : Statement (.vslli vd va imm m ca z) := rfl
theorem vsrli (vd : VReg) (va : VReg) (imm : BitVec 6) (m : MReg) (ca : Bool) (z : Bool) : Statement (.vsrli vd va imm m ca z) := rfl
theorem vsrai (vd : VReg) (va : VReg) (imm : BitVec 6) (m : MReg) (ca : Bool) (z : Bool) : Statement (.vsrai vd va imm m ca z) := rfl
theorem vslideup (vd : VReg) (va : VReg) (imm : BitVec 6) (m : MReg) (ca : Bool) (z : Bool) : Statement (.vslideup vd va imm m ca z) := rfl
theorem vslidedn (vd : VReg) (va : VReg) (imm : BitVec 6) (m : MReg) (ca : Bool) (z : Bool) : Statement (.vslidedn vd va imm m ca z) := rfl
theorem vring (vd : VReg) (va : VReg) (imm : BitVec 6) (m : MReg) (ca : Bool) (z : Bool) : Statement (.vring vd va imm m ca z) := rfl
theorem vrsum (vd : VReg) (va : VReg) (m : MReg) (ca : Bool) : Statement (.vrsum vd va m ca) := rfl
theorem vrmax (vd : VReg) (va : VReg) (m : MReg) (ca : Bool) : Statement (.vrmax vd va m ca) := rfl
theorem vrmin (vd : VReg) (va : VReg) (m : MReg) (ca : Bool) : Statement (.vrmin vd va m ca) := rfl
theorem vrssq (vd : VReg) (va : VReg) (m : MReg) (ca : Bool) : Statement (.vrssq vd va m ca) := rfl
theorem vsoftmax (vd : VReg) (va : VReg) (m : MReg) (ca : Bool) (z : Bool) : Statement (.vsoftmax vd va m ca z) := rfl
theorem vrnormRms (vd : VReg) (va : VReg) (m : MReg) (ca : Bool) (z : Bool) : Statement (.vrnormRms vd va m ca z) := rfl
theorem vrnormLayer (vd : VReg) (va : VReg) (m : MReg) (ca : Bool) (z : Bool) : Statement (.vrnormLayer vd va m ca z) := rfl
theorem vtmovRow (vd : VReg) (va : VReg) (xi : XReg) (ca : Bool) : Statement (.vtmovRow vd va xi ca) := rfl
theorem vtmovCol (vd : VReg) (va : VReg) (xi : XReg) (ca : Bool) : Statement (.vtmovCol vd va xi ca) := rfl
theorem vsetvl (rd : XReg) (rs1 : XReg) (ew : BitVec 3) : Statement (.vsetvl rd rs1 ew) := rfl
theorem vsettag (v : VReg) (rs1 : XReg) : Statement (.vsettag v rs1) := rfl
theorem vgettag (rd : XReg) (v : VReg) : Statement (.vgettag rd v) := rfl
theorem modeV : Statement (.modeV) := rfl
theorem modeM : Statement (.modeM) := rfl
theorem mand (md : MReg) (ma : MReg) (mb : MReg) : Statement (.mand md ma mb) := rfl
theorem mor (md : MReg) (ma : MReg) (mb : MReg) : Statement (.mor md ma mb) := rfl
theorem mxor (md : MReg) (ma : MReg) (mb : MReg) : Statement (.mxor md ma mb) := rfl
theorem mandn (md : MReg) (ma : MReg) (mb : MReg) : Statement (.mandn md ma mb) := rfl
theorem mpopc (x : XReg) (ma : MReg) : Statement (.mpopc x ma) := rfl
theorem mfirst (x : XReg) (ma : MReg) : Statement (.mfirst x ma) := rfl
theorem mset (md : MReg) : Statement (.mset md) := rfl
theorem vld (v : VReg) (xb : XReg) (ty : BitVec 5) (z : Bool) (m : MReg) : Statement (.vld v xb ty z m) := rfl
theorem vldff (v : VReg) (xb : XReg) (ty : BitVec 5) (z : Bool) (m : MReg) : Statement (.vldff v xb ty z m) := rfl
theorem vldm (v : VReg) (xb : XReg) (ty : BitVec 5) (z : Bool) (m : MReg) : Statement (.vldm v xb ty z m) := rfl
theorem vst (v : VReg) (xb : XReg) (m : MReg) (ca : Bool) : Statement (.vst v xb m ca) := rfl
theorem vstff (v : VReg) (xb : XReg) (m : MReg) (ca : Bool) : Statement (.vstff v xb m ca) := rfl
theorem mma (vc : VReg) (va : VReg) (vb : VReg) (ta : BitVec 4) (tb : BitVec 4) (tacc : BitVec 4) (tres : BitVec 4) (fin : Bool) (half : Bool) (ca : Bool) (cb : Bool) (rnd : BitVec 3) (sat : Bool) : Statement (.mma vc va vb ta tb tacc tres fin half ca cb rnd sat) := rfl
theorem mmaRs (va : VReg) (vb : VReg) (ta : BitVec 4) (tb : BitVec 4) (tacc : BitVec 4) (tres : BitVec 4) (ca : Bool) (cb : Bool) (rnd : BitVec 3) (sat : Bool) : Statement (.mmaRs va vb ta tb tacc tres ca cb rnd sat) := rfl
theorem mmax (vc : VReg) (va : VReg) (vb : VReg) (vsa : VReg) (vsb : VReg) (ta : BitVec 4) (tb : BitVec 4) (tacc : BitVec 4) (tres : BitVec 4) (fin : Bool) (half : Bool) (ca : Bool) (cb : Bool) (rnd : BitVec 3) (sat : Bool) : Statement (.mmax vc va vb vsa vsb ta tb tacc tres fin half ca cb rnd sat) := rfl
theorem mmaxRs (va : VReg) (vb : VReg) (vsa : VReg) (vsb : VReg) (ta : BitVec 4) (tb : BitVec 4) (tacc : BitVec 4) (tres : BitVec 4) (ca : Bool) (cb : Bool) (rnd : BitVec 3) (sat : Bool) : Statement (.mmaxRs va vb vsa vsb ta tb tacc tres ca cb rnd sat) := rfl
theorem mdrain (v : VReg) (xs : XReg) (tres : BitVec 4) (rnd : BitVec 3) : Statement (.mdrain v xs tres rnd) := rfl
theorem mattach (seg : BitVec 2) : Statement (.mattach seg) := rfl
theorem mdetach : Statement (.mdetach) := rfl
theorem mpreload (v : VReg) (xs : XReg) : Statement (.mpreload v xs) := rfl
theorem mzero (tres : BitVec 4) : Statement (.mzero tres) := rfl
theorem mdrainst (xb : XReg) (xstride : XReg) (vi : VReg) (ix : Bool) (m : MReg) (tres : BitVec 4) (rnd : BitVec 3) (sat : Bool) (qos : BitVec 2) : Statement (.mdrainst xb xstride vi ix m tres rnd sat qos) := rfl
theorem vlds (v : VReg) (xb : XReg) (xs : XReg) (ty : BitVec 5) (m : MReg) (ff : Bool) (z : Bool) (qos : BitVec 2) : Statement (.vlds v xb xs ty m ff z qos) := rfl
theorem vldx (v : VReg) (xb : XReg) (vi : VReg) (ty : BitVec 5) (m : MReg) (ca : Bool) (ff : Bool) (z : Bool) (qos : BitVec 2) : Statement (.vldx v xb vi ty m ca ff z qos) := rfl
theorem vsts (v : VReg) (xb : XReg) (xs : XReg) (m : MReg) (ca : Bool) (ff : Bool) (qos : BitVec 2) : Statement (.vsts v xb xs m ca ff qos) := rfl
theorem vstx (v : VReg) (xb : XReg) (vi : VReg) (m : MReg) (ca : Bool) (ff : Bool) (qos : BitVec 2) : Statement (.vstx v xb vi m ca ff qos) := rfl
theorem vamoAdd (v : VReg) (xb : XReg) (vi : VReg) (ty : BitVec 5) (m : MReg) (ca : Bool) (z : Bool) (qos : BitVec 2) (ord : BitVec 2) (scope : BitVec 3) : Statement (.vamoAdd v xb vi ty m ca z qos ord scope) := rfl
theorem vamoMin (v : VReg) (xb : XReg) (vi : VReg) (ty : BitVec 5) (m : MReg) (ca : Bool) (z : Bool) (qos : BitVec 2) (ord : BitVec 2) (scope : BitVec 3) : Statement (.vamoMin v xb vi ty m ca z qos ord scope) := rfl
theorem vamoMax (v : VReg) (xb : XReg) (vi : VReg) (ty : BitVec 5) (m : MReg) (ca : Bool) (z : Bool) (qos : BitVec 2) (ord : BitVec 2) (scope : BitVec 3) : Statement (.vamoMax v xb vi ty m ca z qos ord scope) := rfl
theorem vamoSwap (v : VReg) (xb : XReg) (vi : VReg) (ty : BitVec 5) (m : MReg) (ca : Bool) (z : Bool) (qos : BitVec 2) (ord : BitVec 2) (scope : BitVec 3) : Statement (.vamoSwap v xb vi ty m ca z qos ord scope) := rfl
theorem vappend (va : VReg) (xq : XReg) (m : MReg) (rnd : BitVec 3) (sat : Bool) (qos : BitVec 2) : Statement (.vappend va xq m rnd sat qos) := rfl
theorem vappendIdx (xq : XReg) (m : MReg) (rnd : BitVec 3) (sat : Bool) (qos : BitVec 2) : Statement (.vappendIdx xq m rnd sat qos) := rfl
theorem vscatr (va : VReg) (vb : VReg) (ty : BitVec 5) (m : MReg) (rnd : BitVec 3) (sat : Bool) (qos : BitVec 2) : Statement (.vscatr va vb ty m rnd sat qos) := rfl
theorem vroute (vd : VReg) (va : VReg) (vb : VReg) (m : MReg) (qos : BitVec 2) : Statement (.vroute vd va vb m qos) := rfl
theorem vmxq (vd : VReg) (vs : VReg) (va : VReg) (ty : BitVec 5) (m : MReg) (rnd : BitVec 3) (sat : Bool) (qos : BitVec 2) : Statement (.vmxq vd vs va ty m rnd sat qos) := rfl
theorem strm (h : BitVec 5) (xa : XReg) (xb : XReg) (xc : XReg) (ty : BitVec 5) (mk : MReg) (qos : BitVec 2) (ix : Bool) (vi : VReg) (ev : Bool) : Statement (.strm h xa xb xc ty mk qos ix vi ev) := rfl
theorem strmw (h : BitVec 5) (xa : XReg) (xb : XReg) (xc : XReg) (ty : BitVec 5) (mk : MReg) (qos : BitVec 2) (ix : Bool) (vi : VReg) (ev : Bool) : Statement (.strmw h xa xb xc ty mk qos ix vi ev) := rfl
theorem hwait (xa : XReg) (h : BitVec 5) (target : BitVec 5) : Statement (.hwait xa h target) := rfl
theorem hstate (xa : XReg) (h : BitVec 5) : Statement (.hstate xa h) := rfl
theorem hfree (h : BitVec 5) : Statement (.hfree h) := rfl
theorem xcopy (q : BitVec 5) (xa : XReg) (xb : XReg) (xc : XReg) (ty : BitVec 5) (qos : BitVec 2) (ev : Bool) : Statement (.xcopy q xa xb xc ty qos ev) := rfl
theorem gstream (v : VReg) (xb : XReg) (mask : BitVec 8) (code : BitVec 3) (ty : BitVec 5) : Statement (.gstream v xb mask code ty) := rfl
theorem gbcast (v : VReg) (member : BitVec 6) (mask : BitVec 8) (code : BitVec 3) (ty : BitVec 5) : Statement (.gbcast v member mask code ty) := rfl
theorem scntadd (xd : XReg) (xh : XReg) (xv : XReg) (sys : Bool) : Statement (.scntadd xd xh xv sys) := rfl
theorem scntrd (xd : XReg) (xh : XReg) (sys : Bool) : Statement (.scntrd xd xh sys) := rfl
theorem scntwait (xd : XReg) (xh : XReg) (xv : XReg) (sys : Bool) : Statement (.scntwait xd xh xv sys) := rfl
theorem sbararr (xd : XReg) (xh : XReg) (sys : Bool) : Statement (.sbararr xd xh sys) := rfl
theorem sbarwait (xd : XReg) (xh : XReg) (xv : XReg) (sys : Bool) : Statement (.sbarwait xd xh xv sys) := rfl
theorem ssemacq (xd : XReg) (xh : XReg) (xv : XReg) (sys : Bool) : Statement (.ssemacq xd xh xv sys) := rfl
theorem ssemrel (xd : XReg) (xh : XReg) (xv : XReg) (sys : Bool) : Statement (.ssemrel xd xh xv sys) := rfl
theorem sredadd (xd : XReg) (xh : XReg) (xv : XReg) (ty : BitVec 3) (sys : Bool) : Statement (.sredadd xd xh xv ty sys) := rfl
theorem sredget (xd : XReg) (xh : XReg) (xv : XReg) (ty : BitVec 3) (sys : Bool) : Statement (.sredget xd xh xv ty sys) := rfl
theorem scalarIssue (core : Nat) : Statement (.scalarIssue core) := rfl
theorem vectorDecode (hart : Nat) (unit : Nat) (groups : Nat) (writes : Nat) (masks : Nat) (srcs : List (Nat × Bool)) (skipped : List Nat) : Statement (.vectorDecode hart unit groups writes masks srcs skipped) := rfl
theorem microOpIssue (core : Nat) (unit : Nat) : Statement (.microOpIssue core unit) := rfl
theorem microOpPromotion (core : Nat) (unit : Nat) : Statement (.microOpPromotion core unit) := rfl
theorem groupAvailable (core : Nat) (age : Nat) (group : Nat) : Statement (.groupAvailable core age group) := rfl
theorem modeSwitch (hart : Nat) : Statement (.modeSwitch hart) := rfl
theorem grantChange (hart : Nat) : Statement (.grantChange hart) := rfl
theorem haltComplete (hart : Nat) : Statement (.haltComplete hart) := rfl
theorem fenceComplete (hart : Nat) : Statement (.fenceComplete hart) := rfl
theorem vlsyncComplete (hart : Nat) : Statement (.vlsyncComplete hart) := rfl
theorem accessPerformed (k : Nat) : Statement (.accessPerformed k) := rfl
theorem loadValueBound (k : Nat) : Statement (.loadValueBound k) := rfl
theorem storeAcknowledge (k : Nat) : Statement (.storeAcknowledge k) := rfl
theorem tagConfirm (k : Nat) : Statement (.tagConfirm k) := rfl
theorem scntwaitSatisfied (hart : Nat) : Statement (.scntwaitSatisfied hart) := rfl
theorem sbarwaitRelease (hart : Nat) : Statement (.sbarwaitRelease hart) := rfl
theorem ssemacqGrant (sem : Nat) : Statement (.ssemacqGrant sem) := rfl
theorem sredgetSatisfied (hart : Nat) : Statement (.sredgetSatisfied hart) := rfl
theorem hwaitWake (hart : Nat) : Statement (.hwaitWake hart) := rfl
theorem evwaitWake (hart : Nat) : Statement (.evwaitWake hart) := rfl
theorem eventStallRelease (hart : Nat) : Statement (.eventStallRelease hart) := rfl
theorem chunkDone (hart : Nat) (h : Nat) (c : Nat) : Statement (.chunkDone hart h c) := rfl
theorem strmComplete (hart : Nat) (h : Nat) : Statement (.strmComplete hart h) := rfl
theorem strmwComplete (hart : Nat) (h : Nat) : Statement (.strmwComplete hart h) := rfl
theorem streamEngineRequest (core : Nat) : Statement (.streamEngineRequest core) := rfl
theorem xcopyPost (hart : Nat) : Statement (.xcopyPost hart) := rfl
theorem copyExecute (die : Nat) (cq : Nat) : Statement (.copyExecute die cq) := rfl
theorem copyComplete (die : Nat) (cq : Nat) : Statement (.copyComplete die cq) := rfl
theorem vappendClaim (hart : Nat) : Statement (.vappendClaim hart) := rfl
theorem vappendCommit (k : Nat) : Statement (.vappendCommit k) := rfl
theorem trainArrival (k : Nat) : Statement (.trainArrival k) := rfl
theorem trainAcknowledge (k : Nat) : Statement (.trainAcknowledge k) := rfl
theorem trainRedirect (k : Nat) : Statement (.trainRedirect k) := rfl
theorem gangStripLand (hart : Nat) (n : Nat) : Statement (.gangStripLand hart n) := rfl
theorem genbumpAck (asid : Nat) (core : Nat) : Statement (.genbumpAck asid core) := rfl
theorem hostPush (q : Nat) (off : Nat) (bytes : List (BitVec 8)) : Statement (.hostPush q off bytes) := rfl
theorem heldPushAccept : Statement (.heldPushAccept) := rfl
theorem hostPushTimeout : Statement (.hostPushTimeout) := rfl
theorem select : Statement (.select) := rfl
theorem selectionTimeout : Statement (.selectionTimeout) := rfl
theorem bindGang (choice : List Nat) : Statement (.bindGang choice) := rfl
theorem gangComplete (gang : Nat) : Statement (.gangComplete gang) := rfl
theorem preemptreq (hart : Nat) : Statement (.preemptreq hart) := rfl
theorem laneReclaimDeadline (hart : Nat) : Statement (.laneReclaimDeadline hart) := rfl
theorem preempt (hart : Nat) : Statement (.preempt hart) := rfl
theorem settleWindow (hart : Nat) : Statement (.settleWindow hart) := rfl
theorem recordFrozen (hart : Nat) : Statement (.recordFrozen hart) := rfl
theorem uncorrectableError (ctx : Nat) (source : Nat) (pa : Word) : Statement (.uncorrectableError ctx source pa) := rfl
theorem killedWrite (ctx : Nat) : Statement (.killedWrite ctx) := rfl
theorem noticeDelivery : Statement (.noticeDelivery) := rfl
theorem trvresetBarrier (i : Nat) : Statement (.trvresetBarrier i) := rfl
theorem trvresetSemaphore (i : Nat) (v : BitVec 32) : Statement (.trvresetSemaphore i v) := rfl
theorem trvsetCounter (i : Nat) : Statement (.trvsetCounter i) := rfl
theorem trvsetBarrier (i : Nat) (n : Nat) : Statement (.trvsetBarrier i n) := rfl
theorem trvsetSemaphore (i : Nat) : Statement (.trvsetSemaphore i) := rfl
theorem trvsetCell (i : Nat) (n : Nat) (ty : Nat) : Statement (.trvsetCell i n ty) := rfl
theorem registerWrite (off : Nat) (val : Word) : Statement (.registerWrite off val) := rfl
theorem hostCxlMemAccess (pa : Nat) (len : Nat) (write : Bool) (bytes : List (BitVec 8)) : Statement (.hostCxlMemAccess pa len write bytes) := rfl
theorem flitArrival (die : Nat) (stop : Nat) (net : Nat) (input : Nat) (vc : Nat) (out : Nat) : Statement (.flitArrival die stop net input vc out) := rfl
theorem outputPortGrant (die : Nat) (stop : Nat) (net : Nat) (out : Nat) : Statement (.outputPortGrant die stop net out) := rfl
theorem flitPromotion (die : Nat) (stop : Nat) (net : Nat) (out : Nat) : Statement (.flitPromotion die stop net out) := rfl
theorem nocarb (die : Nat) (val : Word) : Statement (.nocarb die val) := rfl
theorem nocarbApply (die : Nat) : Statement (.nocarbApply die) := rfl
theorem migrationGo (slot : Nat) : Statement (.migrationGo slot) := rfl
theorem migrationClear (slot : Nat) : Statement (.migrationClear slot) := rfl
theorem migrationLineCopy (slot : Nat) (err : Bool) : Statement (.migrationLineCopy slot err) := rfl
theorem ladleIntervalEnd : Statement (.ladleIntervalEnd) := rfl
theorem inflightMessage (k : Nat) : Statement (.inflightMessage k) := rfl
theorem replicate (e : Nat) (die : Nat) : Statement (.replicate e die) := rfl
theorem replicationVerify (err : Nat) : Statement (.replicationVerify err) := rfl
theorem switchApply (die : Nat) : Statement (.switchApply die) := rfl
theorem switchAck (die : Nat) : Statement (.switchAck die) := rfl
theorem switchAckTimeout (die : Nat) : Statement (.switchAckTimeout die) := rfl
theorem retire (e : Nat) (k : Nat) : Statement (.retire e k) := rfl
theorem drainEnd : Statement (.drainEnd) := rfl
theorem wipe : Statement (.wipe) := rfl
theorem merge : Statement (.merge) := rfl
theorem hold (e : Nat) : Statement (.hold e) := rfl
theorem unhold (e : Nat) : Statement (.unhold e) := rfl
theorem reclaim (e : Nat) (k : Nat) : Statement (.reclaim e k) := rfl
theorem rejoin (die : Nat) : Statement (.rejoin die) := rfl
theorem forcedrain (e : Nat) (k : Nat) : Statement (.forcedrain e k) := rfl
theorem publish : Statement (.publish) := rfl
theorem coldReset : Statement (.coldReset) := rfl
theorem warmReset : Statement (.warmReset) := rfl
theorem bootStage (image : List (BitVec 8)) : Statement (.bootStage image) := rfl
theorem zeroFillComplete : Statement (.zeroFillComplete) := rfl
theorem lcreqProvisioned : Statement (.lcreqProvisioned) := rfl
theorem lcreqDeployed : Statement (.lcreqDeployed) := rfl
theorem lcreqRma : Statement (.lcreqRma) := rfl
theorem lcreqDecommissioned : Statement (.lcreqDecommissioned) := rfl
theorem getVersion : Statement (.getVersion) := rfl
theorem getCapabilities : Statement (.getCapabilities) := rfl
theorem negotiateAlgorithms : Statement (.negotiateAlgorithms) := rfl
theorem getDigests : Statement (.getDigests) := rfl
theorem getCertificate (off : Nat) (len : Nat) : Statement (.getCertificate off len) := rfl
theorem challenge (nonce : BitVec 256) : Statement (.challenge nonce) := rfl
theorem getMeasurements (index : Nat) : Statement (.getMeasurements index) := rfl
theorem routeWrite (p : Nat) (val : Word) : Statement (.routeWrite p val) := rfl
theorem fabricTimeout (ctx : Nat) (pa : Word) : Statement (.fabricTimeout ctx pa) := rfl
theorem nsfailChange (die : Nat) (v : Bool) : Statement (.nsfailChange die v) := rfl
theorem memoryRequest (stack : Nat) (kind : Nat) (source : Nat) (pch : Nat) (bank : Nat) (row : Nat) (write : Bool) (line : Nat) : Statement (.memoryRequest stack kind source pch bank row write line) := rfl
theorem batchFormation (stack : Nat) : Statement (.batchFormation stack) := rfl
theorem bankCommandSlot (stack : Nat) (pch : Nat) (bank : Nat) : Statement (.bankCommandSlot stack pch bank) := rfl
theorem minorOverflowEnd (page : Nat) : Statement (.minorOverflowEnd page) := rfl
theorem nimbusPatrolLine (found : Nat × Nat) : Statement (.nimbusPatrolLine found) := rfl
theorem rotate : Statement (.rotate) := rfl
theorem unitMapOut (cls : Nat) (die : Nat) (index : Nat) : Statement (.unitMapOut cls die index) := rfl
theorem dierst (die : Nat) : Statement (.dierst die) := rfl
theorem dieDrainEnd (die : Nat) : Statement (.dieDrainEnd die) := rfl
theorem dieResetComplete (die : Nat) : Statement (.dieResetComplete die) := rfl
theorem powerEvaluation (readings : List (Nat × Nat)) : Statement (.powerEvaluation readings) := rfl
theorem zeroFillLine : Statement (.zeroFillLine) := rfl
theorem linkTrained (link : Nat) (up : Bool) : Statement (.linkTrained link up) := rfl
theorem fabricAccess (pa : Nat) (len : Nat) (write : Bool) (bytes : List (BitVec 8)) : Statement (.fabricAccess pa len write bytes) := rfl

end Sys2Proof.Laws.Encoding
end

