-- ==== Sys2Proof/Tests/Slice0.lean ====
section
/-! SUPPORT. Tests: ill-formed terms that the check refuses, words written out from the manual's encodings, single steps with results taken from the
manual's examples, and, for every statement with hypotheses, a concrete state that meets them. -/

namespace Sys2Proof.Tests

set_option Elab.async false

open Sys2Proof.Machine Sys2Proof.Claim

/-! ### Ill-formed terms -/

/-- A width code above 4 (R149, R125). -/
theorem test_illFormed_widths : ∀ i ∈ [Instr.clz 5 6 5, .ctz 5 6 6, .popc 5 6 7, .sext 5 6 5, .zext 5 6 5, .ldacq 5 6 5 0, .strel 5 6 5 0, .vsetvl 5 6 5],
    i.wellFormed = false := by decide

/-- The reserved rounding code 7 (R121). -/
theorem test_illFormed_rounding : ∀ i ∈ [Instr.fadd 5 6 7 true 7, .fsub 5 6 7 true 7, .fmul 5 6 7 true 7, .fdiv 5 6 7 true 7, .fsqrt 5 6 true 7, .fcvt 5 6 0 true 7 true,
    .ffma 5 6 7 8 true 7, .mma 1 2 3 0 0 0 0 false false true true 7 false, .mmaRs 2 3 0 0 0 0 true true 7 false, .mmax 1 2 3 4 5 0 0 0 0 false false true true 7 false,
    .mmaxRs 2 3 4 5 0 0 0 0 true true 7 false, .mdrain 1 2 0 7, .mdrainst 10 0 0 true 0 0 7 false 0, .vappend 1 10 0 7 false 0, .vappendIdx 10 0 7 false 0,
    .vscatr 1 2 0 0 7 false 0, .vmxq 1 2 3 8 0 7 false 0], i.wellFormed = false := by decide

/-- A scope code above 4, an empty FENCE set, the reserved cache level 3, a wait target above 3 and a cell type above 2. -/
theorem test_illFormed_codes : ∀ i ∈ [Instr.ldacq 5 6 4 5, .strel 5 6 4 7, .amoAdd 5 6 7 0 5, .amoAnd 5 6 7 0 5, .amoOr 5 6 7 0 5, .amoXor 5 6 7 0 5, .amoMin 5 6 7 0 5,
    .amoMax 5 6 7 0 5, .amoSwap 5 6 7 0 6, .amoCas 5 6 7 0 7, .fence 5 1, .fence 3 0, .prefetch 5 6 3, .pin 5 6 3, .unpin 5 6 3,
    .vamoAdd 1 10 2 0 0 true false 0 0 5, .vamoMin 1 10 2 0 0 true false 0 0 5, .vamoMax 1 10 2 0 0 true false 0 0 6, .vamoSwap 1 10 2 0 0 true false 0 0 7,
    .hwait 5 0 4, .sredadd 5 6 7 3 false, .sredget 5 6 7 7 false], i.wellFormed = false := by decide

/-- A field that must be zero beside the operand that replaces it. -/
theorem test_illFormed_operands : ∀ i ∈ [Instr.mdrainst 10 11 1 true 0 0 0 false 0, .mdrainst 10 11 1 false 0 0 0 false 0, .strm 0 10 11 12 0 0 0 true 1 false,
    .strm 0 10 11 12 0 0 0 false 1 false, .strmw 0 10 11 12 0 0 0 true 1 false, .strmw 0 10 11 12 0 0 0 false 1 false, .vbcast 1 5 true 0 false, .vmvx 5 1 6 true false, .vxmv 1 5 6 true], i.wellFormed = false := by decide

/-- Device steps of units that the package does not have: core 512, hart 2,048, die 8, stop 16, stack 16, slot 64, queue 64, expert 4,096, context 4,096. -/
theorem test_illFormed_units :
    (∀ i ∈ [Instr.scalarIssue 512, .microOpIssue 512 0, .microOpPromotion 512 0, .groupAvailable 512 0 0, .streamEngineRequest 512, .genbumpAck 0 512], i.wellFormed = false) ∧
    (∀ i ∈ [Instr.vectorDecode 2048 0 0 0 0 [] [], .modeSwitch 2048, .grantChange 2048, .haltComplete 2048, .fenceComplete 2048, .vlsyncComplete 2048, .scntwaitSatisfied 2048,
      .sbarwaitRelease 2048, .sredgetSatisfied 2048, .hwaitWake 2048, .evwaitWake 2048, .eventStallRelease 2048, .chunkDone 2048 0 0, .strmComplete 2048 0, .strmwComplete 2048 0,
      .xcopyPost 2048, .vappendClaim 2048, .gangStripLand 2048 0, .preemptreq 2048, .laneReclaimDeadline 2048, .preempt 2048, .settleWindow 2048, .recordFrozen 2048],
      i.wellFormed = false) ∧
    (∀ i ∈ [Instr.copyExecute 8 0, .copyComplete 8 0, .flitArrival 8 0 0 0 0 0, .outputPortGrant 0 16 0 0, .flitPromotion 8 0 0 0, .nocarb 8 0, .nocarbApply 8, .replicate 0 8,
      .switchApply 8, .switchAck 8, .switchAckTimeout 8, .rejoin 8, .nsfailChange 8 true, .unitMapOut 0 8 0, .dierst 8, .dieDrainEnd 8, .dieResetComplete 8], i.wellFormed = false) ∧
    (∀ i ∈ [Instr.hostPush 64 0 [], .uncorrectableError 4096 6 0, .killedWrite 4096, .fabricTimeout 4096 0, .migrationGo 64, .migrationClear 64, .migrationLineCopy 64 false,
      .retire 4096 1, .hold 4096, .unhold 4096, .reclaim 4096 1, .forcedrain 4096 1, .memoryRequest 16 0 0 0 0 0 false 0, .batchFormation 16, .bankCommandSlot 16 0 0],
      i.wellFormed = false) := by decide

/-- The last unit of each kind is well formed, and so is the last allowed code. -/
theorem test_wellFormed_boundaries : ∀ i ∈ [Instr.clz 5 6 4, .fadd 5 6 7 true 6, .amoCas 5 6 7 3 4, .fence 4 7, .pin 5 6 2, .hwait 5 31 3, .sredget 5 6 7 2 false, .scalarIssue 511,
    .haltComplete 2047, .dierst 7, .outputPortGrant 7 15 1 5, .hostPush 63 0 [], .migrationGo 63, .batchFormation 15], i.wellFormed = true := by decide

/-! ### Words written out from the encodings -/

/-- The worked encodings of the manual. -/
theorem test_decode_worked : decodeTableWord 32 0xFFF0C510 = some (.addi 5 6 0x3FFC) ∧ decodeTableWord 32 0x68204380 = some (.vadd 3 1 2 2 true true false) ∧
    decodeTableWord 32 0x06D40060 = some (.fence 3 3) ∧ decodeTableWord 64 0x0000600045012803 = some (.mma 40 4 16 1 1 0 0 false false true true 0 false) ∧
    decodeTableWord 32 0x00000010 = some (.addi 0 0 0) := by decide

/-- MAJ 0x01 to 0x03, 0x08 to 0x0F and 0x10 on: scalar arithmetic. -/
theorem test_decode_scalar : decodeTableWord 32 0x099CC502 = some (.div 5 6 7) ∧ decodeTableWord 32 0x191CC506 = some (.fmul 5 6 7 true 1) ∧
    decodeTableWord 32 0x1440C506 = some (.fcvt 5 6 16 false 1 false) := by decide

/-- Loads, atomics, cache control, the control registers, the SYS group, LAUNCH and the supervisor group. -/
theorem test_decode_system : decodeTableWord 32 0x0020C538 = some (.ldI32 5 6 8) ∧ decodeTableWord 32 0x7B99454A = some (.amoCas 5 10 6 3 3) ∧
    decodeTableWord 32 0x0015414C = some (.pin 5 10 0) ∧ decodeTableWord 32 0x00200564 = some (.csrrs 5 0 0x008) ∧ decodeTableWord 32 0x000C0060 = some .halt ∧
    decodeTableWord 32 0x002D456A = some (.launch 5 10 11) ∧ decodeTableWord 32 0x031CC568 = some (.lanecap 5 6 7) ∧ decodeTableWord 32 0x00000568 = some (.ifrsave 5) ∧
    decodeTableWord 32 0x00800568 = some (.ifrload 5) ∧ decodeTableWord 32 0x01000568 = some (.ifrreplay 5) ∧ decodeTableWord 32 0x01800568 = some (.ctxsavev 5) ∧
    decodeTableWord 32 0x02000568 = some (.ctxloadv 5) := by decide

/-- Vector arithmetic, scalar forms, compares, permutes, conversions, rows and special functions. -/
theorem test_decode_vector : decodeTableWord 32 0x60A2488A = some (.vfma 8 9 10 0 true true false) ∧ decodeTableWord 32 0xA8204380 = some (.vadd 3 1 2 2 true false true) ∧
    decodeTableWord 32 0x207082C8 = some (.vminX 2 2 7 false 0 true false) ∧ decodeTableWord 32 0x602053A4 = some (.vcmp 3 2 1 2 0 true true false) ∧
    decodeTableWord 32 0x203084EA = some (.vslideup 4 2 3 0 true false) ∧ decodeTableWord 32 0x203083B2 = some (.vcvt 3 2 3 false 0 true false) ∧
    decodeTableWord 32 0x223083B2 = some (.vcvt 3 2 3 true 0 true false) ∧ decodeTableWord 32 0x2040C4B0 = some (.vreshuf 4 3 0 true false) ∧
    decodeTableWord 32 0x200106F0 = some (.vrsum 6 4 0 true) ∧ decodeTableWord 32 0x605107F0 = some (.vrnormLayer 7 4 0 true false) ∧
    decodeTableWord 32 0x002009BE = some (.vrngF32 9 0 false) ∧ decodeTableWord 32 0x201105B4 = some (.vsf 5 4 1 0 true false) := by decide

/-- The vector control group, the mask group and the 32-bit vector memory forms. -/
theorem test_decode_control : decodeTableWord 32 0x000905F4 = some (.vsetvl 5 8 2) ∧ decodeTableWord 32 0x006400F4 = some .modeM ∧ decodeTableWord 32 0x0620C0F4 = some (.vsettag 3 6) ∧
    decodeTableWord 32 0x00008BF6 = some (.mand 3 1 2) ∧ decodeTableWord 32 0x040A82F8 = some (.vld 2 10 1 false 1) ∧ decodeTableWord 32 0x200282FA = some (.vst 2 10 0 true) := by decide

/-- The 64-bit words: matrix, strided and indexed memory, atomics, queues, engines, gangs and SYNC. -/
theorem test_decode_long : decodeTableWord 64 0x00C2E001DD012805 = some (.mmax 40 4 16 5 6 7 7 0 0 false false true true 0 false) ∧
    decodeTableWord 64 0x0000000002015407 = some (.mdrain 20 5 1 0) ∧ decodeTableWord 64 0x16200007 = some (.mzero 11) ∧
    decodeTableWord 64 0x0B028221 = some (.vlds 2 10 11 0 0 false false 0) ∧ decodeTableWord 64 0x3C0207828329 = some (.vamoAdd 3 10 7 16 0 true false 0 3 3) ∧
    decodeTableWord 64 0x1B010002B = some (.vappendIdx 12 3 0 false 0) ∧ decodeTableWord 64 0x200430300A41 = some (.strm 3 10 0 12 0 2 0 false 0 true) ∧
    decodeTableWord 64 0x200038B98A47 = some (.xcopy 3 10 12 14 17 0 true) ∧ decodeTableWord 64 0x407A8649 = some (.gstream 6 10 15 0 1) ∧
    decodeTableWord 64 0x1CC561 = some (.scntadd 5 6 7 false) := by decide

/-- Reserved codes and reserved fields decode to nothing: an unassigned S3 function, rounding code 7, HALT with a register field, the word 0. -/
theorem test_decode_reserved : decodeTableWord 32 (0x02 + 23 * 2 ^ 23) = none ∧ decodeTableWord 32 (0x06 + 7 * 2 ^ 28) = none ∧ decodeTableWord 32 0x000C0160 = none ∧
    decodeTableWord 32 0x00000000 = none := by decide

/-! ### Single steps -/

/-- A bound application hart with a full grant and vl elements of the width code ew, on core 0 of die 0, with values in its x registers. -/
def app (vl : Word) (ew : BitVec 3) (l : List (XReg × Word)) : State :=
  l.foldl (fun s p => s.wx p.1 p.2) ((State.reset.boundAt []).onHart fun h => { h with csr := { h.csr with vl := vl }, vec := { h.vec with ew := ew } })

/-- The same hart at supervisor level. -/
def sup (l : List (XReg × Word)) : State :=
  l.foldl (fun s p => s.wx p.1 p.2) ((State.reset.boundAt []).onHart fun h => { h with level := .sup, sup := { h.sup with trapvec := 0x4000, ctxid := 7 } })

/-- A vector register with a tag and elements from a list. -/
def withV (s : State) (v : VReg) (tag : BitVec 8) (l : List Nat) : State := s.onHart fun h => h.setVec v tag (packElems tag h.ebits l)

/-- The state a next outcome holds. -/
def result (o : Out) : State := match o with
  | .next t => t
  | _ => State.reset

/-- The state after an instruction. -/
def after (i : Instr) (s : State) : State := result (exec i s)

/-- The first n elements of a register as its tag reads them. -/
def elems (s : State) (v : VReg) (n : Nat) : List Nat := (List.range n).map fun k => s.hart.elem v k

/-- A step runs the word placed at the pc as the first instruction after reset. -/
theorem test_step_runs_word : (result (step (State.reset.withFetchWord 32 0xFFF0C510))).rx 5 = 0xFFFFFFFFFFFFFFFC := by decide

/-- A word that decodes to nothing traps with ILLEGAL_INSTRUCTION and the word in TRAPVAL. -/
theorem test_step_illegal_word : (result (step (State.reset.withFetchWord 32 0))).hart.sup.trapcause = 1 := by decide

/-- R148's example: −7 DIV 2 is −3 and −7 REM 2 is −1. -/
theorem test_div : (after (.div 5 6 7) (app 0 3 [(6, -7), (7, 2)])).rx 5 = -3 ∧ (after (.rem 5 6 7) (app 0 3 [(6, -7), (7, 2)])).rx 5 = -1 := by decide

/-- R148's example: 5 DIVN 0 is all ones and 5 REMN 0 is 5. -/
theorem test_divn_zero : (after (.divn 5 6 0) (app 0 3 [(6, 5)])).rx 5 = 0xFFFFFFFFFFFFFFFF ∧ (after (.remn 5 6 0) (app 0 3 [(6, 5)])).rx 5 = 5 := by decide

/-- R149's example: clz.e32 of 0x0001_0000 is 15. -/
theorem test_clz : (after (.clz 5 6 3) (app 0 3 [(6, 0x10000)])).rx 5 = 15 := by decide

/-- R150's example: LIH of 0x3_FFFF is 0xFFFF_C000 and of 0x4_0000 is −2^32. -/
theorem test_lih : (after (.lih 5 0x3FFFF) (app 0 3 [])).rx 5 = 0xFFFFC000 ∧ (after (.lih 5 0x40000) (app 0 3 [])).rx 5 = 0xFFFFFFFF00000000 := by decide

/-- R153's example: fcvt.i64.f32.rtz of 0xC0D0_0000 (−6.5) writes −6 and sets NX. -/
theorem test_fcvt : let t := after (.fcvt 5 6 16 false 1 false) (app 0 3 [(6, 0xC0D00000)])
    t.rx 5 = -6 ∧ t.hart.csr.fflags = fNX := by decide

/-- 1.0 + 2.0 is 3.0 in F32, exactly; 0 / 0 is NaN with NV. -/
theorem test_fadd : (after (.fadd 5 6 7 false 0) (app 0 3 [(6, 0x3F800000), (7, 0x40000000)])).rx 5 = 0x40400000 ∧
    (after (.fdiv 5 6 7 false 0) (app 0 3 [])).hart.csr.fflags = fNV := by decide

/-- R74's example: with a = 1 + 2^-23, b = 1 - 2^-23 and c = -1 the fused result is -2^-46. -/
theorem test_ffma : (after (.ffma 5 6 7 8 false 0) (app 0 3 [(6, 0x3F800001), (7, 0x3F7FFFFE), (8, 0xBF800000)])).rx 5 = 0xA8800000 := by decide

/-- A taken branch goes to pc + 4·off14, one not taken to pc + 4. -/
theorem test_branch : (after (.blt 6 7 0x3FFF) (app 0 3 [(6, -1)])).hart.pc = 0xFF7FFFFFFFFFFFFC ∧ (after (.bltn 6 7 0x3FFF) (app 0 3 [(6, -1)])).hart.pc = 0xFF80000000000004 := by decide

/-- A JALR to an address that is no multiple of 4 traps and writes no link. -/
theorem test_jalr_misaligned : let t := after (.jalr 5 6 2) (app 0 3 [(6, 0x1000)])
    t.hart.sup.trapcause = 0x203 ∧ t.hart.sup.trapval = 0x1002 ∧ t.hart.x.get 5 = 0 := by decide

/-- ECALL copies application x8 to x15 and saves its pc; the level becomes supervisor. -/
theorem test_ecall : let t := after .ecall (app 0 3 [(8, 17), (16, 4)])
    t.hart.level = .sup ∧ t.hart.sup.trapcause = 9 ∧ t.hart.sup.trappc = 0xFF80000000000000 ∧ t.hart.sx.get 8 = 17 ∧ t.hart.sx.get 16 = 0 := by decide

/-- A store and a load of the scratchpad at offset 0x100: the low byte comes first. -/
theorem test_store_load : let t := after (.st32 7 6 0x100) (app 0 3 [(6, 0xFF80000000000000), (7, 0x80C1C2C3)])
    Memory.byte t.mem (locVsp 0 0 0x100) = 0xC3 ∧ (after (.ldI32 5 6 0x100) t).rx 5 = 0xFFFFFFFF80C1C2C3 ∧ (after (.ldN8 5 6 0x103) t).rx 5 = 0x80 := by decide

/-- R159's example: a CAS that finds the old word stores the new one and returns the old one. -/
theorem test_amoCas : let s := after (.st64 5 6 0x100) (app 0 3 [(6, 0xFF80000000000000), (5, 0x0003000000000100)])
    let t := after (.amoCas 5 6 7 3 3) (s.wx 7 0x0004000000000200 |>.wx 6 0xFF80000000000100)
    t.rx 5 = 0x0003000000000100 ∧ Memory.num t.mem (locVsp 0 0 0x100) 8 = 0x0004000000000200 := by decide

/-- A control register is read before it is written, and FRM takes 0 for a reserved code. -/
theorem test_csrrw : let t := after (.csrrw 5 6 7) (after (.csrrw 0 6 7) (app 0 3 [(6, 3)]) |>.wx 6 6)
    t.rx 5 = 3 ∧ t.hart.csr.frm = 0 := by decide

/-- R197's example: I8 VADDS of 100 and 100 gives 127 and sets SAT, VADD gives −56. -/
theorem test_vadds : let s := withV (withV (app 1 1 []) 1 0x08 [100]) 2 0x08 [100]
    elems (after (.vadds 3 1 2 0 true true false) s) 3 1 = [127] ∧ (after (.vadds 3 1 2 0 true true false) s).hart.csr.fflags = fSAT ∧
      elems (after (.vadd 3 1 2 0 true true false) s) 3 1 = [200] := by decide +kernel

/-- R202's example: VL = 10 and m1 = 0b0110_0000_0000: MPOPC gives 1 and MFIRST gives 9. -/
theorem test_mpopc : let s := (app 10 1 []).onHart fun h => { h with vec := { h.vec with m := h.vec.m.set 1 0x600 } }
    (after (.mpopc 5 1) s).rx 5 = 1 ∧ (after (.mfirst 5 1) s).rx 5 = 9 := by decide +kernel

/-- R187's example, on a full grant: VL is the smaller of 5,000 and VLMAX = 2,048. -/
theorem test_vsetvl : (after (.vsetvl 5 8 2) (app 0 3 [(8, 5000)])).rx 5 = 2048 := by decide

/-- R209's example: an N8 index of 7 selects entry 7 of a BF16 table. -/
theorem test_vperm : elems (after (.vperm 3 1 2 0 true true false) (withV (withV (app 2 1 []) 1 0x01 [10, 11, 12, 13, 14, 15, 16, 17]) 2 0x09 [7, 0])) 3 2 = [17, 10] := by decide +kernel

/-- R290's example: a counter holds 7; SCNTADD of 3 answers 7 and leaves 10. -/
theorem test_scntadd : let s := { app 0 3 [(6, 0), (7, 3)] with trivet := { counters := [(0, 7)], sems := [], barriers := [], cells := [], trvdata := 0 } }
    let s := s.onHart fun h => { h with sup := { h.sup with syncbase := 0 } }
    (s.syncElemOf kCounter 0).isSome = true → (after (.scntadd 5 6 7 false) s).rx 5 = 7 := by decide

/-- R265's example (type 8, MXI8 is code 15): the BF16 block 3.0, 1.0, −2.5 quantises to 96, 32, −80 under the scale 128. -/
theorem test_vmxq : let t := after (.vmxq 3 4 1 15 0 0 false 0) (withV (app 3 2 []) 1 0x01 [0x4040, 0x3F80, 0xC020])
    elems t 3 3 = [96, 32, 176] ∧ elems t 4 1 = [128] := by decide +kernel

/-- R248's example: exp2 of 0.5 is 0x3FB5_04F3 with NX (in the EXACT mode of SFMODE). -/
theorem test_vsf : let t := after (.vsf 5 4 0 0 true false) ((withV (app 1 3 []) 4 0x00 [0x3F000000]).onHart fun h => { h with csr := { h.csr with exact := true } })
    elems t 5 1 = [0x3FB504F3] ∧ t.hart.csr.fflags = fNX := by decide +kernel

/-- R75's example: the leaves 2^24, 1, 1, 1 and 252 zeros sum to 2^24 + 2. -/
theorem test_vrsum : let s := (withV (app 256 3 []) 4 0x00 [0x4B800000, 0x3F800000, 0x3F800000, 0x3F800000]).onHart fun h => { h with csr := { h.csr with rowlen := 256 } }
    elems (after (.vrsum 6 4 0 true) s) 6 1 = [0x4B800001] := by decide +kernel

/-- R57's examples: 500.0 to E4M3 is 0x7F without saturation; F32 0x3F80_8001 to BF16 rounds to 0x3F81. -/
theorem test_vcvt : elems (after (.vcvt 3 2 3 false 0 true false) (withV (app 1 3 []) 2 0x00 [0x43FA0000])) 3 1 = [0x7F] ∧
    elems (after (.vcvt 3 2 1 false 0 true false) (withV (app 1 3 []) 2 0x00 [0x3F808001])) 3 1 = [0x3F81] := by decide +kernel

/-- R263's example: two elements add 1 and 5 to a word that holds 10; they return 10 and 11, and the word ends at 16. -/
theorem test_vamo : let s := after (.st64 5 6 0x100) (app 3 3 [(6, 0xFF80000000000000), (5, 10)])
    let s := (withV (withV s 3 0x10 [1, 7, 5]) 7 0x13 [0x100, 0x108, 0x100]).onHart fun h => { h with vec := { h.vec with m := h.vec.m.set 1 5 } }
    let t := after (.vamoAdd 3 6 7 16 1 true false 0 3 3) s
    elems t 3 3 = [10, 7, 11] ∧ Memory.num t.mem (locVsp 0 0 0x100) 8 = 16 := by decide +kernel

/-- R224's example: the ordered sum of the array gives 2^24 and NX where the exact sum is 2^24 + 2. -/
theorem test_mma : let s := (app 8 3 []).onHart fun h => { h with vec := { h.vec with octets := 1, matrix := true }, csr := { h.csr with mklen := 8, mrows := 1 } }
    let s := withV (withV (withV s 4 0x01 (List.replicate 8 0x3F80)) 16 0x01 [0x4B80, 0, 0, 0, 0x3F80]) 40 0x00 [0x3F800000]
    let s := [17, 18, 19, 20, 21, 22, 23].foldl (fun s v => withV s v 0x01 []) s
    let t := after (.mma 40 4 16 1 1 0 0 false false true true 0 false) s
    elems t 40 1 = [0x4B800000] ∧ t.hart.csr.fflags = fNX := by decide +kernel

/-- FIPS-197, appendix C.3: AES-256. -/
theorem test_aes : aesBlock (aesSchedule 0x000102030405060708090a0b0c0d0e0f101112131415161718191a1b1c1d1e1f) 0x00112233445566778899aabbccddeeff = 0x8ea2b7ca516745bfeafc49904b496089 := by
  decide +kernel

/-! ### States that meet the hypotheses of the statements

One theorem for each statement with hypotheses, one conjunct or group of conjuncts for each of its clauses. -/

/-- The address of a scratchpad offset in the LOCAL-VSP window. -/
def vsp (off : Nat) : Word := 0xFF80000000000000 + BitVec.ofNat 64 off

/-- The place of a scratchpad offset of core 0 of die 0. -/
def spot (off : Nat) : Place := ⟨locVsp 0 0 off, none, true, none, none⟩

/-- Page tables that map address 0 to the register window and 0x200_0000 to local memory at 0x20_0000, each as a page of 2 MiB. -/
def paged (s : State) : State :=
  let put := fun (m : List Host.Cell) (p : Nat × Nat) => Memory.put m p.1 (leBytes 8 p.2)
  { s with mem := [(0x1000, 0x2001), (0x2000, 0x3001), (0x3000, 0x4001), (0x4000, 2 ^ 40 + 0x1F), (0x4080, 0x20001F)].foldl put s.mem
           hart := { s.hart with sup := { s.hart.sup with ptroot := 0x1000 } } }

/-- A store of hart 0 on its way to scratchpad offset 0x200, and a load of 4 bytes there into x6. -/
def aStore : Access := ⟨0, 0, locVsp 0 0 0x200, vsp 0x200, .store [1, 2, 3, 4], false, false, 0, 0, false, 0, 0, 0, 0, false, false, none, 0, 0, 0, false, false⟩
def aLoad : Access := { aStore with op := .load 6 4 true }

/-- A transfer of 4 values of 4 bytes into handle 3, with chunk mask m2. -/
def aStream : StreamCmd := ⟨0, 0, 3, false, 4, 4, (List.range 4).map fun i => locVsp 0 0 (0x200 + 4 * i), 0x1000, 2, .done, [], 0, (List.range 4).map (fun i => (locVsp 0 0 (0x200 + 4 * i)) / 64), (List.range 4).map (fun i => (locVsp 0 0 (0x200 + 4 * i)) / 64), Kept.zero⟩

/-- The relaxed policy, at a VADD of v1 and v2 into v3. -/
def atVadd : State := { (State.reset.withFetchWord 32 0x60204380 : State).onHart fun h => { h with csr := { h.csr with vl := 8 } } with relaxed := true }

/-- That VADD of hart 0 past decode, with decode age 5 and group 0 passed over n times. -/
def aWindow (s : State) (n : Nat) : Window :=
  { s.windowOf s (.vadd 3 1 2 0 true true false) (Pipe.element 0 3 [(1, .group), (2, .group)] 0) 0 with age := 5, unissued := [(0, n)], skipped := [] }

/-- A state with accesses on their way. -/
def flying (s : State) (l : List Access) : State := { s with accesses := l }

/-- The outcome is a next state. -/
def goes (o : Out) : Bool := match o with
  | .next _ => true
  | _ => false

/-- A page table entry's place of a translated address. -/
def okPlace (r : Except Cause Place) : Place := match r with
  | .ok p => p
  | .error _ => ⟨0, none, false, none, none⟩

/-- A check that gives a place gives it. -/
theorem ok_of {r : Except Cause Place} {p : Place} (h : (match r with | .ok q => decide (q = p) | .error _ => false) = true) : r = .ok p := by
  cases r <;> simp_all

/-- A check that fails gives its cause. -/
theorem error_of {r : Except Cause Place} {c : Cause} (h : (match r with | .ok _ => false | .error d => decide (d = c)) = true) : r = .error c := by
  cases r <;> simp_all

/-- Checks that give their places and whose gates are open. -/
theorem probes_of {l : List Nat} {s : State} {a : Nat → Word} {n : Nat} {k : AKind} {p : Nat → Place}
    (h : (l.all fun i => (match s.probe (a i) n n k with | .ok q => decide (q = p i) | .error _ => false) && decide (s.gate (p i) = .opened)) = true) :
    ∀ i ∈ l, s.probe (a i) n n k = .ok (p i) ∧ s.gate (p i) = .opened := by
  intro i hi
  have := List.all_eq_true.mp h i hi
  simp only [Bool.and_eq_true, decide_eq_true_eq] at this
  exact ⟨ok_of this.1, this.2⟩

/-- Checks that give their places. -/
theorem probesAt_of {l : List Nat} {s : State} {a : Nat → Word} {n : Nat} {k : AKind} {p : Nat → Place}
    (h : (l.all fun i => (match s.probe (a i) n n k with | .ok q => decide (q = p i) | .error _ => false)) = true) :
    ∀ i ∈ l, s.probe (a i) n n k = .ok (p i) := fun i hi => ok_of (List.all_eq_true.mp h i hi)

/-- Bytes that decode to an instruction decode to it. -/
theorem decodes_of {r : Except DecodeError (Instr × Nat)} {p : Instr × Nat} (h : (match r with | .ok q => decide (q = p) | .error _ => false) = true) : r = .ok p := by
  cases r <;> simp_all

theorem witness_DecodeAndEncodeAgreeOnEveryInstruction :
    (Instr.addi 5 6 0x3FFC).wellFormed = true ∧ encode (.addi 5 6 0x3FFC) = some (32, 0xFFF0C510) ∧
    (Instr.scntadd 31 6 7 true).wellFormed = true ∧ (encode (.scntadd 31 6 7 true)).isSome = true ∧
    decodeBytes [0x10, 0xC5, 0xF0, 0xFF] = .ok (.addi 5 6 0x3FFC, 4) ∧ decodeBytes [0x61, 0xC5, 0x1C, 0, 0, 0, 0, 0] = .ok (.scntadd 5 6 7 false, 8) := by
  try dsimp only
  and_intros <;> first | decide +kernel | exact ok_of (by decide +kernel) | exact error_of (by decide +kernel) | exact decodes_of (by decide +kernel)

/-- A running hart at an ADDI that reads x6: nothing outstanding; a load into x6 on its way; a store on its way. -/
theorem witness_StepRunsTheDecodedInstruction : let s := (State.reset.withFetchWord 32 0xFFF0C510).arbitrate
    s.agenda = [] ∧ s.hart.bound = true ∧ s.hart.run = .running ∧ s.probe s.hart.pc 4 4 .fetch = .ok (spot 0) ∧
    decodeBytes (s.codeBytes (spot 0).loc) = .ok (.addi 5 6 0x3FFC, 4) ∧ s.quiet = true ∧
    (flying s [aLoad]).quiet = false ∧ (flying s [aLoad]).interlocked (.addi 5 6 0x3FFC) = true ∧
    (flying s [aStore]).quiet = false ∧ (flying s [aStore]).interlocked (.addi 5 6 0x3FFC) = false ∧ goes (exec (.addi 5 6 0x3FFC) (flying s [aStore])) = true ∧
    s.gate (spot 0) = .opened ∧ (s.decodes (.addi 5 6 0x3FFC)).isNone = true ∧ (∀ h ∈ s.others, h.id / 4 ≠ s.hart.id / 4) ∧
    decodeBytes (atVadd.codeBytes (spot 0).loc) = .ok (.vadd 3 1 2 0 true true false, 4) ∧ atVadd.interlocked (.vadd 3 1 2 0 true true false) = false ∧
    ((atVadd.decodes (.vadd 3 1 2 0 true true false)).any atVadd.decodeRoom) = true ∧ (after (.vadd 3 1 2 0 true true false) atVadd).hart.csr.vl = 8 ∧
    (after (.vadd 3 1 2 0 true true false) atVadd).hart.run = .running := by
  try dsimp only
  and_intros <;> first | decide +kernel | exact ok_of (by decide +kernel) | exact error_of (by decide +kernel) | exact decodes_of (by decide +kernel)

theorem witness_StepsThatRunNoInstruction : let s := (app 0 3 []).arbitrate
    ({ s with agenda := [.select] } : State).agenda = .select :: [] ∧ s.agenda = [] ∧ (s.waits .halt).hart.run = .waiting ∧ (s.blocks .halt).hart.run = .blocked ∧
    State.reset.hart.bound = false ∧ s.hart.bound = true ∧ s.hart.run = .running ∧ s.unsettled = false ∧ (∀ h ∈ s.others, h.id / 4 ≠ s.hart.id / 4) ∧ s.gate (spot 0) = .opened ∧
    (s.setPc 0).probe 0 4 4 .fetch = .error (.pageFault .fetch) ∧ s.probe s.hart.pc 4 4 .fetch = .ok (spot 0) ∧
    (match decodeBytes (s.codeBytes (spot 0).loc) with | .ok _ => false | .error _ => true) = true := by
  try dsimp only
  and_intros <;> first | decide +kernel | exact ok_of (by decide +kernel) | exact error_of (by decide +kernel) | exact decodes_of (by decide +kernel)

theorem witness_EveryStepKeepsMemoryCanonical : let s := after (.st64 6 5 0) (app 0 3 [(5, vsp 0), (6, 0x100000000000010)])
    Memory.wf s.mem = true ∧ s.mem ≠ [] ∧ goes (step s) = true := by decide +kernel

theorem witness_DivisionsRoundTowardZeroAndNeverTrap : let s := app 0 3 [(6, 0x8000000000000000), (7, 0xFFFFFFFFFFFFFFFF)]
    s.rx 0 = 0 ∧ s.rx 6 = 0x8000000000000000 ∧ s.rx 7 = 0xFFFFFFFFFFFFFFFF := by decide

theorem witness_WidthOperationsReadTheLowBits : 1 ≤ (1 : BitVec 3).toNat ∧ (1 : BitVec 3).toNat ≤ 4 ∧ 1 ≤ (4 : BitVec 3).toNat ∧ (4 : BitVec 3).toNat ≤ 4 := by decide

theorem witness_JumpsLinkAndTrapOnMisalignedTargets : let s := app 0 3 [(6, 0x1000)]
    ((s.rx 6 + BitVec.ofInt 64 (4 : BitVec 14).toInt).toNat % 4 = 0) ∧ (s.rx 6 + BitVec.ofInt 64 (0x3FFF : BitVec 14).toInt).toNat % 4 ≠ 0 := by decide

/-- In a fixed mode no seed is drawn; in SR one is. FCVT: I64 from F32, and F32 from F32, which is refused. -/
theorem witness_ScalarFloatingPointRoundsOnce : let s := app 0 3 []
    (∃ d u, s.seedFor (s.modeOf 0) true 1 = .ok (d, u)) ∧ (∃ d u, s.seedFor .sr true 1 = .ok (d, u)) ∧ s.unperformed = false ∧
    ((16 : BitVec 5).toNat ∈ [0, 1, 2, 11, 14, 16, 17, 19] ∧ (16 : BitVec 5).toNat ≠ 0 ∧ ∃ d u, s.seedFor (s.modeOf 1) (!convExact 16 0) 1 = .ok (d, u)) ∧
    ((3 : BitVec 5).toNat ∉ [0, 1, 2, 11, 14, 16, 17, 19]) := ⟨⟨_, _, rfl⟩, ⟨_, _, rfl⟩, rfl, ⟨by decide, by decide, _, _, rfl⟩, by decide⟩

/-- A supervisor hart that returns to application level, with a pending PREEMPT; and one that returns to supervisor level. -/
theorem witness_TrapReturnRestoresLevelAndPc : let s := (sup []).onHart fun h => { h with preempt := some 1 }
    s.hart.level = .sup ∧ s.hart.ifr = none ∧ s.hart.freeze ≠ .begun ∧ s.hart.freeze ≠ .settling ∧
    (∀ p ∈ s.parked, p.ctx = s.hart.sup.ctxid → p.issuer ≠ s.hart.tags.issuer) ∧ s.hart.sup.trapstat.getLsbD 63 = false ∧ (s.ctxEntry s.hart.sup.ctxid.toNat).killed = false ∧
    s.hart.preempt ≠ none ∧ (after .ebreak s).hart.sup.trapstat.getLsbD 63 = true ∧ (after .ebreak s).hart.level = .sup ∧ (app 0 3 []).hart.level = .app := by decide +kernel

theorem witness_FencesWaitForWhatTheyOrder : let s := app 0 3 []; let w := flying s [aStore]; let d := flying s [{ aStore with performed := true }]
    (∀ a ∈ s.accesses, a.hart = s.hart.id → ((7 : BitVec 3).getLsbD 0 = true → a.reads = false) ∧ ((7 : BitVec 3).getLsbD 1 = true → a.writes = false)) ∧ s.enginesBusy s.hart = false ∧
    (∀ a ∈ d.accesses, a.hart = d.hart.id → ((1 : BitVec 3).getLsbD 0 = true → a.reads = false) ∧ ((1 : BitVec 3).getLsbD 1 = true → a.writes = false)) ∧
    (∀ a ∈ d.accesses, a.hart = d.hart.id → a.performed = true) ∧ (∃ a ∈ w.accesses, a.hart = w.hart.id ∧ a.performed = false) ∧
    (∃ a ∈ w.accesses, a.hart = w.hart.id ∧ (2 : BitVec 3).getLsbD 1 = true ∧ a.writes = true) ∧
    (let e := { s with streams := [aStream] }; (4 : BitVec 3).getLsbD 2 = true ∧ e.enginesBusy e.hart = true) := by decide +kernel

/-- Numbers 0x007 and 0x10D may be written, 0x10F does not exist, 0x001 is read-only. -/
theorem witness_ControlRegistersReadThenWriteByTheirRules :
    csrExists 0x007 = true ∧ csrReadOnly 0x007 = false ∧ csrExists 0x10D = true ∧ csrReadOnly 0x10D = false ∧ (sup []).hart.level = .sup ∧ (app 0 3 []).hart.level = .app ∧
    csrExists 0x10F = false ∧ csrReadOnly 0x001 = true := by decide +kernel

theorem witness_FormsTrapAtTheWrongLevel : (app 0 3 []).hart.level = .app ∧ 0x100 ≤ (0x100 : BitVec 12).toNat ∧ (sup []).hart.level = .sup := by decide

/-- A scratchpad load in both policies, a load of the register window, a page that is not mapped. -/
theorem witness_LoadsReadTheirBytes : let s := app 0 3 [(6, vsp 0x100)]; let r := { s with relaxed := true }; let p := paged (app 0 3 [])
    let g := okPlace (p.probe 8 8 8 .read)
    s.rx 6 + BitVec.ofInt 64 (4 : BitVec 14).toInt = vsp 0x104 ∧ s.probe (vsp 0x104) 4 4 .read = .ok (spot 0x104) ∧ (s.cachePage (vsp 0x104)).gate (spot 0x104) = .opened ∧
    (spot 0x104).reg = none ∧ s.relaxed = false ∧ p.unperformed = false ∧ (flying p [aStore]).unperformed = true ∧ p.hart.level = .app ∧ r.probe (vsp 0xFFFF8) 8 8 .read = .ok (spot 0xFFFF8) ∧ (r.cachePage (vsp 0xFFFF8)).gate (spot 0xFFFF8) = .opened ∧ r.relaxed = true ∧
    p.probe 8 8 8 .read = .ok g ∧ (p.cachePage 8).gate g = .opened ∧ g.reg = some 8 ∧
    s.probe (vsp 0x104) 8 8 .read = .error (.misaligned .read) ∧ s.probe 0 8 8 .read = .error (.pageFault .read) ∧ (4 : BitVec 3) ≠ 0 ∧ (1 : BitVec 3) ≠ 0 := by
  try dsimp only
  and_intros <;> first | decide +kernel | exact ok_of (by decide +kernel) | exact error_of (by decide +kernel) | exact decodes_of (by decide +kernel)

theorem witness_ScalarStoresWriteTheirBytes : let s := app 0 3 [(6, vsp 0xFFFF8)]; let r := { s with relaxed := true }; let p := paged (app 0 3 [])
    let g := okPlace (p.probe 0x30 8 8 .write)
    Memory.wf s.mem = true ∧ (4 : BitVec 3) ≠ 0 ∧ s.rx 6 = vsp 0xFFFF8 ∧ s.probe (vsp 0xFFFF8) 8 8 .write = .ok (spot 0xFFFF8) ∧ (s.cachePage (vsp 0xFFFF8)).gate (spot 0xFFFF8) = .opened ∧
    (spot 0xFFFF8).reg = none ∧ s.relaxed = false ∧ Memory.wf r.mem = true ∧ r.probe (vsp 0) 1 1 .write = .ok (spot 0) ∧ (r.cachePage (vsp 0)).gate (spot 0) = .opened ∧ r.relaxed = true ∧ p.unperformed = false ∧ (flying p [aStore]).unperformed = true ∧
    Memory.wf p.mem = true ∧ p.probe 0x30 8 8 .write = .ok g ∧ (p.cachePage 0x30).gate g = .opened ∧ g.reg = some 0x30 ∧
    s.probe (vsp 0x100000) 1 1 .write = .error (.windowRange .write) := by
  try dsimp only
  and_intros <;> first | decide +kernel | exact ok_of (by decide +kernel) | exact error_of (by decide +kernel) | exact decodes_of (by decide +kernel)

theorem witness_AtomicsReadModifyWriteTheirWord : let s := after (.st64 5 6 0) (app 0 3 [(6, vsp 0x100), (5, 0x0003000000000100)])
    Memory.wf s.mem = true ∧ s.tagsFull 1 = false ∧ s.relaxed = false ∧ s.tableFull (dupSlice (spot 0x100).loc) 1 = false ∧ s.rx 6 = vsp 0x100 ∧ s.probe (vsp 0x100) 8 8 .write = .ok (spot 0x100) ∧
    (s.cachePage (vsp 0x100)).gate (spot 0x100) = .opened ∧ (spot 0x100).reg = none ∧ BitVec.ofNat 64 (Memory.num s.mem (spot 0x100).loc 8) = s.rx 5 := by
  try dsimp only
  and_intros <;> first | decide +kernel | exact ok_of (by decide +kernel) | exact error_of (by decide +kernel) | exact decodes_of (by decide +kernel)

/-- A cacheable line of local memory, and a window line, which cannot be pinned. -/
theorem witness_CacheControlTouchesOnlyPins : let p := paged (app 0 3 []); let g := okPlace (p.probe 0x2000040 1 1 .read)
    (1 : BitVec 2) ≠ 2 ∧ p.probe 0x2000040 1 1 .read = .ok g ∧ (p.cachePage 0x2000040).gate g = .opened ∧ g.uncacheable = false ∧ g.loc = 0x200040 ∧
    p.probe (vsp 0) 1 1 .read = .ok (spot 0) ∧ (p.cachePage (vsp 0)).gate (spot 0) = .opened ∧ (spot 0).uncacheable = true := by
  try dsimp only
  and_intros <;> first | decide +kernel | exact ok_of (by decide +kernel) | exact error_of (by decide +kernel) | exact decodes_of (by decide +kernel)

/-- A full table of tags, the relaxed policy, and a word of the register window. -/
theorem witness_AtomicsThatWaitAreQueuedOrReachAWindow : let s := app 0 3 [(6, vsp 0x100)]; let p := paged (app 0 3 [])
    ({ s with duplicates := List.replicate 8192 ⟨0, 0, 0, 0, 0⟩ } : State).tagsFull 1 = true ∧ ({ s with relaxed := true } : State).tagsFull 1 = false ∧
    (okPlace (p.probe 8 8 8 .write)).reg ≠ none ∧ p.tagsFull 1 = false ∧ p.unperformed = false := by
  try dsimp only
  and_intros <;> decide +kernel

/-! A vector hart: 4 elements of 32 bits; v1, v2 and v4 are F32, v3 N32, v5 BF16 spread, v6 E8M0, v7 I32. -/

/-- The vector hart. -/
def vec (n : Word) : State :=
  let s := [(1, 0x00), (2, 0x00), (4, 0x00), (3, 0x13), (5, 0x21), (6, 0x0D), (7, 0x0B)].foldl (fun (s : State) (p : VReg × BitVec 8) => withV s p.1 p.2 [0x3F800000, 0x40000000]) (app n 3 [])
  s.onHart fun h => { h with csr := { h.csr with rowlen := 2 }, vec := { h.vec with m := h.vec.m.set 1 5 } }

/-- The same hart in stochastic rounding mode, and one whose array is lent. -/
def vecSr (n : Word) : State := (vec n).onHart fun h => { h with csr := { h.csr with frm := 6 } }
def vecLent : State := (vec 4).updCore 0 0 fun c => { c with borrower := some 5 }

theorem witness_ElementwiseArithmeticWritesOnlyItsDestination : let s := vec 4
    VecReady s ∧ s.hart.fits (s.hart.tagOf 1) = true ∧ s.hart.tagOf 2 = s.hart.tagOf 1 ∧ VOp.add.accepts (tagType (s.hart.tagOf 1)) = true ∧
    VOp.fma.accepts (tagType (s.hart.tagOf 1)) = true ∧ s.hart.tagOf 4 = s.hart.tagOf 1 ∧ VOp.sll.accepts (tagType (s.hart.tagOf 3)) = true ∧ s.hart.fits (s.hart.tagOf 3) = true ∧
    VOp.xor.accepts (tagType (s.hart.tagOf 3)) = true ∧ tyIN (tagType (s.hart.tagOf 3)) = true ∧
    (∃ d u, s.seedFor s.frmMode (VOp.add.rounds (tagType (s.hart.tagOf 1))) s.hart.vl = .ok (d, u)) := by
  refine ⟨?_, ?_, ?_, ?_, ?_, ?_, ?_, ?_, ?_, ?_, ⟨_, _, rfl⟩⟩ <;> (try unfold VecReady) <;> decide +kernel

theorem witness_ElementsReadBackAndIntegersWrap : tagLegal 0x23 = true ∧ (3 : BitVec 3).toNat ≤ 4 ∧ (tagSpread 0x23 = true → tagBits 0x23 ≤ ewBits 3) ∧
    [1, 2, 300].length ≤ 32768 / (if tagSpread 0x23 then ewBits 3 else tagBits 0x23) ∧ tagLegal 0x13 = true ∧ tagSpread 0x13 = false ∧
    (List.replicate 1024 7).length ≤ 32768 / (if tagSpread 0x13 then ewBits 3 else tagBits 0x13) ∧
    tyIN 8 = true ∧ 255 < 2 ^ tyBits 8 ∧ 128 < 2 ^ tyBits 8 ∧ intOf 8 255 = -1 ∧ intOf 8 128 = intMin 8 ∧ intOf 8 1 ≠ 0 ∧ ¬ (intOf 8 7 = intMin 8 ∧ intOf 8 1 = -1) := by
  decide +kernel

/-- The wrong level, the wrong mode, a tag too short for VL, unequal tags, a type that arithmetic refuses, a number between the functions, and a lent array. -/
theorem witness_VectorFormsAreRefusedOrWait : let s := vec 4
    (sup []).hart.level = .sup ∧ (after .modeM s).hart.vec.matrix = true ∧ (vec 1025).hart.fits ((vec 1025).hart.tagOf 1) = false ∧ s.hart.tagOf 3 ≠ s.hart.tagOf 1 ∧
    tagType (s.hart.tagOf 6) ∈ [3, 4, 7, 13, 15] ∧ 14 ≤ (14 : BitVec 6).toNat ∧ (31 : BitVec 6).toNat < 32 ∧
    vecLent.hart.level = .app ∧ vecLent.hart.vec.matrix = false ∧ vecLent.lent = true ∧ vecLent.hart.fits (vecLent.hart.tagOf 1) = true ∧ tyBW (tagType (vecLent.hart.tagOf 1)) = true := by
  try dsimp only
  and_intros <;> decide +kernel

theorem witness_ComparesWriteMasksAndMergeSelects : let s := vec 4
    VecReady s ∧ s.hart.fits (s.hart.tagOf 1) = true ∧ tyFA (tagType (s.hart.tagOf 1)) = true ∧ tyIN (tagType (s.hart.tagOf 3)) = true ∧ (3 : MReg) ≠ 0 ∧ s.maskOwned 3 = false ∧
    s.hart.vl ≤ 8192 ∧ s.hart.tagOf 2 = s.hart.tagOf 1 ∧ tyBW (tagType (s.hart.tagOf 1)) = true := by
  unfold VecReady
  try dsimp only
  and_intros <;> decide +kernel

/-- v1 F32 packed with v2 its pair; v3 holds N32 indices; v8 is not v1. -/
theorem witness_PermutesMoveElements : let s := vec 4; let h := s.hart; let tag := h.tagOf 1; let packed := mkTag (tagType tag) false
    VecReady s ∧ ((8 : VReg) != 1 && decide (tagBits tag ≤ h.ebits) && h.fits tag) = true ∧ h.fits (tag ^^^ 0x20) = true ∧
    (h.fits tag && tyBW (tagType tag) && h.permSource 3 && [9, 18, 19].contains (tagType (h.tagOf 3))) = true ∧ h.fits packed = true ∧
    (h.fits tag && tyBW (tagType tag) && (1 : VReg) != 63 && h.tagOf 2 == tag) = true ∧ (!tagSpread tag) = true ∧ (h.vec.ew != 0) = true ∧ h.fits (mkTag h.iotaType false) = true ∧
    (8 : VReg) ≠ 1 := by
  unfold VecReady
  try dsimp only
  and_intros <;> decide +kernel

/-- VCVT to BF16 and to the six-bit E3M2, and VMULSC of F32 by E8M0. -/
theorem witness_RandomElementsAndConversions : let s := vec 4; let h := s.hart
    VecReady s ∧ h.fits (mkTag 19 false) = true ∧ h.fits (mkTag 17 false) = true ∧ h.fits (mkTag 0 false) = true ∧
    h.cvtLegal 8 1 1 = true ∧ isSix 1 = false ∧ h.cvtLegal 8 1 5 = true ∧ isSix 5 = true ∧ tagType (h.tagOf 1) ∈ [0, 1, 2] ∧ h.fits (h.tagOf 1) = true ∧ tagType (h.tagOf 6) = 13 ∧
    (∃ d u, s.seedFor s.frmMode (cvtDraws 0 1) h.vl = .ok (d, u)) ∧ (∃ d u, s.seedFor .sr (cvtDraws 0 1) h.vl = .ok (d, u)) := by
  refine ⟨?_, ?_, ?_, ?_, ?_, ?_, ?_, ?_, ?_, ?_, ?_, ⟨_, _, rfl⟩, ⟨_, _, rfl⟩⟩ <;> (try unfold VecReady) <;> decide +kernel

theorem witness_ScalarVectorMovesTouchOneElement : let s := (vec 4).wx 5 1024
    VecReady s ∧ s.hart.fits (s.hart.tagOf 1) = true ∧ tyBW (tagType (s.hart.tagOf 1)) = true ∧ (s.rx 5).toNat = s.hart.capacity (s.hart.tagOf 1) := by
  unfold VecReady
  try dsimp only
  and_intros <;> decide +kernel

/-- EXP2 on F32; the index word v3 for VSFTAB; VSFPOLY of v1, v2 and v4; VSFSCL by v7. -/
theorem witness_SpecialFunctionStepsWriteTheirResults : let s := vec 4; let h := s.hart
    VecReady s ∧ (s.sfSource 0).isSome = true ∧ (s.sfSource 13).isSome = true ∧ h.fits (h.tagOf 1) = true ∧ tagType (h.tagOf 1) ∈ [0, 1, 2] ∧ h.fits (h.tagOf 3) = true ∧
    tagType (h.tagOf 3) = 19 ∧ (61 : VReg).val ≤ 61 ∧ h.cvtLegal 61 1 0 = true ∧ tagType (h.tagOf 1) = 0 ∧ h.tagOf 2 = h.tagOf 1 ∧ h.tagOf 4 = h.tagOf 1 ∧
    h.tagOf 7 = mkTag 11 (tagSpread (h.tagOf 1)) := by
  unfold VecReady
  try dsimp only
  and_intros <;> decide +kernel

theorem witness_RowGroupInstructionsWriteTheirDestination : let s := vec 4; let h := s.hart
    VecReady s ∧ h.sumLegal 8 1 = true ∧ h.extremeLegal 8 1 = true ∧ h.fits (h.tagOf 1) = true ∧ h.rowsLegal (h.tagOf 1) = true ∧ tagType (h.tagOf 1) ∈ [0, 1, 2] ∧
    tyFA (tagType (h.tagOf 1)) = true ∧ (∃ d u, s.seedFor s.frmMode true h.vl = .ok (d, u)) ∧ (∃ d u, (vecSr 4).seedFor (vecSr 4).frmMode true 4 = .ok (d, u)) ∧
    h.rows = 2 ∧ (vec 5).hart.rows * (vec 5).hart.rowlen < (vec 5).hart.vl := by
  refine ⟨?_, ?_, ?_, ?_, ?_, ?_, ?_, ⟨_, _, rfl⟩, ⟨_, _, rfl⟩, ?_, ?_⟩ <;> (try unfold VecReady) <;> decide +kernel

/-- A hart that keeps its grant, one that takes a decided one, and one in matrix mode. -/
theorem witness_VsetvlTakesItsGrantAndSetsTheStrip : let s := vec 4; let t := s.onHart fun h => { h with grant := { h.grant with decided := some 0x0F } }
    s.hart.level = .app ∧ s.hart.vec.matrix = false ∧ s.vectorBusy = false ∧ s.decideGrant s.hart.grantTarget = s.hart.vec.octets ∧
    t.hart.grant.decided.getD 0 = 0x0F ∧ (after .modeM s).hart.level = .app ∧ (after .modeM s).hart.vec.matrix = true := by
  try dsimp only
  and_intros <;> decide +kernel

theorem witness_TagsAndModesChangeAsAsked : let s := vec 4
    s.hart.level = .app ∧ tagLegal 0x13 = true ∧ tagLegal 0x14 = false ∧ tagLegal 0x93 = false ∧ s.lent = false ∧ s.vectorBusy = false ∧ vecLent.hart.level = .app ∧ vecLent.lent = true := by
  try dsimp only
  and_intros <;> decide +kernel

/-- A mask with a lowest set bit, one with none below VL, and one that a stream owns. -/
theorem witness_MaskOperationsStayBelowVl : let s := vec 4; let o := { s with streams := [⟨0, 0, 0, false, 4, 4, [], 0, 3, .done, [], 0, [], [], Kept.zero⟩] }
    VecReady s ∧ (3 : MReg) ≠ 0 ∧ s.maskOwned 3 = false ∧ o.maskOwned 3 = true ∧ s.hart.vl ≤ 8192 ∧ (vec 8192).hart.vl ≤ 8192 ∧
    (0 < s.hart.vl ∧ (s.hart.rm 1).getLsbD 0 = true ∧ (∀ j, j < 0 → (s.hart.rm 1).getLsbD j = false)) ∧ (∀ j, j < s.hart.vl → (s.hart.rm 2).getLsbD j = false) := by
  unfold VecReady
  try dsimp only
  and_intros <;> decide +kernel

/-- The elements of a unit-stride access from scratchpad offset 0x200 on. -/
def unitSpot (i : Nat) : Place := spot (0x200 + 4 * i)

/-- VLD, VLDS and VLDX of F32; the elements are 0 and 2 under m1. -/
theorem witness_VectorAndBufferLoadsFillTheirRegister : let s := withV (((vec 4).wx 10 (vsp 0x200)).wx 11 4) 9 0x13 [0, 4, 8, 12]; let h := s.hart
    let b := s.onHart fun h => h.setHandle 31 ⟨0x200, 512, .full⟩; let f := s.onHart fun h => h.setHandle 31 ⟨0x200, 512, .filling⟩
    h.level = .app ∧ (0 : BitVec 5).toNat < 20 ∧ h.fits (mkTag 0 false) = true ∧ s.relaxed = false ∧ activeElems h 1 = [0, 2] ∧ s.caching = false ∧
    (∀ i ∈ activeElems h 1, s.probe (s.rx 10 + BitVec.ofNat 64 (i * 32 / 8)) 4 4 .read = .ok (unitSpot i) ∧ s.gate (unitSpot i) = .opened) ∧
    (∀ i ∈ activeElems h 1, s.probe (s.rx 10 + BitVec.ofNat 64 i * s.rx 11) 4 4 .read = .ok (unitSpot i)) ∧ h.indexOk 9 = true ∧
    (∀ i ∈ activeElems h 1, s.probe (s.rx 10 + BitVec.ofNat 64 (h.elem 9 i)) 4 4 .read = .ok (unitSpot i)) ∧
    (s.rx 31).toNat < 32 ∧ ((b.wx 5 31).rx 5).toNat = 31 ∧ (b.hart.handles.get (Fin.ofNat 32 31)).state = .full ∧ (f.hart.handles.get (Fin.ofNat 32 31)).state = .filling ∧ (1 : MReg) ≠ 0 ∧
    h.vl * 32 ≤ 8 * 512 ∧ 32 ≤ (s.rx 10).toNat := by
  dsimp only
  refine ⟨?_, ?_, ?_, ?_, ?_, ?_, probes_of (by decide +kernel), probesAt_of (by decide +kernel), ?_, probesAt_of (by decide +kernel), ?_, ?_, ?_, ?_, ?_, ?_, ?_⟩ <;> decide +kernel

/-- Element 0 of an access at the end of the scratchpad fails on its range: it traps. With elements 0 to 2 inside, element 3 is trimmed. -/
theorem witness_VectorStoresWriteTheirElements : let s := withV (((vec 4).wx 10 (vsp 0x200)).wx 11 4) 9 0x13 [0, 4, 8, 12]; let h := s.hart
    h.level = .app ∧ h.fits (h.tagOf 1) = true ∧ tagCrumb (h.tagOf 1) = false ∧ s.relaxed = false ∧ activeElems h 1 ≠ [] ∧ Memory.wf s.mem = true ∧ (∀ i, (unitSpot i).reg = none) ∧ s.caching = false ∧
    (∀ i ∈ activeElems h 1, s.probe (s.rx 10 + BitVec.ofNat 64 (i * 32 / 8)) 4 4 .write = .ok (unitSpot i) ∧ s.gate (unitSpot i) = .opened) ∧ h.indexOk 9 = true ∧
    (∀ i ∈ activeElems h 1, s.probe (s.rx 10 + BitVec.ofNat 64 (h.elem 9 i)) 4 4 .write = .ok (unitSpot i)) := by
  dsimp only
  refine ⟨?_, ?_, ?_, ?_, ?_, ?_, fun _ => rfl, ?_, probes_of (by decide +kernel), ?_, probesAt_of (by decide +kernel)⟩ <;> decide +kernel

/-- The same hart in the relaxed policy. -/
theorem witness_RelaxedElementAccessesAreQueued : let s : State := { (vec 4).wx 10 (vsp 0x200) with relaxed := true }; let h := s.hart
    h.level = .app ∧ s.relaxed = true ∧ activeElems h 1 ≠ [] ∧ (∀ i, (unitSpot i).reg = none) ∧ h.fits (h.tagOf 1) = true ∧ tagCrumb (h.tagOf 1) = false ∧ (0 : BitVec 5).toNat < 20 ∧ s.caching = false ∧
    (∀ i ∈ activeElems h 1, s.probe (s.rx 10 + BitVec.ofNat 64 (i * 32 / 8)) 4 4 .write = .ok (unitSpot i) ∧ s.gate (unitSpot i) = .opened) ∧
    (∀ i ∈ activeElems h 1, s.probe (s.rx 10 + BitVec.ofNat 64 (i * 32 / 8)) 4 4 .read = .ok (unitSpot i) ∧ s.gate (unitSpot i) = .opened) := by
  dsimp only
  refine ⟨?_, ?_, ?_, fun _ => rfl, ?_, ?_, ?_, ?_, probes_of (by decide +kernel), probes_of (by decide +kernel)⟩ <;> decide +kernel

theorem witness_VectorAtomicsReturnOldElements : let s := withV ((vec 4).wx 10 (vsp 0x200)) 9 0x13 [0, 4, 8, 12]; let h := s.hart
    h.level = .app ∧ h.vamoLegal 7 9 11 = true ∧ s.tagsFull (activeElems h 1).length = false ∧ s.slicesFull ((activeElems h 1).map fun i => (unitSpot i).loc) = false ∧ s.relaxed = false ∧ Memory.wf s.mem = true ∧ (∀ i, (unitSpot i).reg = none) ∧ s.frmMode ≠ .sr ∧
    s.caching = false ∧ (∀ i ∈ activeElems h 1, s.probe (s.rx 10 + BitVec.ofNat 64 (h.elem 9 i)) 4 4 .write = .ok (unitSpot i) ∧ s.gate (unitSpot i) = .opened) := by
  dsimp only
  refine ⟨?_, ?_, ?_, ?_, ?_, ?_, fun _ => rfl, ?_, ?_, probes_of (by decide +kernel)⟩ <;> decide +kernel

/-- A matrix hart of one octet: v1, v2 BF16 operands, v16 to v23 a BF16 B group, v40 an F32 tile, v30 and v31 E8M0, v32 MXI8, v48 to v55 MXI8. -/
def mat : State :=
  let tags : List (VReg × BitVec 8) := [(1, 1), (2, 1), (16, 1), (17, 1), (18, 1), (19, 1), (20, 1), (21, 1), (22, 1), (23, 1), (30, 13), (31, 13), (32, 15), (33, 15), (48, 15), (49, 15),
    (50, 15), (51, 15), (52, 15), (53, 15), (54, 15), (55, 15), (40, 0), (9, 0x13)]
  tags.foldl (fun (s : State) p => s.onHart fun h => h.setTag p.1 p.2) (((app 4 3 [(10, vsp 0x200), (11, 4), (12, 3)]).onHart fun h =>
    { h with vec := { h.vec with octets := 1, matrix := true }, csr := { h.csr with mklen := 4, mrows := 1 } }))

theorem witness_MatrixInstructionsUpdateTheirAccumulator : let s := mat; let h := s.hart
    h.level = .app ∧ h.vec.matrix = true ∧ (s.lent = false ∧ s.relaxed = false) ∧ (∃ d u, s.seedFor (s.modeOf 0) true (2 ^ 16 * (16 * h.lanes)) = .ok (d, u)) ∧ tresOk 1 = true ∧
    h.wsLegal ⟨1, 1, 0, 1, 16, none, 0⟩ 40 = true ∧ h.wsLegal ⟨15, 15, 0, 32, 48, some (30, 31), 0⟩ 40 = true ∧ h.rsLegal ⟨1, 1, 0, 1, 2, none, 0⟩ = true ∧
    h.rsLegal ⟨15, 15, 0, 32, 33, some (30, 31), 0⟩ = true ∧ (s.rx 12).toNat < 4 ∧ (∃ d u, s.seedFor (s.modeOf 0) (cvtDraws h.acct 1) (2 ^ 16 * (16 * h.lanes)) = .ok (d, u)) ∧
    tagType (h.tagOf 40) = h.acct ∧ (vec 4).hart.vec.matrix = false ∧
    tresOk 0 = true ∧ (0 : BitVec 4).toNat ≠ 7 ∧ h.vl ≤ 64 * h.lanes ∧ (h.tagOf 9).toNat ∈ [0x13, 0x11, 0x10] ∧ s.modeOf 0 ≠ .sr ∧ s.accesses = [] ∧ Memory.wf s.mem = true ∧ s.caching = false ∧
    (∀ e ∈ activeElems h 0, s.probe (s.rx 10 + BitVec.ofNat 64 (e / h.lanes) * s.rx 11 + BitVec.ofNat 64 (e % h.lanes * 32 / 8)) 4 4 .write = .ok (unitSpot e) ∧
      s.gate (unitSpot e) = .opened) := by
  dsimp only
  refine ⟨?_, ?_, ?_, ⟨_, _, rfl⟩, ?_, ?_, ?_, ?_, ?_, ?_, ⟨_, _, rfl⟩, ?_, ?_, ?_, ?_, ?_, ?_, ?_, ?_, ?_, ?_, probes_of (by decide +kernel)⟩ <;> decide +kernel

/-- A hart whose namespace gives it 256 counters, 16 barriers, 16 semaphores and 4 cells; counter 0 holds 7, barrier 0 counts 2, barrier 1 is BROKEN, cell 0 sums two F32 values. -/
def sync : State :=
  let s := (app 0 3 [(6, 0x10000000), (7, 3), (8, 0x20000000), (9, 0x20000001), (10, 0x30000000), (11, 0x40000000), (12, 0x20000002), (13, 8)]).onHart fun h =>
    { h with sup := { h.sup with syncbase := 0x0100010001000100 } }
  { s with trivet := { counters := [(0, 7)], sems := [(0, ⟨5, []⟩)], barriers := [(0, ⟨2, 1, 3, false, []⟩), (1, ⟨2, 0, 3, true, []⟩)], cells := [(0, ⟨0, 2, 0, 0, [(1, 9)]⟩)], trvdata := 0 } }

theorem witness_CountersAndSemaphoresActAtomically : let s := sync
    s.tagsFull 1 = false ∧ s.tableFull dupTrivet 1 = false ∧ s.relaxed = false ∧ s.accesses = [] ∧ s.syncElemOf kCounter (s.rx 6) = some 0 ∧ (s.rx 7).toNat ≤ (s.counter 0).toNat ∧ (s.counter 0).toNat < (s.rx 13).toNat ∧
    s.syncElemOf kSem (s.rx 10) = some 0 ∧ (s.sem 0).waiters = [] ∧ (s.rx 7).toNat ≤ (s.sem 0).value.toNat ∧ (s.sem 0).value.toNat < (s.rx 13).toNat ∧
    s.syncElemOf kCounter (s.rx 10) = none ∧ s.syncElemOf kCounter 0x10000100 = none ∧ s.syncElemOf kSem (s.rx 6) = none := by
  try dsimp only
  and_intros <;> decide +kernel

theorem witness_BarriersAndCellsCloseTheirRounds : let s := sync
    s.tagsFull 1 = false ∧ s.tableFull dupTrivet 1 = false ∧ s.relaxed = false ∧ s.accesses = [] ∧ s.syncElemOf kBarrier (s.rx 8) = some 0 ∧ (s.barrier 0).n ≠ 0 ∧ (s.barrier 0).broken = false ∧ (s.barrier 0).arrived + 1 = (s.barrier 0).n ∧
    (s.barrier 0).phase.toNat = (s.rx 7).toNat % 2 ^ 32 ∧ (s.barrier 0).phase.toNat ≠ (s.rx 13).toNat % 2 ^ 32 ∧
    s.syncElemOf kBarrier (s.rx 9) = some 1 ∧ (s.barrier 1).n ≠ 0 ∧ (s.barrier 1).broken = true ∧ s.syncElemOf kBarrier (s.rx 12) = some 2 ∧ (s.barrier 2).n = 0 ∧
    s.cellElem 11 0 = some 0 ∧ (s.cell 0).refuses (s.rx 0) = false ∧ (s.cell 0).n ≤ (s.rx 7).toNat ∧ (∃ x ∈ (s.cell 0).contrib, x.1 = 1) ∧
    (s.rx 0).toNat % 2 ^ 32 ≤ (s.cell 0).rounds.toNat ∧ (s.cell 0).rounds.toNat < (s.rx 7).toNat % 2 ^ 32 ∧ s.cellElem 11 1 = none := by
  try dsimp only
  and_intros <;> decide +kernel

theorem witness_TrivetStepsCompleteWaitersAndResets : let s := sync
    (s.waits (.scntwait 5 6 13 false)).hart.wait = some (.scntwait 5 6 13 false) ∧ (s.waits (.sbarwait 5 8 7 false)).hart.wait = some (.sbarwait 5 8 7 false) ∧
    (s.waits (.sredget 5 11 7 0 false)).hart.wait = some (.sredget 5 11 7 0 false) ∧
    ((after (.ssemacq 5 10 13 false) s).sem 0).waiters = (s.hart.id, 8) :: [] ∧ (after (.ssemacq 5 10 13 false) s).hart.wait = some (.ssemacq 5 10 13 false) ∧
    (4095 < 4096 ∧ 65535 < 65536 ∧ 2559 < 2560 ∧ 1023 < 1024 ∧ (1 : Nat) ≤ 1536) := by
  try dsimp only
  and_intros <;> decide +kernel

/-- Ranges that a copy names pass their checks, with open gates. -/
theorem ranges_of {s : State} {o : CopyOp} (h : (match s.copyRanges o with
      | .ok r => (r.1.map (·.2) ++ r.2.1.map (·.2) ++ r.2.2.toList).all fun p => decide (s.gate p = .opened)
      | .error _ => false) = true) :
    ∃ src dst flag, s.copyRanges o = .ok (src, dst, flag) ∧ ∀ p ∈ src.map (·.2) ++ dst.map (·.2) ++ flag.toList, s.gate p = .opened := by
  split at h
  next r hr => exact ⟨r.1, r.2.1, r.2.2, hr, fun p hp => of_decide_eq_true (List.all_eq_true.mp h p hp)⟩
  next => simp at h

/-- Slots of a ring that pass their checks. -/
theorem slots_of {s : State} {d : QueueDesc} {t : Word} {c : Nat} (h : (match s.slotPlaces d t c with | .ok _ => true | .error _ => false) = true) :
    ∃ l, s.slotPlaces d t c = .ok l := by
  split at h
  next l hl => exact ⟨l, hl⟩
  next => simp at h

/-- A vector hart with a memory strip at 0x200 and a buffer at 0x1000 of its scratchpad. -/
def strip (n : Word) : State := ((vec n).wx 10 (vsp 0x200)).wx 12 (vsp 0x1000)

/-- A copy command with nothing to do. -/
def aCopy : CopyCmd := ⟨0, 0, 0, [], [], 0, none, 0, .done, false, false, false, 0, 0, false, false, false, Kept.zero⟩

/-- A strip of 4 elements and one of none, in and out; handles in each state; a copy to an empty and to a full queue, and one to queue 8. -/
theorem witness_EngineCommandsBeginTheirTransfer : let s := strip 4; let z := strip 0; let o : StreamOp := ⟨false, 3, 10, 0, 12, 0, 0, false, 0, true⟩
    let f := fun st => s.onHart fun h => h.setHandle 3 ⟨0x1000, 512, st⟩; let c := (((s.wx 14 (vsp 0x200)).wx 15 64).wx 16 (vsp 0x2000)).wx 18 (vsp 0x3000)
    let full := c.updDie 0 fun d => { d with copies := d.copies.set 0 (List.replicate 64 aCopy) }
    s.streamBuffer o = some (0x1000, 512) ∧ s.streamBuffer { o with out := true } = some (0x1000, 512) ∧ (f .full).streamBuffer { o with out := true, xc := 0 } = some (0x1000, 512) ∧
    z.streamBuffer o = some (0x1000, 0) ∧ s.caching = false ∧ 0 < s.hart.vl ∧ z.hart.vl = 0 ∧
    (∀ i ∈ List.range s.hart.vl, s.probe (s.streamAddr o i) 4 4 .read = .ok (unitSpot i) ∧ s.gate (unitSpot i) = .opened) ∧
    s.hart.level = .app ∧ (sup []).hart.level = .sup ∧ ¬ ((s.hart.handle 3).state = .filling ∨ (s.hart.handle 3).state = .draining) ∧
    ((f .filling).hart.handle 3).state = .filling ∧ ((f .filling).hart.handle 3).state.code ≠ (2 : BitVec 5).toNat ∧ ((f .full).hart.handle 3).state = .full ∧
    ((f .draining).hart.handle 3).state ≠ .full ∧
    c.copyLegal ⟨0, 14, 16, 18, 0, true⟩ = true ∧ (c.copyQueue 0 0).length < 64 ∧ c.tagsFull 1 = false ∧ 64 ≤ (full.copyQueue 0 0).length ∧ full.copyLegal ⟨0, 14, 16, 18, 0, true⟩ = true ∧
    (∃ src dst flag, c.copyRanges ⟨0, 14, 16, 18, 0, true⟩ = .ok (src, dst, flag) ∧ ∀ p ∈ src.map (·.2) ++ dst.map (·.2) ++ flag.toList, c.gate p = .opened) ∧
    (c.waits (.xcopy 0 14 16 18 0 0 true)).hart.wait = some (.xcopy 0 14 16 18 0 0 true) ∧ c.copyLegal ⟨8, 14, 16, 18, 0, true⟩ = false := by
  dsimp only
  refine ⟨?_, ?_, ?_, ?_, ?_, ?_, ?_, probes_of (by decide +kernel), ?_, ?_, ?_, ?_, ?_, ?_, ?_, ?_, ?_, ?_, ?_, ?_, ranges_of (by decide +kernel), ?_, ?_⟩ <;> decide +kernel

/-- The vector hart with a queue descriptor for 16 F32 values at 0x400, its ring at 0x800, with so many claimed. -/
def queue (claimed : Nat) : State :=
  let s := (vec 4).wx 10 (vsp 0x400)
  { s with mem := Memory.put s.mem (locVsp 0 0 0x400) (leBytes 8 (vsp 0x800).toNat ++ leBytes 8 16 ++ leBytes 8 claimed ++ leBytes 8 claimed ++ leBytes 32 0) }

theorem witness_AppendsClaimSlotsAndWriteThem : let s := queue 12; let o : AppendOp := ⟨some 1, 10, 0, 0, false⟩; let d := s.descAt (spot 0x400).loc
    s.hart.level = .app ∧ (s.rx 10).toNat % 64 = 0 ∧ o.legal s.hart = true ∧ AppendOp.legal ⟨none, 10, 0, 0, false⟩ s.hart = true ∧ s.caching = false ∧ s.probe (s.rx 10) 64 64 .write = .ok (spot 0x400) ∧
    s.probe (s.rx 10) 64 64 .read = .ok (spot 0x400) ∧
    s.gate (spot 0x400) = .opened ∧ (spot 0x400).reg = none ∧ capacityOk d.cap = true ∧ inboxSize d.ty ≠ 0 ∧ (activeElems s.hart 0).length ≤ d.cap ∧ s.ringFault d = none ∧ activeElems s.hart 0 ≠ [] ∧
    s.tagsFull (activeElems s.hart 0).length = false ∧ d.room (activeElems s.hart 0).length = true ∧ s.modeOf 0 ≠ .sr ∧ s.accesses = [] ∧ (∃ l, s.slotPlaces d d.claimed (activeElems s.hart 0).length = .ok l) ∧
    ((queue 13).descAt (spot 0x400).loc).room (activeElems (queue 13).hart 0).length = false ∧ (queue 13).ringFault ((queue 13).descAt (spot 0x400).loc) = none ∧
    (s.waits (.vappend 1 10 0 0 false 0)).hart.wait = some (.vappend 1 10 0 0 false 0) := by
  dsimp only
  refine ⟨?_, ?_, ?_, ?_, ?_, ok_of (by decide +kernel), ok_of (by decide +kernel), ?_, ?_, ?_, ?_, ?_, ?_, ?_, ?_, ?_, ?_, ?_, slots_of (by decide +kernel), ?_, ?_, ?_⟩ <;> decide +kernel

/-- The vector hart on a die whose table copy gives expert 0 an active replica 0 there, with an inbox in the die's scratchpad; v10 holds that handle. -/
def routed : State :=
  let s := withV (withV (vec 2) 10 17 [0, nullHandle]) 11 17 [0, 0]
  s.updDie 0 fun d => { d with cache := [(0, { Expert.zero with reps := Expert.zero.reps.set 0 { Replica.zero with state := 1, inbox := vsp 0x400 } })] }

theorem witness_RoutingScatterAndBlockQuantisation : let s := routed; let h := s.hart
    h.level = .app ∧ h.scatrLegal 1 10 0 = true ∧ s.tagsFull 1 = false ∧ s.isAbsent (dieOf h.id) = false ∧ s.modeOf 0 ≠ .sr ∧ activeElems h 0 = [0, 1] ∧ h.elem 10 0 = 0 ∧
    (∀ k ∈ activeElems h 0, s.handleFault (dieOf h.id) (BitVec.ofNat 64 (h.elem 10 k)) = none) ∧
    VecReady s ∧ h.routeLegal 12 3 11 = true ∧ h.mxLegal 8 9 1 15 = true ∧ (∃ d u, s.seedFor (s.modeOf 0) true h.vl = .ok (d, u)) := by
  dsimp only
  refine ⟨?_, ?_, ?_, ?_, ?_, ?_, ?_, ?_, ?_, ?_, ?_, ⟨_, _, rfl⟩⟩ <;> (try unfold VecReady) <;> decide +kernel

/-- The hart whose unit-stride access from x10 leaves its page at element 3, with byte offsets in v9, and the places of the elements below. -/
def edge : State := withV (((paged (vec 4)).wx 10 0x21FFFF4).wx 11 4) 9 0x13 [0, 4, 8, 12]
def edgeSpot (i : Nat) : Place := ⟨0x3FFFF4 + 4 * i, none, false, none, none⟩

/-- The premises of a first failure, by their checks. -/
theorem fails_of {s : State} {a : Nat → Word} {n : Nat} {kind : AKind} {m : MReg} {p : Nat → Place} {k : Nat} {c : Cause}
    (h : (decide (s.caching = false ∧ s.relaxed = false ∧ k ∈ activeElems s.hart m ∧ c ≠ .illegalOperand ∧ c ≠ .illegalInstruction) &&
      (match s.probe (a k) n n kind with | .ok _ => false | .error d => decide (d = c)) &&
      (activeBelow s.hart m k).all fun i => (match s.probe (a i) n n kind with | .ok q => decide (q = p i) | .error _ => false) && decide (s.gate (p i) = .opened)) = true) :
    FirstFailure s a n kind m p k c := by
  simp only [Bool.and_eq_true, decide_eq_true_eq] at h
  obtain ⟨⟨⟨hc, hr, hk, h1, h2⟩, he⟩, hb⟩ := h
  exact ⟨hc, .inl hr, hk, h1, h2, error_of he, fun i hi hik => probes_of hb i (by simp [activeBelow, hi, hik])⟩

/-- Empty duplicate tables have room for 8,192 entries or fewer. -/
theorem roomy_of {s : State} (h : s.duplicates = []) {l : List Nat} (hl : l.length ≤ 8192) : s.slicesFull l = false := by
  simp only [State.slicesFull, State.tableFull, h, List.filter_nil, List.length_nil, List.any_eq_false, decide_eq_true_eq]
  intro a _
  have := List.length_filter_le (fun b => dupSlice b == dupSlice a) l
  omega

/-- A load, a store and a VAMO that trap at element 3, one that is trimmed there, one that fails at its first element; the drain; a VSCATR whose second handle fails. -/
theorem witness_VectorAccessesTrapOrTrimAtTheirFirstFailure : let s := edge; let h := s.hart; let t := (vec 4).wx 10 (vsp 0xFFFF4); let f := (vec 4).wx 10 (vsp 0x100000); let d := mat.wx 10 (vsp 0xFFFF4)
    let unit := fun (s : State) i => s.rx 10 + BitVec.ofNat 64 (i * 32 / 8); let near := fun i => spot (0xFFFF4 + 4 * i); let r := withV routed 10 17 [0, 0xFFFF]
    (h.level = .app ∧ h.fits (mkTag 0 false) = true ∧ h.fits (h.tagOf 1) = true ∧ tagCrumb (h.tagOf 1) = false ∧ h.indexOk 9 = true ∧ Memory.wf s.mem = true ∧ (∀ i, (edgeSpot i).reg = none) ∧
      FirstFailure s (unit s) 4 .read 0 edgeSpot 3 (.pageFault .read) ∧ FirstFailure s (unit s) 4 .write 0 edgeSpot 3 (.pageFault .write) ∧
      FirstFailure s (fun i => s.rx 10 + BitVec.ofNat 64 (h.elem 9 i)) 4 .write 0 edgeSpot 3 (.pageFault .write) ∧ activeBelow h 0 3 = [0, 1, 2] ∧ Cause.trims (.pageFault .write) = false ∧
      h.vamoLegal 3 9 19 = true ∧ s.tagsFull 4 = false ∧ s.slicesFull ((activeBelow h 0 3).map fun i => (edgeSpot i).loc) = false ∧ s.frmMode ≠ .sr) ∧
    (FirstFailure t (unit t) 4 .read 0 near 3 (.windowRange .read) ∧ FirstFailure t (unit t) 4 .write 0 near 3 (.windowRange .write) ∧ Cause.trims (.windowRange .read) = true ∧
      FirstFailure f (unit f) 4 .read 0 near 0 (.windowRange .read) ∧ FirstFailure f (unit f) 4 .write 0 near 0 (.windowRange .write) ∧ activeBelow f.hart 0 0 = []) ∧
    (FirstFailure d (fun e => d.rx 10 + BitVec.ofNat 64 (e / d.hart.lanes) * d.rx 11 + BitVec.ofNat 64 (e % d.hart.lanes * 32 / 8)) 4 .write 0 near 3 (.windowRange .write) ∧
      d.hart.vec.matrix = true ∧ tresOk 0 = true ∧ d.hart.vl ≤ 64 * d.hart.lanes ∧ d.modeOf 0 ≠ .sr) ∧
    (r.hart.scatrLegal 1 10 0 = true ∧ r.relaxed = false ∧ r.modeOf 0 ≠ .sr ∧ activeElems r.hart 0 = [0, 1] ∧ activeBelow r.hart 0 1 = [0] ∧
      r.handleFault (dieOf r.hart.id) (BitVec.ofNat 64 (r.hart.elem 10 0)) = none ∧ r.handleFault (dieOf r.hart.id) (BitVec.ofNat 64 (r.hart.elem 10 1)) = some (.permission .write, 0xFFFF) ∧
      r.tagsFull 1 = false) := by
  dsimp only
  refine ⟨⟨?_, ?_, ?_, ?_, ?_, ?_, fun _ => rfl, fails_of (by decide +kernel), fails_of (by decide +kernel), fails_of (by decide +kernel), ?_, ?_, ?_, ?_, roomy_of (by decide +kernel) (by decide +kernel), ?_⟩,
    ⟨fails_of (by decide +kernel), fails_of (by decide +kernel), ?_, fails_of (by decide +kernel), fails_of (by decide +kernel), ?_⟩,
    ⟨fails_of (by decide +kernel), ?_, ?_, ?_, ?_⟩, ⟨?_, ?_, ?_, ?_, ?_, ?_, ?_, ?_⟩⟩ <;> decide +kernel

/-- A hart of a gang of one member, with an instance of GSTREAM, or of GBCAST, whose strip is there. -/
def ganged (o : GangOp) : State :=
  let s := (vec 4).wx 10 (vsp 0x200)
  (s.onHart fun h => { h with csr := { h.csr with gangsize := 2, gangrank := 1 } }).setLaunch fun l =>
    { l with gangs := [⟨0, 0, [5, 0], [], 0, [{ o.opened 0 4 with data := some 5 }]⟩] }

theorem witness_GangInstructionsCountTheirMembers : let o : GangOp := ⟨true, 8, 1, 0, 0, 0, vsp 0x200⟩; let b : GangOp := ⟨false, 8, 1, 0, 0, 0, 0⟩
    ∃ g x y, (ganged o).gang (ganged o).hart.job.gang = some g ∧ (ganged o).gangLegal o g = true ∧ (g.insts.find? fun y => y.index == (ganged o).hart.job.ginst) = some x ∧
      x.agrees o (ganged o).hart.vl = true ∧ x.data.isSome = true ∧ (∃ k, (ganged b).gang 0 = some k ∧ (ganged b).gangLegal b k = true ∧ (k.insts.find? fun y => y.index == 0) = some y) ∧
      y.agrees b (ganged b).hart.vl = true ∧ y.data.isSome = true ∧ g.selects 1 0 0 = true ∧ (ganged b).hart.csr.gangrank.toNat ≠ 0 ∧ (vec 4).gang 0 = none := by
  refine ⟨_, _, _, rfl, ?_, rfl, ?_, ?_, ⟨_, rfl, ?_, rfl⟩, ?_, ?_, ?_, ?_, ?_⟩ <;> decide +kernel

theorem witness_EventPopsAndHalt : let s := (app 0 3 [(6, vsp 0x200)]).onHart fun h => { h with events := ⟨[⟨0, ⟨4, 0, 9⟩⟩], 1, none, []⟩ }
    (app 0 3 []).hart.events.recs = [] ∧ s.hart.events.recs = ⟨0, ⟨4, 0, 9⟩⟩ :: [] ∧ s.probe (s.rx 6) 16 16 .write = .ok (spot 0x200) ∧ (s.cachePage (s.rx 6)).gate (spot 0x200) = .opened ∧
    (spot 0x200).reg = none ∧ s.relaxed = false ∧ Memory.wf s.mem = true ∧ (sup []).hart.level = .sup ∧ s.hart.level = .app ∧ s.haltWaits = false ∧
    (flying s [aStore]).haltWaits = true ∧ (flying s [aStore]).hart.level = .app ∧
    (let g := s.setLaunch fun l => { l with gangs := [⟨0, 0, [0], [], 0, []⟩] }; g.gang g.hart.job.gang = some ⟨0, 0, [0], [], 0, []⟩ ∧ g.hart.csr.gangrank.toNat = 0 ∧ [0].length = 1) := by
  try dsimp only
  and_intros <;> first | decide +kernel | exact ok_of (by decide +kernel) | exact error_of (by decide +kernel) | exact decodes_of (by decide +kernel)

/-- A launch record for one gang of one hart in context 7 that waits for nothing. -/
def oneHart : List Byte := List.replicate 16 0 ++ [1, 0, 0, 0, 1, 0, 0, 0, 1, 0, 0, 0, 1, 0, 1, 1, 0, 0, 0, 0, 7, 0, 0, 0] ++ [255, 255, 255, 255, 0, 0, 0, 0, 255, 255, 255, 255] ++ List.replicate 12 0

/-- A hart of context 7 with a one-hart record at 0x400, and queue 63 open to device pushes of that context, in a DEPLOYED package. -/
def launching : State :=
  let s := (app 0 3 [(6, vsp 0x400), (7, 63)]).onHart fun h => { h with sup := { h.sup with ctxid := 7 } }
  let s := { s with mem := Memory.put s.mem (locVsp 0 0 0x400) oneHart }
  ((s.updQueue 63 fun k => { k with opened := true, devpush := true, own := 7, weight := 1, credit := 1, prio := 2 }).setLaunch fun l =>
    { l with ctxs := [(7, { CtxEntry.zero with valid := true })] }).setMgmt fun m => { m with lcstate := 2, fill := false }

theorem witness_LaunchOffersItsRecord : let s := launching; let r := parseRecord (Memory.bytes s.mem (spot 0x400).loc 64) (some ⟨s.hart.sup.ctxid, s.hart.tags.issuer, s.rx 6⟩); let k := s.queue 63
    s.accesses = [] ∧ s.probe (s.rx 6) 64 64 .read = .ok (spot 0x400) ∧ (s.cachePage (s.rx 6)).gate (spot 0x400) = .opened ∧ (spot 0x400).reg = none ∧ (s.rx 7).toNat < 64 ∧
    k.opened = true ∧ k.devpush = true ∧ s.launchesAllowed = true ∧ r.ctx = k.own ∧ r.ctx = s.hart.sup.ctxid ∧ s.recordOk r = true ∧ k.recs.length < 256 ∧ 64 ≤ (s.rx 6).toNat ∧
    (s.queue 0).opened = false ∧ (s.wx 7 0).rx 7 = 0 ∧ 64 ≤ ((s.wx 7 64).rx 7).toNat ∧ (s.updQueue 63 fun k => { k with recs := List.replicate 256 ⟨r, 0, 0⟩ }).launchesAllowed = true ∧
    256 ≤ ((s.updQueue 63 fun k => { k with recs := List.replicate 256 ⟨r, 0, 0⟩ }).queue 63).recs.length ∧
    (let b : State := { s with mem := Memory.put s.mem (locVsp 0 0 0x41C) [0] }; let x := parseRecord (Memory.bytes b.mem (spot 0x400).loc 64) none
      b.recordOk x = false ∧ x.ctx = (b.queue 63).own) := by
  try dsimp only
  and_intros <;> first | decide +kernel | exact ok_of (by decide +kernel) | exact error_of (by decide +kernel) | exact decodes_of (by decide +kernel)

/-- Hart 0 is the target of its own LANECAP; position 1 is another package. -/
theorem witness_LaneCapsAndGenerations : let s := sup [(7, 8), (8, 9), (9, 0x800)]; let b := { s with bumps := [⟨0, 5, []⟩] }
    s.hart.level = .sup ∧ (s.rx 6).toNat < 2 ^ 17 ∧ s.ownHart (s.rx 6).toNat = some ((s.rx 6).toNat % 2048) ∧ (s.hartById ((s.rx 6).toNat % 2048) = some s.hart ∧ s.hart.bound = true) ∧
    1 ≤ (s.rx 7).toNat ∧ (s.rx 7).toNat ≤ 8 ∧ 8 < (s.rx 8).toNat ∧ (s.rx 6).toNat = 0 ∧ s.ownHart (s.rx 9).toNat = none ∧
    (b.bumps.find? fun b => b.hart == s.hart.id) = some ⟨0, 5, []⟩ ∧ (s.bumps.find? fun b => b.hart == s.hart.id) = none ∧ s.accesses = [] ∧ s.busyCores ≠ [] ∧
    2 ^ 16 ≤ ((s.wx 5 0x10000).rx 5).toNat ∧ s.translatedWork (BitVec.ofNat 16 5) 0 = false := by
  refine ⟨?_, ?_, ?_, ⟨rfl, rfl⟩, ?_⟩ <;> (and_intros <;> decide +kernel)

/-! An image and a token signed with one key, made outside Lean; slot 0 of the fuses holds the SHA-256 of its public key. -/

/-- SHA-256 of the public key. -/
def keyDigest : BitVec 256 := 0x9d31f5f0a2c6f5eb6a484a49becca5e8a6c2b3920e9d61707da2fcebd32a88cb

/-- A header of kind 1 (first stage) with no payload, signed. -/
def stageImage : List Byte := leBytes 192
  0x9819ff642028806f3d4374aa8851d0b111bad0c9af4527c5beabe49f82ee7d3da4fa94aeae1337083c61c616dd45267b10de6b93b6be97a5d10f875efb345e42dd520f7aca8a8b917acc37f51de8f0c9bbe3ad858382e702dc25a12d09f7a858471c3e758c4904285bba7e53118ed0f524adeb0757d25bd2f8e7b0d76dfa714c0000000000000000000000000000000000000000000000000000000000000000000000000000000000000000000000000000000000000000000000014b584931

/-- An image of kind 4: an EXP reduction with one row of degree 1 and one step, VADDI v0, v0, 0, signed. -/
def sfBytes : List Byte := leBytes 320
  0xe0000000000000000000000000000000000000000000000000000000000000000000000000000000000000000000000000000000000000000000000000000000000000000000000000000000010000000000000000000000000000000001000001950be7dcd70f711eff007b622d40c2386ec4d7ac588d47f2433b97ef2c2cb3b6a4fa94aeae1337083c61c616dd45267b10de6b93b6be97a5d10f875efb345e42dd520f7aca8a8b917acc37f51de8f0c9bbe3ad858382e702dc25a12d09f7a858471c3e758c4904285bba7e53118ed0f524adeb0757d25bd2f8e7b0d76dfa714c0000000000000000000000000000000000000000000000000000000000000000000000000000000000000000000000000000000000000080000000044b584931

/-- A token for MANUFACTURE to PROVISIONED with serial 0 and OWNER_NEW = 7, signed. -/
def tokenNum : BitVec 2048 :=
  0xd685331b8c8e5d84711b8352dad5d133722c2b5e6485e266f436e7710f758b4aa4fa94aeae1337083c61c616dd45267b10de6b93b6be97a5d10f875efb345e420000000000000000000000000000000000000000000000000000000000000000000000000000004c71fa6dd7b0e7f8d25bd25707ebad24f5d08e11537eba5b2804498c753e1c4702070000000000000000000000000000000000000000000000000000000000000000000000000000000000000000000000000101004b584c43

/-- Fuses with that key in slot 0, none revoked, no minimum version. -/
def fused : Fuses := ⟨0, Vector.replicate 4 keyDigest, Vector.replicate 4 false, Vector.replicate 4 0, 0⟩

/-- A supervisor hart whose save area lies in local memory, in context 0 or in context 7, and one whose area lies beyond installed memory. -/
def saving (ctx : BitVec 32) (base : Word) : State := (sup []).onHart fun h => { h with sup := { h.sup with ctxid := ctx, ifrbase := base } }

/-- A record with no entry. -/
def noEntries : Ifr := ⟨0, 0, 0, 0, 0, 0, 8, 0, [], [], [], [], 0, 0⟩

/-- What a test of every element of a list shows. -/
theorem all_of {α : Type} {l : List α} {P : α → Prop} [DecidablePred P] (h : (l.all fun p => decide (P p)) = true) : ∀ p ∈ l, P p := by
  simpa using h

/-- Without poison and re-encryption the lines of a save area in local memory are open. -/
theorem opened_of {s : State} {lo hi : Nat} (hu : s.mgmt.unitsOut = []) (hp : s.hbm.poison = []) (ho : s.hbm.overflow = []) (hb : s.areaPa lo + (hi - lo) + 63 < 2 ^ 40) :
    ∀ p ∈ s.areaPlaces lo hi, s.gate p = .opened := by
  intro p h
  simp only [State.areaPlaces, List.mem_map, List.mem_range] at h
  obtain ⟨k, hk, rfl⟩ := h
  have he : s.areaPa (lo + 64 * k) = s.areaPa lo + 64 * k := (Nat.add_assoc _ _ _).symm
  have ht : s.target (s.areaPa (lo + 64 * k)) = .hbm (s.areaPa lo + 64 * k) := by rw [he]; exact if_pos (by omega)
  have hr : s.reachable (s.physPlace none true (s.areaPa (lo + 64 * k))) = true := by
    unfold State.reachable State.physPlace
    simp only [ht]
  unfold State.gate State.isPoisoned State.linePoisoned State.deadLine State.deadChannels State.isHeld
  rw [hr, hu, hp, ho]
  cases hbmLine _ <;> rfl

theorem witness_RecordsAreSavedWithinTheirArea : let s := saving 7 0x100000; let z := saving 0 0x100000; let b := saving 7 0x4000000000000
    let f := fun (u : State) => u.onHart fun h => { h with ifr := some noEntries, freeze := .frozen }
    s.hart.level = .sup ∧ s.accesses = [] ∧ (f s).hart.ifr = some noEntries ∧ (f s).hart.freeze ≠ .begun ∧ (f s).hart.freeze ≠ .settling ∧ s.areaFault 0x48000 0x9B000 = none ∧
    (∀ p ∈ s.areaPlaces 0x48000 0x9B000, s.gate p = .opened) ∧ s.hart.ifr = none ∧ s.hart.freeze = .none ∧ b.areaFault 0x48000 0x9B000 = some 0x4000000048000 ∧
    s.areaNum 0x48010 4 ≠ s.hart.sup.ctxid.toNat ∧ z.areaNum 0x48010 4 = z.hart.sup.ctxid.toNat ∧ z.areaNum 0x4801A 2 ≤ 512 ∧
    (∀ e ∈ z.loadRecord.entries, e.wellFormed (z.areaNum 0x4801E 1) = true) ∧ (f s).hart.freeze = .frozen ∧ s.areaFault 0 0x48000 = none ∧
    (∀ p ∈ s.areaPlaces 0 0x48000, s.gate p = .opened) ∧ Memory.wf s.mem = true ∧ s.hart.freeze ≠ .frozen ∧ bitsOf (s.areaNum 0x1E8 8) 11 8 ≤ octetCount s.hart.vec.octets := by
  dsimp only
  and_intros <;> first | exact opened_of rfl rfl rfl (by decide +kernel) | decide +kernel

/-- A supervisor hart with an image in local memory at 0x20_0000, under fuses that hold its key. -/
def loading (b : List Byte) : State := { sup [(6, 0x200000), (7, 63), (8, 64), (9, 0x4000000000000)] with fuses := fused, mem := ((b.zipIdx 0x200000).filter fun p => p.1 != 0).map fun p => (p.2, p.1) }

theorem witness_ImagesAndSegmentsAreInstalled : let s := loading sfBytes; let w := loading stageImage; let z := loading []
    let u := s.updCore 0 0 fun c => { c with window := [{ aWindow s 0 with insn := .vsf 1 2 33 0 true false }] }
    s.sfInUse (s.rx 7).toNat = false ∧ u.sfInUse 33 = true ∧ s.hart.level = .sup ∧ s.accesses = [] ∧ 63 < (s.rx 8).toNat ∧ 32 ≤ (s.rx 7).toNat ∧ (s.rx 7).toNat ≤ 63 ∧ s.firstAbsent 0x200000 0xC0 = none ∧
    0xC0 + leField (Memory.bytes s.mem (s.physLoc none 0x200000) 0xC0) 8 8 = 320 ∧ s.firstAbsent 0x200000 320 = none ∧ (∀ p ∈ s.paPlaces 0x200000 320, s.gate p = .opened) ∧
    s.imageBytes 0x200000 = sfBytes ∧ fused.checkImage 4 sfBytes = 0 ∧ (sfImage (sfBytes.drop 0xC0) (sha256 sfBytes)).isSome = true ∧
    w.fuses.checkImage 4 (w.imageBytes 0x200000) = 4 ∧ z.fuses.checkImage 4 (z.imageBytes 0x200000) = 1 ∧ s.firstAbsent (s.rx 9).toNat 0xC0 = some 0x4000000000000 ∧
    mat.hart.level = .app ∧ mat.hart.vec.matrix = true ∧ mat.hart.lenders = [] ∧ (vec 4).tileOk 2 1 15 = true ∧ (vec 4).lent = false := by
  try dsimp only
  and_intros <;> first | exact all_of (by decide +kernel) | decide +kernel

/-- An access to perform, one that a horizon makes stale, a performed load and a performed store, and waiting harts with events. -/
theorem witness_OutstandingAccessesAndWaitsComplete : let s := flying (app 0 3 []) [aStore, aLoad]; let t := { s with horizons := [(0, 0, 0)] }
    let p := flying (app 0 3 []) [{ aLoad with performed := true }, { aStore with performed := true }]
    let e := fun (v : EventQueue) => (app 0 3 []).onHart fun h => { h with events := v }
    s.accesses[0]? = some aStore ∧ s.accesses[1]? = some aLoad ∧ aStore.performed = false ∧ aStore.unsent = false ∧ ({ aStore with loc := 0x4000 } : Access).unsent = true ∧ (∀ b ∈ s.accesses.take 0, b.before aStore = false) ∧ s.stale aStore.ctx aStore.issuer aStore.epoch aStore.replay = false ∧
    (flying s [aLoad]).accesses[0]? = some aLoad ∧ aLoad.op = .load 6 4 true ∧ t.stale aStore.ctx aStore.issuer aStore.epoch aStore.replay = true ∧
    p.accesses[0]? = some { aLoad with performed := true } ∧ aLoad.hart = p.hart.id ∧ (aLoad.sup = true ∨ p.hart.freeze ≠ .frozen) ∧ aLoad.sup = decide (p.hart.level = .sup) ∧
    p.accesses[1]? = some { aStore with performed := true } ∧ aStore.op = .store [1, 2, 3, 4] ∧ aLoad.op.xTarget = some 6 ∧ s.heldAtTarget aStore = false ∧
    (flying (app 0 3 []) [{ aStore with op := .vload 1 0 4 none, side := 1, elem := some (0, 0), performed := true }]).accesses[0]? ≠ none ∧
    (flying (app 0 3 []) [{ aStore with op := .amo 6 0 1 0 }]).heldAtTarget { aStore with op := .amo 6 0 1 0 } = false ∧ ({ aStore with op := .amo 6 0 1 0 } : Access).unsent = false ∧
    s.arrivalGate aStore.loc false = .opened ∧ s.isPoisoned aStore.loc = false ∧ (s.ctxEntry aStore.ctx.toNat).killed = false ∧ (∀ d ∈ [0], windowDie aStore.loc = some d) ∧
    ((s.updDie 0 fun d => { d with state := 1 }).die 0).state ≠ 0 ∧ windowDie 0x4000 = none ∧
    ({ s with hbm := { s.hbm with poison := [(0x100, 1)] } } : State).isPoisoned 0x4000 = true ∧
    ({ s with hbm := { s.hbm with overflow := [4] } } : State).arrivalGate 0x403F false = .held ∧
    ({ s with duplicates := [⟨0, 0, 0, 0, 9⟩] } : State).duplicates[0]? = some ⟨0, 0, 0, 0, 9⟩ ∧
    s.hart.level = .app ∧ (s.waits (.fence 3 3)).hart.wait = some (.fence 3 3) ∧ (s.waits .modeV).hart.wait = some .modeV ∧
    (e ⟨List.replicate 63 ⟨0, ⟨1, 0, 0⟩⟩, 0, some ⟨5, 0, 0⟩, []⟩).hart.events.recs.length < 64 ∧ (e ⟨[], 0, some ⟨5, 0, 0⟩, []⟩).hart.events.held = some ⟨5, 0, 0⟩ ∧
    (e ⟨[], 0, none, [⟨⟨1, 0, 0⟩, .engine 0⟩]⟩).hart.events.held = none ∧ (e ⟨[], 0, none, [⟨⟨1, 0, 0⟩, .engine 0⟩]⟩).hart.events.stalled = ⟨⟨1, 0, 0⟩, .engine 0⟩ :: [] := by
  try dsimp only
  and_intros <;> first | exact all_of (by decide +kernel) | decide +kernel

/-- A train of one value for the inbox of expert 0, and an element on its way through the hub. -/
def aTrain : Train := ⟨0, 0, 0, 0, 0, [(0, 5)], 1, 0, false, false, false, Kept.zero⟩
def aRedirect : Redirect := ⟨0, 0, 0, 0, 5, 0⟩

/-- An expert whose replica 0 is active, with its inbox in die 0's scratchpad. -/
def anExpert : Expert := { Expert.zero with valid := true, reps := Expert.zero.reps.set 0 { Replica.zero with state := 1, inbox := vsp 0x400 } }

/-- Streams, copies, appends, trains and strips, each in the state that lets its step act. -/
theorem witness_EngineWorkCompletes : let s := { strip 4 with streams := [aStream] }; let d := { strip 4 with streams := [{ aStream with chunksDone := [0] }] }
    let c := fun (x : CopyCmd) => (vec 4).updDie 0 fun d => { d with copies := d.copies.set 0 [x] }; let o := { aCopy with overlap := true, executed := false }
    let q := { queue 12 with appends := [⟨0, 0, 0, locVsp 0 0 0x400, vsp 0x400, 12, 4, 0, .due, Kept.zero⟩] }; let t := fun (x : Train) => { routed with trains := [x] }
    let a := { (t aTrain) with ladle := { Ladle.zero with absent := 1 } }; let h := { (t aTrain) with horizons := [(0, 0, 0)] }
    let r := fun (l : Ladle) => { routed with redirects := [aRedirect], ladle := l }
    let g := (ganged ⟨true, 8, 1, 0, 0, 0, vsp 0x200⟩).onHart fun h => { h with strips := [⟨0, 8, 0, 4, Kept.zero⟩] }
    s.streamOf s.hart.id 3 = some aStream ∧ aStream.ready 0 = true ∧ s.isStalled (.engine 0) = false ∧ (∀ p ∈ aStream.chunkElems 0, s.arrivalGate p.2 false = .opened) ∧ aStream.post ≠ .due ∧ d.hart.takesEvents = true ∧ d.hart.events.hasRoom = true ∧ Memory.wf s.mem = true ∧ aStream.mask ≠ 0 ∧ d.streamOf d.hart.id 3 = some { aStream with chunksDone := [0] } ∧
    [0].length = aStream.chunks ∧ (∀ l ∈ [locVsp 0 0 0x200, 0x4000], let c := { aStream with locs := [l], count := 1, asked := [], answered := [] }; let s := { s with streams := [c] }
      (s.streams.find? fun c => c.core == 0 && c.nextLine.isSome) = some c ∧ c.nextLine = some (l / 64) ∧ s.lineReads 0 < 512) ∧
    siteOf 0 0 0x4000 = some .hub ∧ siteOf 0 0 (locVsp 0 0 0x200) = none ∧
    (c o).copyQueue 0 0 = o :: [] ∧ o.executed = false ∧ (c o).answered o.ctx o.issuer o.tag = false ∧ (c o).tableFull (dupCopies 0 0) 1 = false ∧ (∀ x ∈ o.places, (c o).arrivalGate x.1 false = .opened) ∧ q.arrivalGate (locVsp 0 0 0x400) false = .opened ∧ (c o).isStalled (.copies 0 0) = false ∧ o.flagged = false ∧
    o.post ≠ .stalled ∧ o.orphan = false ∧ (∀ h ∈ (c o).harts, h.id = o.hart → h.takesEvents = true ∧ h.events.hasRoom = true) ∧ (c { o with executed := true, flag := some (locVsp 0 0 0x300, 9) }).copyQueue 0 0 ≠ [] ∧
    q.appends[0]? = some ⟨0, 0, 0, locVsp 0 0 0x400, vsp 0x400, 12, 4, 0, .due, Kept.zero⟩ ∧ (q.descAt (locVsp 0 0 0x400)).committed = 12 ∧ q.isStalled (.append 0) = false ∧ q.tableFull (dupSlice (locVsp 0 0 0x400)) 4 = false ∧ (q.descAt (locVsp 0 0 0x400)).threshold = 0 ∧ Memory.wf q.mem = true ∧
    (t aTrain).trains[0]? = some aTrain ∧ (t aTrain).tableFull (dupInbox 0) 1 = false ∧ (t { aTrain with arrived := true }).answered 0 0 0 = false ∧
    ({ (t { aTrain with arrived := true }) with duplicates := [⟨dupInbox 0, 0, 0, 0, 0⟩] } : State).answered 0 0 0 = true ∧ h.stale aTrain.ctx aTrain.issuer (aTrain.tag.extractLsb' 16 8) false = true ∧
    (t aTrain).stale aTrain.ctx aTrain.issuer (aTrain.tag.extractLsb' 16 8) false = false ∧ (∀ p ∈ aTrain.elems, (t aTrain).goesToHub 0 p.1 = false) ∧ (∀ p ∈ aTrain.elems, a.goesToHub 0 p.1 = true) ∧
    (t { aTrain with arrived := true, elems := [] }).redirecting { aTrain with arrived := true, elems := [] } = false ∧
    (r Ladle.zero).redirects[0]? = some aRedirect ∧ ¬ (((r Ladle.zero).expert 0).eligibleAt 0).contains 0 ∧ repRetiring (((r Ladle.zero).expert 0).rep 0) = false ∧
    ((r { Ladle.zero with table := [(0, anExpert)] }).expert 0).eligibleAt 0 = [0] ∧
    (({ r { Ladle.zero with table := [(0, anExpert)] } with redirects := [] } : State).inboxAppend 0 0 (vsp 0x400) 0 [5]).isSome = true ∧
    (g.hart.strips.find? fun x => x.inst == 0) = some ⟨0, 8, 0, 4, Kept.zero⟩ ∧ ((g.instOf g.hart.job.gang 0).bind fun x => x.data) = some 5 ∧ g.stripAtPort g.hart ⟨0, 8, 0, 4, Kept.zero⟩ = false := by
  try dsimp only
  and_intros <;> first | exact all_of (by decide +kernel) | decide +kernel

/-- R321, R323: core 15 and DSM slice 15 sit at stop 5; a global load by core 27 goes from (1, 2) north through (1, 1) to the hub port at (1, 0), and its response south. -/
theorem test_mesh_route : coreSite 0 15 = .unit 0 5 0 ∧ sliceSite 0 15 = .unit 0 5 3 ∧ coreSite 0 27 = .unit 0 9 0 ∧ State.reset.exitOf 0 9 .hub = (1, 0) ∧
    ([9, 5, 1].map fun p => xyOut p (1, 0)) = [0, 0, 0] ∧ ([1, 5, 9].map fun p => xyOut p (State.reset.exitOf 0 p (coreSite 0 27))) = [2, 2, 5] := by decide +kernel

/-- R336: of a LAT and a BULK response at one output the LAT one goes first while LAT holds credit, else the BULK one. -/
theorem test_mesh_credit : let f : Nat → Nat → Flit := fun q vc => ⟨0, 0, none, q, ⟨.hub, coreSite 0 27, .access 0 0, vc, false, 0, 64⟩⟩
    let n := fun lat : Nat => { Noc.zero with ports := [(portKey 1 1 2, { Port.zero with flits := [f 0 2, f 1 0], credit := #v[lat, 0, 1] })] }
    ((n 1).grant 1 1 2).2 = some (f 1 0) ∧ ((n 0).grant 1 1 2).2 = some (f 0 2) := by decide +kernel

/-- The front end, a free and a waiting micro-op, a router with one flit, and a written NOCARB. -/
theorem witness_ResourcesChooseInTurn : let s := app 0 3 []; let w := fun (n : Nat) => s.updCore 0 0 fun c => { c with window := [aWindow s n] }
    let i := Instr.vadd 3 1 2 0 true true false; let l := (w 0).updCore 0 0 fun c => { c with window := [{ aWindow s 0 with unissued := [], issued := [0] }] }
    let f : Packet := ⟨coreSite 0 15, .hub, .access 60 0, 2, false, 0x100, 64⟩
    let p := s.updNoc 0 fun n => { n with ports := [(portKey 5 0 1, { Port.zero with flits := [⟨4, 0, none, 0, f⟩] })], pending := some 0x400214, crossing := [⟨5, 0, 2, f⟩], waiting := [(0, f)] }
    let o := s.updNoc 0 fun n => { n with ports := [(portKey 5 0 5, { Port.zero with flits := [⟨2, 0, none, 0, f⟩] })] }
    s.hartById (mkHartId 0 0 (((s.core 0 0).last + 1 + 3) % 4)) = some s.hart ∧ (s.swapTo 0).canIssue = true ∧
    (∀ k, k < 3 → s.hartById (mkHartId 0 0 (((s.core 0 0).last + 1 + k) % 4)) = none) ∧
    ((insnPipe i atVadd.hart).any fun p => atVadd.decodeRoom p &&
      ((nextState (atVadd.passDecode i p (runPipe i)) atVadd).windows 0).any fun w => w.age == atVadd.myCore.nextAge && w.facts == (0, 16, 1, 0, [], (List.range 15).map (· + 1))) = true ∧
    (match atVadd.fetch with | .insn j => j == i | _ => false) = true ∧ atVadd.frontEnd 0 0 = some 0 ∧ atVadd.hartById 0 = some atVadd.hart ∧ atVadd.hart.level = .app ∧
    ((l.coreNo 0).ofAge 5).isSome = true ∧ l.arriving (l.coreNo 0) { aWindow s 0 with unissued := [], issued := [0] } 0 = [0] ∧
    ((w 0).readyOps ((w 0).coreNo 0) 0 ≠ []) ∧ (∃ y ∈ (w 32).readyOps ((w 32).coreNo 0) 0, 32 ≤ y.2.2) ∧
    (p.die 0).noc.arriving 5 0 2 2 0 = some ⟨5, 0, 2, f⟩ ∧ (p.die 0).noc.hasRoom 5 0 2 2 = true ∧ p.localPacket 0 5 0 = some (0, f) ∧ Sparse.wf 5 (p.die 0).noc.lastUnit = true ∧
    ((o.die 0).noc.port 5 0 5).flits.filter ((o.die 0).noc.eligible 5 0 5) ≠ [] ∧ (∀ f ∈ ((s.die 0).noc.port 5 0 1).flits, (s.die 0).noc.eligible 5 0 1 f = false) ∧ neighbour 5 1 = some 6 ∧ ((p.die 0).noc.port 5 0 1).flits.filter ((p.die 0).noc.eligible 5 0 1) ≠ [] ∧
    (∀ f ∈ ((p.die 0).noc.port 5 0 1).flits, f.vc < 3) ∧ 0 < (p.die 0).noc.wlat ∧ 0 < (p.die 0).noc.wsync ∧ 0 < (p.die 0).noc.wbulk ∧ (p.die 0).noc.pending = some 0x400214 := by
  try dsimp only
  and_intros <;> first | exact all_of (by decide +kernel) | decide +kernel

/-- A record that queue 63 holds. -/
def queued : QueuedRec := ⟨parseRecord oneHart none, 0, 0⟩

/-- The package with BAR0 open, a record in queue 63, or that queue selected; a held write; a gang whose one member has halted. -/
theorem witness_LaunchQueuesSelectAndBind : let s := launching.setMgmt fun m => { m with bootStage := 3 }; let q := s.updQueue 63 fun k => { k with recs := [queued] }
    let c := q.setLaunch fun l => { l with selected := some 63 }; let h := s.setLaunch fun l => { l with held := [⟨63, 0, oneHart⟩] }
    let g := fun n => s.setLaunch fun l => { l with gangs := [⟨0, 0, [4], [0], 0, []⟩], launches := [⟨0, 63, queued.record, n, false, 0⟩] }
    let full := fun (u : State) => u.updQueue 63 fun k => { k with recs := List.replicate 256 queued }
    s.bar0Open = true ∧ s.launch.held = [] ∧ oneHart.length = 64 ∧ Accepted s 63 (parseRecord oneHart none) ∧ Fills (full s) 63 (parseRecord oneHart none) ∧ (full s).bar0Open = true ∧
    (full h).launch.held = ⟨63, 0, oneHart⟩ :: [] ∧ Fills (full h) 63 (parseRecord oneHart none) ∧ (8 ≠ 0 ∨ oneHart.length ≠ 64) ∧ h.launch.held ≠ [] ∧
    h.launch.held = ⟨63, 0, oneHart⟩ :: [] ∧ Accepted h 63 (parseRecord oneHart none) ∧
    q.launch.selected = none ∧ q.eligible 63 = true ∧ (q.queue 63).recs = queued :: [] ∧ (∀ p, p < 64 → q.eligible p = true → (q.queue p).prio ≤ (q.queue 63).prio) ∧
    (∀ p, p < 63 → q.eligible p = true → (q.queue p).prio = (q.queue 63).prio → (q.queue p).credit = 0) ∧ 0 < (q.queue 63).credit ∧ queued.record.gx * queued.record.gy * queued.record.gz ≠ 0 ∧
    q.cannotFit queued.record = false ∧ c.launch.selected = some 63 ∧ (c.queue 63).recs = queued :: [] ∧ c.choiceOk queued.record [4] = true ∧
    (g 1).gang 0 = some ⟨0, 0, [4], [0], 0, []⟩ ∧ (∀ r, r < [4].length → r ∈ [0]) ∧ (g 1).isStalled .launch = false ∧ ((g 1).launch.launches.find? fun x => x.id == 0) = some ⟨0, 63, queued.record, 1, false, 0⟩ ∧
    ((g 2).launch.launches.find? fun x => x.id == 0) = some ⟨0, 63, queued.record, 2, false, 0⟩ := by
  unfold Accepted Fills
  try dsimp only
  and_intros <;> first | exact all_of (by decide +kernel) | decide +kernel

/-- A hart that is to be pre-empted, with a running deadline; one whose freeze has begun; one that settles; a context that lives; a full and an empty notice queue. -/
theorem witness_FreezesAndContainment : let s := (app 0 3 []).onHart fun h => { h with preempt := some 1, grant := { h.grant with deadlineOn := true } }
    let b := s.onHart fun h => { h with freeze := .begun }; let t := flying (s.onHart fun h => { h with freeze := .settling, ifr := some noEntries }) [aStore]
    let n := s.setLaunch fun l => { l with notices := [⟨9, 6, 0⟩], cntEnable := true }; let f := s.setLaunch fun l => { l with notices := List.replicate 64 ⟨9, 6, 0⟩ }
    s.hartById 0 = some s.hart ∧ s.hart.bound = true ∧ s.hart.freeze = .none ∧ s.hart.grant.deadlineOn = true ∧ s.hart.preempt = some 1 ∧ s.hart.level = .app ∧
    b.hart.freeze = .begun ∧ b.hartById 0 = some b.hart ∧ t.hart.freeze = .settling ∧ t.hart.ifr = some noEntries ∧ t.hartById 0 = some t.hart ∧ (t.record t.hart noEntries).fits = true ∧ (∀ p ∈ t.parked, p.ctx = t.hart.sup.ctxid → p.issuer ≠ t.hart.tags.issuer) ∧
    (s.ctxEntry 0).killed = false ∧ s.launch.notices.length < 64 ∧ 64 ≤ f.launch.notices.length ∧
    n.launch.notices = ⟨9, 6, 0⟩ :: [] ∧ n.ownHart n.launch.cntHart = some 0 ∧ n.hartById 0 = some n.hart ∧ n.launch.cntEnable = true ∧ n.hart.sup.ctxid ≠ 9 ∧ n.hart.freeze = .none := by
  try dsimp only
  and_intros <;> first | exact all_of (by decide +kernel) | decide +kernel

/-- A table whose expert 0 has an active replica 0 with 64 bytes of weights, an active replica 1, a retiring replica 2 and a dead replica 3, and a pool of one frame on die 1. -/
def ladled (f : Ladle → Ladle) : State :=
  let r := fun (k : BitVec 8) => { Replica.zero with state := k, weights := vsp 0x8000, inbox := vsp 0x400 }
  let x : Expert := { Expert.zero with valid := true, weightBytes := 64, reps := (((Expert.zero.reps.set 0 (r 1)).set 1 (r 1)).set 2 (r 2)).set 3 (r 3) }
  (app 0 3 []).setLadle fun l => f { l with table := [(0, x)], pools := l.pools.set 1 ⟨vsp 0, 1, 2, 0, 0, 4, true, 0, 0⟩ }

/-- The commands in IDLE and in COPY, a die without frames, a switch, a verification, a drain, a wipe, a merge and a charge. -/
theorem witness_LadleCommandsAndStepsTakeEffect : let s := ladled id; let a := ladled fun l => { l with absent := 8 }; let x := s.expert 0; let p := s.pool 1
    let s2 := (s.setLadle fun l => { l with seq := .replicate, expert := 0, die := 1, replica := 4, frame := 0, phase := .copy, lasterr := 0 }).updPool 1 fun p => { p with used := p.used ||| (1 <<< 0) }
    let w := ladled fun l => { l with phase := .switch, acks := [1, 2], unapplied := [1] }; let v := ladled fun l => { l with phase := .verify, die := 1 }
    let d := ladled fun l => { l with phase := .drain, drained := true, replica := 3 }; let c := ladled fun l => { l with phase := .drain, boundary := true, merges := 1, replica := 2 }
    let g := fun (b : Phase) => ladled fun l => { l with phase := .merge, back := b, replica := 2 }; let m := ladled fun l => { l with merges := 1, trigger := 0x10000000, done := 0xFFFFFFFF, messages := [⟨0, 0, 0, 0, true⟩] }
    s2.ladle.phase ≠ .idle ∧ s.ladle.phase = .idle ∧ x.valid = true ∧ repActive (x.rep 0) = true ∧ (∃ j, j < 8 ∧ 1 ≤ j ∧ repEmpty (x.rep j) = true) ∧ s.isAbsent 2 = false ∧
    (s.pool 2).freeFrames = [] ∧ s.isAbsent 1 = false ∧ p.freeFrames = 0 :: [] ∧ repEmpty (x.rep 4) = true ∧ inboxSize p.ty.toNat ≠ 0 ∧ 4 ≤ p.logcap.toNat ∧ p.logcap.toNat ≤ 30 ∧
    x.weightBytes.toNat + x.gradBytes.toNat + 4096 + 2 ^ p.logcap.toNat * inboxSize p.ty.toNat ≤ 4096 * p.fsize.toNat ∧
    (s2.ctxWritable s.ladle.ctx 1 (p.frameVa 0 + BitVec.ofNat 64 (x.weightBytes.toNat + x.gradBytes.toNat)) 64 8).isSome = true ∧ (s2.ctxWritable s.ladle.ctx 1 (p.frameVa 0) 64 8).isSome = true ∧
    (match (s2.asContext s.ladle.ctx (x.rep 0).die.toNat).segments (x.rep 0).weights.toNat 64 8 .read with | .ok _ => true | .error _ => false) = true ∧
    repActive (x.rep 1) = true ∧ repDead (x.rep 3) = true ∧ a.isAbsent 3 = true ∧ a.ladle.phase = .idle ∧ ¬ (s.ladle.phase ≠ .idle ∧ s.ladle.seq ≠ .none ∧ s.ladle.expert = 0) ∧
    repRetiring (x.rep 2) = true ∧ w.ladle.phase = .switch ∧ 1 ∈ w.ladle.unapplied ∧ 2 ∈ w.ladle.acks ∧ 2 ∉ w.ladle.unapplied ∧
    (∀ m ∈ w.ladle.messages, m.die = 2 → m.plus = true → m.version = w.ladle.version + 1) ∧ (∃ d ∈ w.ladle.acks, d ≠ 2) ∧ (∀ d ∈ [2], d = 2) ∧ w.isAbsent 2 = false ∧
    v.ladle.phase = .verify ∧ (v.ctxRead v.ladle.ctx v.ladle.die ((v.pool 1).frameVa 0) 64 8).isSome = true ∧
    d.ladle.phase = .drain ∧ d.ladle.drained = true ∧ ((d.expert 0).rep 3).ifold = 0 ∧ d.training = false ∧
    m.ladle.merges = 1 ∧ m.ladle.phase = .idle ∧ m.ladleCounter m.ladle.done = none ∧ m.ladle.messages[0]? = some ⟨0, 0, 0, 0, true⟩ ∧ m.ladle.enable = false ∧
    w.isStalled .ladle = false ∧ v.isStalled .ladle = false ∧ d.isStalled .ladle = false ∧ c.ladle.drained = false ∧ c.inboxDrained ((c.expert 0).rep 2) = some true ∧
    ((c.expert 0).rep 2).ifold = 0 ∧ 0 < c.ladle.merges ∧ c.ladle.boundary = true ∧ (g .idle).ladle.phase = .merge ∧ (g .idle).ladle.deadPending = false ∧
    repDead (((g .drain).expert 0).rep 2) = false ∧ s.intervalOver = true ∧ ((ladled fun l => { l with length := 5 }).intervalOver = false) := by
  try dsimp only
  and_intros <;> first | exact all_of (by decide +kernel) | decide +kernel

/-- A controller with one queued and one waiting request; keys in use and not; the patrol; migration slots; accesses from outside. -/
theorem witness_MemoryControllersAndMigrationAct : let s := (app 0 3 []).setMgmt fun m => { m with fill := false }; let r : MemReq := ⟨7, 0, 383, 15, 4, false, 960, false⟩
    let k := fun (q w : List MemReq) => s.updStack 15 fun k => { k with queue := q, waiting := w }
    let h := fun (f : Hbm → Hbm) => { s with hbm := f s.hbm }
    let g := fun (x : MigState) => s.updMig 63 fun _ => ⟨0x200000, 0x300000, x, 63⟩
    ((k [r] []).stack 15).queue.map (·.source) = [7] ∧ (∀ q ∈ [r], q.line ≠ 1023) ∧ lineStack 1023 = 15 ∧ (∀ p ∈ [(14, 0), (15, 1)], p ≠ (lineStack 1023, sourceKind 7)) ∧ ((k [] []).stack 15).sources.length < 256 ∧ 8 ∉ ((k [r] [r]).stack 15).queue.map (·.source) ∧
    ((k [r] [r]).stack 15).waiting ≠ [] ∧ ((k [r] []).stack 15).queue ≠ [] ∧ (∀ q ∈ ((k [r] []).stack 15).queue, q.marked = false) ∧
    (∃ q ∈ ((k [{ r with marked := true }] []).stack 15).queue, q.marked = true) ∧
    (((k [{ r with marked := true }] []).stack 15).queue.filter fun r => r.pch == 383 && r.bank == 15 && s.hbm.servable r) ≠ [] ∧ s.hbm.lineFault r.line = 0 ∧
    (h fun h => { h with keyver := 2 }).hbm.versionUsed 0 = true ∧ (h fun h => { h with keyver := 3, regionBase := 3 }).hbm.versionUsed 1 = false ∧
    (∀ l ∈ [0, 5], s.hbm.lineFault l = 0) ∧ s.hbm.stored = [] ∧ s.hbm.metaTags = [] ∧ s.hbm.overflow = [] ∧ (h fun h => { h with keyCur := some ⟨1, 2⟩ }).hbm.forced 64 = [] ∧
    s.hbm.enable = true ∧ (h fun h => { h with keyNext := some ⟨1, 2⟩, keyver := 1, regionBase := 1 }).hbm.keyNext ≠ none ∧
    (h fun h => { h with keyver := 1, regionBase := 1 }).hbm.nextRegion 1 0 = 0 ∧ 0 < regionCount ∧ 0 + 1 < regionLines ∧
    ((g .free).migSlot 63).state = .free ∧ ((g .done).migSlot 63).state = .done ∧ ((g .error).migSlot 63).state = .error ∧ ((g .copying).migSlot 63).state = .copying ∧
    ((g .copying).migSlot 63).pointer < 64 ∧ (g .copying).isPoisoned ((g .copying).migLine 0x200000 63) = false ∧
    (g .copying).isHeld ((g .copying).migLine 0x200000 63) = false ∧ (g .copying).isHeld ((g .copying).migLine 0x300000 63) = false ∧
    ({ g .copying with hbm := { s.hbm with overflow := [0x200] } } : State).isHeld ((g .copying).migLine 0x200000 63) = true ∧
    0xFFFFFFFFC0 + 64 ≤ 2 ^ 40 ∧ (∀ f ∈ [true, false], s.hostBlocked ⟨0xFFFFFFFFC0, 64, true, [], f⟩ = false ∧ s.hostBlocked ⟨0x40, 8, false, [], f⟩ = false) ∧
    (∀ p ∈ pieces 0x40 8 64, s.isPoisoned p.1 = false) ∧ (∀ p ∈ pieces 0xFFFFFFFFC0 64 64, p.2 = 64) ∧
    (∃ p ∈ pieces 0x40 8 64, (h fun h => { h with poison := [(1, 1)] }).isPoisoned p.1 = true ∧ (true = false ∨ p.2 ≠ 64)) ∧
    (app 0 3 []).hostBlocked ⟨0x40, 8, true, [], false⟩ = true ∧ (h fun h => { h with overflow := [0] }).hostBlocked ⟨0x40, 8, true, [], true⟩ = true := by
  try dsimp only
  and_intros <;> first | exact all_of (by decide +kernel) | decide +kernel

/-- A package in MANUFACTURE with its fuses and token, one in DECOMMISSIONED, and one whose boot stands at each stage. -/
theorem witness_ResetsBootAndLifeCycle : let s := { app 0 3 [] with fuses := fused, mgmt := { Mgmt.zero with token := tokenNum } }; let d := s.setMgmt fun m => { m with lcstate := 4 }
    Memory.wf s.mem = true ∧ s.mgmt.bootFail = 0 ∧ s.mgmt.bootStage.toNat < 3 ∧ s.fuses.checkImage 1 stageImage = 0 ∧ s.fuses.checkImage 1 [] = 0 + 1 ∧
    s.mgmt.fill = true ∧ s.mgmt.fillptr + 1 < 2 ^ 34 ∧ (s.setMgmt fun m => { m with fillptr := 2 ^ 34 - 1 }).mgmt.fillptr + 1 = 2 ^ 34 ∧
    lcAllowed s.mgmt.lcstate.toNat 2 = false ∧ lcAllowed s.mgmt.lcstate.toNat 1 = true ∧ s.tokenOk 1 = true ∧ (s.setMgmt fun m => { m with token := 0 }).tokenOk 1 = false ∧
    s.mgmt.lcstate ≠ 4 ∧ d.mgmt.lcstate = 4 := by
  try dsimp only
  and_intros <;> first | exact all_of (by decide +kernel) | decide +kernel

/-- BAR0 closed and open; die 7 in service, resetting and hot; PKGCAP 0. -/
theorem witness_HostWritesAndFleetSteps : let s := app 0 3 []; let o := s.setMgmt fun m => { m with bootStage := 3, pkgcap := 0 }
    let r := s.updDie 7 fun d => { d with state := 1, power := { d.power with hot := true } }
    s.bar0Open = false ∧ o.bar0Open = true ∧ o.launch.held = [] ∧ (∀ d ∈ List.range 8, (o.die d).state = 0) ∧ (0x30 : Nat) % 8 = 0 ∧ (0x21100C : Nat) % 8 ≠ 0 ∧ (0x34 : Nat) % 8 ≠ 0 ∧ (63 : Nat) < 64 ∧ (3 : Nat) < 4 ∧ (47 < 48 ∧ 511 < 512 ∧ 4095 < 4096) ∧
    (s.die 7).state = 0 ∧ (r.die 7).state ≠ 0 ∧ (r.die 7).state = 1 ∧ (r.die 7).power.hot = true ∧ (∀ k ∈ List.range 8, ∀ c ∈ r.copyQueue 7 k, c.ladle = false) ∧ o.mgmt.pkgcap = 0 := by
  try dsimp only
  and_intros <;> first | exact all_of (by decide +kernel) | decide +kernel

/-- The clauses of the gang statement that open, wait, refuse and broadcast; a store and a load that fail; an unbound target; a turn that ends; what an application hart may run. -/
theorem witness_WiderClauses : let o : GangOp := ⟨true, 8, 1, 0, 0, 0, vsp 0x200⟩; let b : GangOp := ⟨false, 1, 1, 0, 0, 0, 0⟩; let u := ganged o
    let none4 := ((vec 4).onHart fun h => { h with csr := { h.csr with gangsize := 1 } }).setLaunch fun l => { l with gangs := [⟨0, 0, [0], [], 0, []⟩] }; let full := none4.setLaunch fun l => { l with gangs := [⟨0, 0, [0], [], 0, (List.range 4).map fun k => { o.opened 0 4 with index := k + 1 }⟩] }
    let g := ((none4.wx 10 (vsp 0x200)).gang 0); let f := (full.gang 0); let s := (vec 4).wx 10 (vsp 0x100000); let k := sup [(6, 1), (7, 8)]; let a := (app 0 3 []).waits .halt
    (u.gang 0).any (fun x => u.gangLegal { o with xb := 0 } x && ((x.insts.find? fun y => y.index == 0).any fun y => !y.agrees { o with xb := 0 } u.hart.vl)) = true ∧
    f.any (fun x => full.gangLegal o x && (x.insts.find? fun y => y.index == 0).isNone && decide (4 ≤ x.insts.length)) = true ∧
    g.any (fun x => none4.gangLegal o x && none4.gangLegal b x && (x.insts.find? fun y => y.index == 0).isNone && decide (x.insts.length < 4)) = true ∧
    (∀ i ∈ List.range (none4.wx 10 (vsp 0x200)).hart.vl, (none4.wx 10 (vsp 0x200)).probe ((none4.wx 10 (vsp 0x200)).rx 10 + BitVec.ofNat 64 (i * inboxSize 0)) 4 4 .read = .ok (unitSpot i) ∧
      (none4.wx 10 (vsp 0x200)).gate (unitSpot i) = .opened) ∧
    s.hart.fits (s.hart.tagOf 1) = true ∧ tagCrumb (s.hart.tagOf 1) = false ∧ s.probe (s.rx 10 + BitVec.ofNat 64 (0 * 32 / 8)) 4 4 .write = .error (.windowRange .write) ∧
    k.ownHart (k.rx 6).toNat = some 1 ∧ (k.hartById 1).isNone = true ∧ Claim.appOnly (.vadd 3 1 2 0 true true false) = true ∧
    (a.hart.id = (app 0 3 []).hart.id ∧ a.hart.run = .waiting) ∧ (app 0 3 []).hart.run ≠ .waiting ∧ (app 0 3 []).windows 0 = [] ∧ (saving 7 0x100000).hart.freeze = .none := by
  dsimp only
  refine ⟨?_, ?_, ?_, probes_of (by decide +kernel), ?_, ?_, error_of (by decide +kernel), ?_, ?_, ?_, ?_, ?_, ?_, ?_⟩ <;> decide +kernel

/-- Each waiting instruction with what ends its wait. -/
theorem witness_EndedWaitsCompleteTheirInstruction : let s := sync; let a := app 0 3 [(6, vsp 0x200)]; let e := (a.waits (.evwait 5 6)).onHart fun h => { h with events := ⟨[⟨0, ⟨4, 0, 9⟩⟩], 1, none, []⟩ }
    let q := ({ s with trivet := { s.trivet with sems := [(0, ⟨5, [(0, s.rx 7)]⟩)] } } : State).waits (.ssemacq 5 10 7 false)
    a.hart.level = .app ∧ (a.waits (.fence 0 7)).hart.wait = some (.fence 0 7) ∧ a.accesses = [] ∧ a.enginesBusy a.hart = false ∧ (a.waits .vlsync).hart.wait = some .vlsync ∧
    (a.waits (.hwait 5 3 2)).hart.wait = some (.hwait 5 3 2) ∧ ¬ ((a.hart.handle 3).state = .filling ∨ (a.hart.handle 3).state = .draining) ∧
    e.hart.wait = some (.evwait 5 6) ∧ e.hart.events.recs = ⟨0, ⟨4, 0, 9⟩⟩ :: [] ∧ e.probe (e.rx 6) 16 16 .write = .ok (spot 0x200) ∧ (e.cachePage (e.rx 6)).gate (spot 0x200) = .opened ∧ Memory.wf e.mem = true ∧
    (a.waits .halt).hart.wait = some .halt ∧ (a.waits .halt).haltWaits = false ∧ (a.waits (.vsetvl 5 6 3)).hart.wait = some (.vsetvl 5 6 3) ∧ a.hart.vec.matrix = false ∧ a.vectorBusy = false ∧
    a.lent = false ∧ (a.waits .modeM).hart.wait = some .modeM ∧ (a.waits .modeV).hart.wait = some .modeV ∧
    s.tagsFull 1 = false ∧ s.tableFull dupTrivet 1 = false ∧ s.relaxed = false ∧ s.accesses = [] ∧ (s.waits (.scntwait 5 6 7 false)).hart.wait = some (.scntwait 5 6 7 false) ∧
    s.syncElemOf kCounter (s.rx 6) = some 0 ∧ (s.rx 7).toNat ≤ (s.counter 0).toNat ∧ (s.waits (.sbarwait 5 8 13 false)).hart.wait = some (.sbarwait 5 8 13 false) ∧
    s.syncElemOf kBarrier (s.rx 8) = some 0 ∧ (s.barrier 0).n ≠ 0 ∧ (s.barrier 0).broken = false ∧ (s.barrier 0).phase.toNat ≠ (s.rx 13).toNat % 2 ^ 32 ∧
    s.syncElemOf kBarrier (s.rx 9) = some 1 ∧ (s.barrier 1).n ≠ 0 ∧ (s.barrier 1).broken = true ∧
    (s.waits (.sredget 5 11 0 0 false)).hart.wait = some (.sredget 5 11 0 0 false) ∧ s.cellElem 11 0 = some 0 ∧ (s.rx 0).toNat % 2 ^ 32 ≤ (s.cell 0).rounds.toNat ∧
    q.hart.wait = some (.ssemacq 5 10 7 false) ∧ q.syncElemOf kSem (q.rx 10) = some 0 ∧ (q.sem 0).waiters = (q.hart.id, q.rx 7) :: [] ∧ (q.rx 7).toNat ≤ (q.sem 0).value.toNat := by
  try dsimp only
  and_intros <;> first | decide +kernel | exact ok_of (by decide +kernel)

theorem witness_CodesStandForTheirValues : let r : FloatRow := ⟨0, 8, 23, 127, 0x7F7FFFFF, 0x7FC00000⟩; let f : FloatRow := ⟨3, 4, 3, 7, 0x7E, 0x7F⟩
    r ∈ floatRows ∧ f ∈ floatRows ∧ 255 < 2 ^ r.e ∧ 3 < 2 ^ r.m ∧ r.t ∈ [0, 1, 2, 4, 14] ∧ 255 = 2 ^ r.e - 1 ∧ ¬ (r.t ∈ [0, 1, 2, 4, 14] ∧ 1 = 2 ^ r.e - 1) ∧ ¬ (r.t = 3 ∧ 1 = 15 ∧ 3 = 7) ∧
    15 < 2 ^ f.e ∧ 7 < 2 ^ f.m ∧ f.t = 3 ∧ f.t ∉ [0, 1, 2, 4, 14] := by decide +kernel

/-- A third of the least E2M1 step, a number inside and one beyond the range; E4M3 and F32. -/
theorem witness_RoundingFollowsItsMode : let r : FloatRow := ⟨7, 2, 1, 1, 7, 0⟩; let i : FloatRow := ⟨0, 8, 23, 127, 0x7F7FFFFF, 0x7FC00000⟩; let e : FloatRow := ⟨3, 4, 3, 7, 0x7E, 0x7F⟩
    let x : Machine.Num := .fin true 11 (-3) false; let far : Machine.Num := .fin true 1 200 false
    (r ∈ floatRows ∧ i ∈ floatRows ∧ e ∈ floatRows ∧ exactly x = true ∧ amount x * amount x ≤ r.largest * r.largest ∧ exactly far = true) ∧
    (r.largest + r.lastUnit) * (r.largest + r.lastUnit) ≤ amount far * amount far ∧ (i.largest + i.lastUnit) * (i.largest + i.lastUnit) ≤ amount far * amount far ∧ (e.largest + e.lastUnit) * (e.largest + e.lastUnit) ≤ amount far * amount far ∧
    i.t ∈ [0, 1, 2, 4, 14] ∧ e.t = 3 ∧ r.t ∈ [5, 6, 7] ∧ ((9 : Nat), (0 : Int), (255 : Int)) ∈ (15, -128, 127) :: intRows ∧
    amount x * amount x < (2 : Rat) ^ (128 : Int) * (2 : Rat) ^ (128 : Int) := by decide +kernel

/-- Finite operands of E2M1 with their results in range, and the special operands of F32. -/
theorem witness_ArithmeticIsExactBeforeItRounds : let r : FloatRow := ⟨7, 2, 1, 1, 7, 0⟩; let i : FloatRow := ⟨0, 8, 23, 127, 0x7F7FFFFF, 0x7FC00000⟩; let n := toNum 7; let k := toNum 0
    let inside := fun q : Rat => q * q ≤ r.largest * r.largest
    (r ∈ floatRows ∧ exactly (n 3) = true ∧ exactly (n 2) = true ∧ exactly (n 11) = true ∧ inside (amount (n 3) + amount (n 2)) ∧ inside (amount (n 3) * amount (n 2) + amount (n 11)) ∧ amount (n 2) ≠ 0 ∧
      inside (amount (n 3) / amount (n 2)) ∧ amount (n 3) + amount (n 11) = 0 ∧ (n 3).neg? ≠ (n 11).neg? ∧ 0 ≤ amount (n 3)) ∧
    (i ∈ floatRows ∧ i.t ∈ [0, 1, 2, 14] ∧ k 0x7FC00001 = .nan ∧ k 0x7F800000 = .inf false ∧ k 0xFF800000 = .inf true ∧ exactly (k 0) = true ∧ amount (k 0) = 0 ∧ exactly (k 0xBF800000) = true ∧
      amount (k 0xBF800000) ≠ 0 ∧ amount (k 0xBF800000) < 0) := by decide +kernel

/-- Rows of two and of two blocks, the second one started part-way; sums of two numbers and of three kinds of PE products; a column step; the steps of a depth. -/
theorem witness_SumsFollowTheirOrder : let h := (vec 4).hart; let g := { h with csr := { h.csr with rowlen := 512, vstart := 256 } }; let i : FloatRow := ⟨0, 8, 23, 127, 0x7F7FFFFF, 0x7FC00000⟩
    let q := amount (toNum 0 0x3F800000) + amount (toNum 0 0x40000000); let top := amount (toNum 0 0xFF7FFFFF)
    (0 < h.rowlen ∧ h.vs ≤ 0 * h.rowlen ∧ 0 < g.rowlen ∧ g.vs = 0 * g.rowlen + 256 * 1 ∧ 256 * 1 < g.rowlen ∧ h.active 1 1 = false ∧ h.active 1 0 = true ∧ tagType (h.tagOf 1) ∈ [0, 1, 2, 3, 4] ∧
      exactly (toNum 0 (h.cvtSource 1 0)) = true ∧ i.t = accType 0 ∧ amount (toNum 0 (h.cvtSource 1 0)) = 1) ∧
    (i ∈ floatRows ∧ i.t ∈ [0, 14] ∧ exactly (toNum 0 0x3F800000) = true ∧ exactly (toNum 0 0x40000000) = true ∧ q * q ≤ i.largest * i.largest ∧
      (i.largest + i.lastUnit) * (i.largest + i.lastUnit) ≤ (top + top) * (top + top) ∧ exactly (toNum 0 0xFF7FFFFF) = true) ∧
    ([(Machine.Num.inf true, Machine.Num.zero), (.inf false, .ofInt 1), (.inf true, .ofInt 1)] ≠ [] ∧ (mulNum (.inf true) .zero).2 = true ∧ (mulNum (.inf false) (.ofInt 1)).1 = .inf false ∧
      (mulNum (.inf true) (.ofInt 1)).1 = .inf true ∧ exactly (.ofInt 1) = true) ∧ toNum 0 0x7F800000 = .inf false ∧ (0 : Nat) ≠ 1 ∧ 1 < 2 ∧ 63 < 64 := by decide +kernel

/-- Inputs of each kind, segments and special values, and two inputs in cells. -/
theorem witness_SpecialFunctionsFollowTheirSteps : let i : FloatRow := ⟨0, 8, 23, 127, 0x7F7FFFFF, 0x7FC00000⟩; let n := toNum 0; let x := n 0x3F400000; let v := fun c => amount (n c); let tiny : Rat := 1 / 2 ^ 24
    (i ∈ floatRows ∧ exactly x = true ∧ amount x ≠ 0 ∧ exactly sfLog2e = true ∧ exactly sfTwoOverPi = true ∧ x = .fin false 0xC00000 (-24) false ∧ amount Machine.Num.zero = 0 ∧ exactly Machine.Num.zero = true ∧ amount (n 0xBF400000) < 0) ∧
    (i.t ∈ [0, 1, 2] ∧ specialRows i ≠ [] ∧ n 0x7FC00001 = .nan ∧ exactly (n 0xBF800000) = true ∧ v 0xBF800000 < 0 ∧ v 0x3F400000 ≠ 1 ∧ v 0xC3170000 ≤ -150 ∧ 128 < v 0x43010000 ∧ 89 < v 0x43010000 ∧ v 0xC3170000 ≤ -104 ∧
      v 0x30000000 * v 0x30000000 ≤ tiny ∧ 64 < v 0x43010000 * v 0x43010000 ∧ v 0x30000000 ≠ 0 ∧ v 0xC3170000 ≤ -88) ∧
    ((sfSpecial 12 x = none ∧ sfClosed 12 x = none) ∧ (∃ d, (sfKind 12).reduce x = some d ∧ exactly (sfPoly (sfRow 12 d.r) (sfDegree 12) 0 d.f) = true ∧ exactly (sfPoly (sfRow 12 d.r) 3 4 d.f) = true)) ∧
    ((∀ fn ∈ [0, 4, 10], sfSpecial fn x = none ∧ sfClosed fn x = none ∧ sfSpecial fn (n 0x3F000000) = none ∧ sfClosed fn (n 0x3F000000) = none) ∧ codeKey 0 0x3F000000 ≤ codeKey 0 0x3F400000 ∧
      x.neg? = (n 0x3F000000).neg?) := by
  dsimp only
  refine ⟨?_, ?_, ⟨?_, ⟨_, rfl, ?_, ?_⟩⟩, ?_⟩ <;> decide +kernel

/-- A supervisor hart that holds a record of entries, as a freeze leaves it. -/
def holding (l : List IfrEntry) : State := { (sup []).onHart fun h => { h with ifr := some { noEntries with entries := l }, freeze := .frozen } with duplicates := [⟨3, 0, 0, 9, 77⟩] }

/-- Entries: two stores, a load, an atomic that a duplicate table answers, a fence, and a load that fails its check. -/
def kept7 : IfrEntry := ⟨0x10007, vsp 0x200, 3, 0x11223344, [], []⟩
def later7 : IfrEntry := ⟨0x20007, vsp 0x204, 3, 0x55667788, [], []⟩
def kept6 : IfrEntry := ⟨0x10006, vsp 0x200, 0x253, 0, [], []⟩
def kept8 : IfrEntry := ⟨0x900010008, vsp 0x200, 0x140, 0, [], []⟩
def kept12 : IfrEntry := ⟨0x1000C, 0, 0x20, 0, [], []⟩
def failing6 : IfrEntry := ⟨0x10006, vsp 0x100000, 0x253, 0, [], []⟩

theorem witness_HeldRecordsAreReissued : let s := holding [kept7]; let r : Ifr := { noEntries with entries := [kept7] }; let i := Instr.ifrreplay 5; let v := fun (e : IfrEntry) => reissuing (holding [e]) { noEntries with entries := [e] } e i
    let q := holding [later7, kept7]; let o : Ifr := { noEntries with entries := [later7, kept7] }; let w := holding [kept12]
    MayReissue s r ∧ MayReissue (holding []) noEntries ∧ StoreEntry s r i kept7 (spot 0x200) ∧ StoreEntry s r .tret kept7 (spot 0x200) ∧ s.parked = [] ∧ s.hart.sup.trapstat.getLsbD 63 = false ∧
    (s.ctxEntry s.hart.sup.ctxid.toNat).killed = false ∧ kept7.order < later7.order ∧ StoreEntry q o i kept7 (spot 0x200) ∧ StoreEntry { q with mem := entryStored q.mem kept7 (spot 0x200) } o i later7 (spot 0x204) ∧
    kept6.kind = 6 ∧ kept6.dw2.toNat % 16 ≤ 4 ∧ (v kept6).probe kept6.dw1 4 4 .read = .ok (spot 0x200) ∧ (v kept6).gate (spot 0x200) = .opened ∧ (spot 0x200).reg = none ∧
    kept8.kind = 8 ∧ (v kept8).probe kept8.dw1 8 8 .write = .ok (spot 0x200) ∧ (s.duplicates.find? fun x => x.ctx == 0 && x.issuer == 0 && x.tag == kept8.tag) = some ⟨3, 0, 0, 9, 77⟩ ∧
    kept12.kind = 12 ∧ w.recordedFenceWaits w.hart kept12.dw2.toNat = false ∧ failing6.kind = 6 ∧ (v failing6).probe failing6.dw1 4 4 .read = .error (.windowRange .read) := by
  dsimp only
  refine ⟨?_, ?_, ⟨?_, ok_of (by decide +kernel), ?_, ?_⟩, ⟨?_, ok_of (by decide +kernel), ?_, ?_⟩, ?_, ?_, ?_, ?_, ⟨?_, ok_of (by decide +kernel), ?_, ?_⟩, ⟨?_, ok_of (by decide +kernel), ?_, ?_⟩, ?_, ?_,
    ok_of (by decide +kernel), ?_, ?_, ?_, ok_of (by decide +kernel), ?_, ?_, ?_, ?_, error_of (by decide +kernel)⟩ <;> (try unfold MayReissue) <;> decide +kernel

/-- What changes the cores alone changes nothing else. -/
theorem only_cores (s : State) (die core : Nat) (f : Core → Core) : s = { s.updCore die core f with cores := s.cores } := rfl

theorem witness_FormsBelongToTheirMode : let s := vecLent; let u := vec 4; let i := Instr.vmov 8 1 0 false false
    Claim.vectorOnly i = true ∧ (after .modeM u).hart.vec.matrix = true ∧ Claim.matrixOnly (.mzero 0) = true ∧ Claim.usesArray i = true ∧ s.lent = true ∧ u = { s with cores := u.cores } ∧ u.lent = false ∧
    (∀ fn, u.sfSource fn = s.sfSource fn) ∧ ¬ IllegalOperand i u := by
  dsimp only
  have hs : (vec 4).myCore.slots = vecLent.myCore.slots := by decide +kernel
  have hl : (result (exec (.vmov 8 1 0 false false) (vec 4))).hart.level = .app := by decide +kernel
  refine ⟨?_, ?_, ?_, ?_, ?_, only_cores _ 0 0 _, ?_, fun fn => by simp only [State.sfSource, State.sfSlot, hs], ?_⟩
  case refine_7 =>
    rintro ⟨t, h, ht⟩
    rw [h] at hl
    exact absurd (ht.1.symm.trans hl) (by decide)
  all_goals decide +kernel

/-- CYCLE, a failing noise source, queued atomics and one at the register window; grants that change, with room, without room and with a record held; budgets; a killed context; a malformed record; a recorded fence
that waits. -/
theorem witness_FurtherClauses : let a := { app 0 3 [(6, vsp 0x100)] with relaxed := true }; let p := paged (app 0 3 []); let g := okPlace (p.probe 8 8 8 .write)
    let v := (vec 4).onHart fun h => { h with grant := { h.grant with decided := some 0x0F } }; let w := (vec 4).onHart fun h => { h with grant := { h.grant with decided := some 0x01 } }
    let ev := fun (n : Nat) (k : Option Event) => w.onHart fun h => { h with events := ⟨List.replicate n ⟨0, ⟨4, 0, 9⟩⟩, 1, k, []⟩ }
    let s := app 0 3 []; let worn := s.updDie 0 fun d => { d with coresOut := [1, 2], pchOutA := 24 }
    let dead := (sup []).setLaunch fun l => { l with ctxs := Sparse.upd CtxEntry.zero l.ctxs 7 fun c => { c with killed := true } }
    let b := { saving 0 0x100000 with mem := [(0x14801A, 1)] }; let f := { holding [{ kept12 with dw2 := 0x205 }] with streams := [aStream] }
    ((0x017 : BitVec 12).toNat = 0x017 ∧ csrExists 0x017 = true ∧ ((s.updDie 0 fun d => { d with nsfail := true }).die 0).nsfail = true) ∧
    (a.tagsFull 1 = false ∧ a.relaxed = true ∧ a.probe (vsp 0x100) 8 8 .write = .ok (spot 0x100) ∧ (a.cachePage (vsp 0x100)).gate (spot 0x100) = .opened ∧ Memory.wf a.mem = true) ∧
    (p.probe 8 8 8 .write = .ok g ∧ (p.cachePage 8).gate g = .opened ∧ g.reg ≠ none ∧ p.unperformed = false) ∧
    (v.hart.grant.decided = some 0x0F ∧ w.hart.grant.decided = some 0x01 ∧ (v.hart.vec.octets ≠ 0x0F ∨ w.hart.vec.octets ≠ 0x01) ∧ (vec 4).hart.vec.octets ≠ 0x0F ∧ (ev 3 none).hart.events.held = none ∧
      (ev 64 none).hart.events.recs.length = 64 ∧ ((ev 64 (some ⟨5, 2, 1⟩)).hart.events.held = some ⟨5, 2, 1⟩)) ∧
    (0 ∉ (s.die 0).coresOut ∧ WithinBudget (after (.unitMapOut 0 0 0) s) 0 0 0 ∧ ¬ WithinBudget (after (.unitMapOut 0 0 0) worn) 0 0 0 ∧ (4, 0) ∉ s.mgmt.unitsOut ∧ WithinBudget (after (.unitMapOut 4 0 0) s) 4 0 0 ∧
      ¬ WithinBudget (after (.unitMapOut 4 0 0) worn) 4 0 0 ∧ WithinBudget (after (.unitMapOut 6 7 65) s) 6 7 65) ∧
    (dead.hart.level = .sup ∧ dead.hart.sup.trapstat.getLsbD 63 = false ∧ (dead.ctxEntry dead.hart.sup.ctxid.toNat).killed = true) ∧
    (b.areaNum 0x48010 4 = b.hart.sup.ctxid.toNat ∧ ∃ e ∈ b.loadRecord.entries, e.wellFormed (b.areaNum 0x4801E 1) = false) ∧ b.areaFault 0x48000 0x9B000 = none ∧
    (MayReissue f { noEntries with entries := [{ kept12 with dw2 := 0x205 }] } ∧ f.recordedFenceWaits f.hart 0x205 = true) := by
  dsimp only
  refine ⟨?_, ⟨?_, ?_, ok_of (by decide +kernel), ?_, ?_⟩, ⟨ok_of (by decide +kernel), ?_, ?_, ?_⟩, ?_, ⟨?_, ?_, ?_, ?_, ?_, ?_, ?_⟩, ?_, ?_, ?_, ?_⟩ <;> (try unfold WithinBudget) <;> (try unfold MayReissue) <;> (try dsimp only) <;> decide +kernel

end Sys2Proof.Tests
end

/-! PROOFS. Numbers: the fields of a code, the number that a code of each format stands for, and O8. -/

namespace Sys2Proof.Proofs.Numbers

open Sys2Proof.Machine Sys2Proof.Claim

/-! ### The fields of a floating-point code -/

section Fields

variable {f : FpFormat} {neg : Bool} {e m : Nat}

theorem signBit_eq_mul (f : FpFormat) (neg : Bool) : f.signBit neg = neg.toNat * 2 ^ f.e * 2 ^ f.m := by
  cases neg with
  | false => rw [FpFormat.signBit, if_neg Bool.false_ne_true, Bool.toNat_false, Nat.zero_mul, Nat.zero_mul]
  | true => rw [FpFormat.signBit, if_pos rfl, Bool.toNat_true, Nat.one_mul, Nat.pow_add]

theorem code_fraction (hm : m < 2 ^ f.m) : (f.signBit neg + e * 2 ^ f.m + m) % 2 ^ f.m = m := by
  rw [signBit_eq_mul, ← Nat.add_mul, Nat.mul_add_mod_self_right, Nat.mod_eq_of_lt hm]

/-- What lies above the fraction: the sign and the exponent. -/
theorem code_div_fraction (hm : m < 2 ^ f.m) : (f.signBit neg + e * 2 ^ f.m + m) / 2 ^ f.m = neg.toNat * 2 ^ f.e + e := by
  rw [signBit_eq_mul, ← Nat.add_mul, Nat.mul_comm, Nat.mul_add_div (Nat.two_pow_pos _), Nat.div_eq_of_lt hm, Nat.add_zero]

theorem code_exponent (he : e < 2 ^ f.e) (hm : m < 2 ^ f.m) : (f.signBit neg + e * 2 ^ f.m + m) / 2 ^ f.m % 2 ^ f.e = e := by
  rw [code_div_fraction hm, Nat.mul_add_mod_self_right, Nat.mod_eq_of_lt he]

theorem code_sign (he : e < 2 ^ f.e) (hm : m < 2 ^ f.m) : ((f.signBit neg + e * 2 ^ f.m + m) / 2 ^ (f.e + f.m) % 2 == 1) = neg := by
  rw [Nat.add_comm f.e, Nat.pow_add, ← Nat.div_div_eq_div_mul, code_div_fraction hm, Nat.mul_comm, Nat.mul_add_div (Nat.two_pow_pos _), Nat.div_eq_of_lt he]
  cases neg <;> rfl

/-! ### What a code decodes to (R44) -/

theorem decode_ieee_top (hs : f.special = .ieee) (hm : m < 2 ^ f.m) :
    f.decode (f.signBit neg + (2 ^ f.e - 1) * 2 ^ f.m + m) = if m = 0 then .inf neg else .nan := by
  have he : 2 ^ f.e - 1 < 2 ^ f.e := Nat.sub_lt (Nat.two_pow_pos _) Nat.one_pos
  simp only [FpFormat.decode, code_fraction hm, code_exponent he hm, code_sign he hm, hs, and_self, if_true]

theorem decode_nanOnly_top (hs : f.special = .nanOnly) :
    f.decode (f.signBit neg + (2 ^ f.e - 1) * 2 ^ f.m + (2 ^ f.m - 1)) = .nan := by
  have he : 2 ^ f.e - 1 < 2 ^ f.e := Nat.sub_lt (Nat.two_pow_pos _) Nat.one_pos
  have hm : 2 ^ f.m - 1 < 2 ^ f.m := Nat.sub_lt (Nat.two_pow_pos _) Nat.one_pos
  simp only [FpFormat.decode, code_fraction hm, code_exponent he hm, hs, reduceCtorEq, and_self, false_and, if_false, if_true]

theorem decode_of_not_special (he : e < 2 ^ f.e) (hm : m < 2 ^ f.m) (hi : ¬ (f.special = .ieee ∧ e = 2 ^ f.e - 1))
    (hn : ¬ (f.special = .nanOnly ∧ e = 2 ^ f.e - 1 ∧ m = 2 ^ f.m - 1)) :
    f.decode (f.signBit neg + e * 2 ^ f.m + m) =
      if e = 0 then .fin neg m (1 - (f.bias : Int) - f.m) false
      else .fin neg (2 ^ f.m + m) (1 - (f.bias : Int) - f.m + ((e : Int) - 1)) false := by
  simp only [FpFormat.decode, code_fraction hm, code_exponent he hm, code_sign he hm, if_neg hi, if_neg hn]

end Fields

/-! ### The number a value stands for -/

theorem two_zpow_sub_natCast (k : Int) (n : Nat) : (2 : Rat) ^ (k - n) = 2 ^ k / 2 ^ n := by
  rw [Int.sub_eq_add_neg, Rat.zpow_add (by decide), Rat.zpow_neg, Rat.zpow_natCast, Rat.div_def]

theorem mul_mul_div_comm (a b c d : Rat) : a * b * (c / d) = a * c * (b / d) := by
  rw [Rat.div_def, Rat.div_def, Rat.mul_assoc, Rat.mul_assoc, ← Rat.mul_assoc b, Rat.mul_comm b, Rat.mul_assoc]

/-- The hidden bit of a normal value (R44). -/
theorem natCast_two_pow_add_div (n m : Nat) : ((2 ^ n + m : Nat) : Rat) / 2 ^ n = 1 + (m : Rat) / 2 ^ n := by
  have hpos : (0 : Rat) < 2 ^ n := Rat.pow_pos (by decide)
  have hcast : ((2 ^ n : Nat) : Rat) = 2 ^ n := Rat.natCast_pow 2 n
  rw [Rat.natCast_add, hcast, Rat.div_def, Rat.div_def, Rat.add_mul, Rat.mul_inv_cancel _ (Rat.ne_of_gt hpos)]

theorem amount_fin_eq_mul_div (neg : Bool) (m n : Nat) (k : Int) :
    amount (.fin neg m (k - n) false) = (if neg then -1 else 1) * (2 : Rat) ^ k * ((m : Rat) / 2 ^ n) := by
  rw [amount, two_zpow_sub_natCast, mul_mul_div_comm]

theorem amount_normal (neg : Bool) (m n e b : Nat) :
    amount (.fin neg (2 ^ n + m) (1 - (b : Int) - n + ((e : Int) - 1)) false) =
      (if neg then -1 else 1) * (2 : Rat) ^ ((e : Int) - b) * (1 + (m : Rat) / 2 ^ n) := by
  have hexp : 1 - (b : Int) - n + ((e : Int) - 1) = (e : Int) - b - n := by omega
  rw [hexp, amount_fin_eq_mul_div, natCast_two_pow_add_div]

theorem sign_mul_natAbs (x : Int) : (if x < 0 then -1 else 1) * (x.natAbs : Int) = x := by
  split <;> omega

theorem amount_ofInt (x : Int) : amount (Num.ofInt x) = x := by
  have hsign : (if decide (x < 0) = true then -1 else 1 : Rat) = ((if x < 0 then -1 else 1 : Int) : Rat) := by
    simp only [decide_eq_true_eq]
    split <;> rfl
  rw [Num.ofInt, amount, hsign, ← Rat.intCast_natCast, Rat.zpow_zero, Rat.mul_one, ← Rat.intCast_mul, sign_mul_natAbs]

theorem amount_scale (x : Machine.Num) (k : Int) : amount (x.scale k) = amount x * 2 ^ k := by
  cases x with
  | nan => exact (Rat.zero_mul _).symm
  | inf neg => exact (Rat.zero_mul _).symm
  | fin neg m e st => rw [Num.scale, amount, amount, Rat.zpow_add (by decide), Rat.mul_assoc _ ((2 : Rat) ^ e)]

theorem exactly_ofInt (x : Int) : exactly (Num.ofInt x) = true := rfl

theorem exactly_scale (x : Machine.Num) (k : Int) : exactly (x.scale k) = exactly x := by
  cases x <;> rfl

/-! ### The rows of Table 2.1 in the model -/

/-- A format of the model holds the sizes of its row, and the special codes of R44: an infinity and NaNs in the IEEE-like formats, a NaN alone in E4M3. -/
structure FormatOfRow (r : FloatRow) (f : FpFormat) : Prop where
  e : f.e = r.e
  m : f.m = r.m
  bias : f.bias = r.bias
  ieee : f.special = .ieee ↔ r.t ∈ [0, 1, 2, 4, 14]
  nanOnly : f.special = .nanOnly ↔ r.t = 3

theorem isFloat_of_mem_floatRows : ∀ r ∈ floatRows, isFloat r.t = true := by decide

theorem formatOfRow_of_mem_floatRows : ∀ r ∈ floatRows, FormatOfRow r (fpFormat r.t) := by
  have h : ∀ r ∈ floatRows, (fpFormat r.t).e = r.e ∧ (fpFormat r.t).m = r.m ∧ (fpFormat r.t).bias = r.bias ∧
      ((fpFormat r.t).special = .ieee ↔ r.t ∈ [0, 1, 2, 4, 14]) ∧ ((fpFormat r.t).special = .nanOnly ↔ r.t = 3) := by decide
  intro r hr
  obtain ⟨he, hm, hb, hi, hn⟩ := h r hr
  exact ⟨he, hm, hb, hi, hn⟩

/-- E4M3 has four exponent and three fraction bits. -/
theorem sizes_of_nanOnly_row : ∀ r ∈ floatRows, r.t = 3 → r.e = 4 ∧ r.m = 3 := by decide

theorem exponentBits_pos_of_mem_floatRows : ∀ r ∈ floatRows, 1 ≤ r.e := by decide

/-- The code of a row with a sign, an exponent and a fraction. -/
abbrev rowCode (r : FloatRow) (neg : Bool) (e m : Nat) : Nat := (if neg then 2 ^ (r.e + r.m) else 0) + e * 2 ^ r.m + m

/-- The code is an infinity or a NaN of its row (R44). -/
def IsSpecial (r : FloatRow) (e m : Nat) : Prop :=
  (r.t ∈ [0, 1, 2, 4, 14] ∧ e = 2 ^ r.e - 1) ∨ (r.t = 3 ∧ e = 15 ∧ m = 7)

section Rows

variable {r : FloatRow} {neg : Bool} {e m : Nat}

theorem not_isSpecial_exponent_zero (hr : r ∈ floatRows) : ¬ IsSpecial r 0 m := by
  have hpow : 2 ^ 1 ≤ 2 ^ r.e := Nat.pow_le_pow_right Nat.two_pos (exponentBits_pos_of_mem_floatRows r hr)
  rintro (⟨-, htop⟩ | ⟨-, h15, -⟩)
  · omega
  · exact absurd h15 (by decide)

/-- A code of a row is read by its format, whose fields have the row's sizes. -/
theorem toNum_rowCode (hr : r ∈ floatRows) (neg : Bool) (e m : Nat) :
    toNum r.t (rowCode r neg e m) = (fpFormat r.t).decode ((fpFormat r.t).signBit neg + e * 2 ^ (fpFormat r.t).m + m) := by
  have h := formatOfRow_of_mem_floatRows r hr
  rw [toNum, if_pos (isFloat_of_mem_floatRows r hr), rowCode, FpFormat.signBit, h.e, h.m]

theorem toNum_rowCode_of_not_isSpecial (hr : r ∈ floatRows) (he : e < 2 ^ r.e) (hm : m < 2 ^ r.m) (hs : ¬ IsSpecial r e m) :
    toNum r.t (rowCode r neg e m) =
      if e = 0 then .fin neg m (1 - (r.bias : Int) - r.m) false
      else .fin neg (2 ^ r.m + m) (1 - (r.bias : Int) - r.m + ((e : Int) - 1)) false := by
  have h := formatOfRow_of_mem_floatRows r hr
  rw [← h.e] at he
  rw [← h.m] at hm
  obtain ⟨hieee, hnan⟩ := not_or.mp hs
  have hi : ¬ ((fpFormat r.t).special = .ieee ∧ e = 2 ^ (fpFormat r.t).e - 1) := by rwa [h.ieee, h.e]
  have hn : ¬ ((fpFormat r.t).special = .nanOnly ∧ e = 2 ^ (fpFormat r.t).e - 1 ∧ m = 2 ^ (fpFormat r.t).m - 1) := by
    rintro ⟨hspec, htop, hones⟩
    have ht := h.nanOnly.mp hspec
    obtain ⟨he4, hm3⟩ := sizes_of_nanOnly_row r hr ht
    rw [h.e, he4] at htop
    rw [h.m, hm3] at hones
    exact hnan ⟨ht, htop, hones⟩
  rw [toNum_rowCode hr, decode_of_not_special he hm hi hn, h.m, h.bias]

theorem toNum_rowCode_subnormal (hr : r ∈ floatRows) (hm : m < 2 ^ r.m) :
    toNum r.t (rowCode r neg 0 m) = .fin neg m (1 - (r.bias : Int) - r.m) false := by
  rw [toNum_rowCode_of_not_isSpecial hr (Nat.two_pow_pos _) hm (not_isSpecial_exponent_zero hr), if_pos rfl]

theorem toNum_rowCode_normal (hr : r ∈ floatRows) (hpos : 0 < e) (he : e < 2 ^ r.e) (hm : m < 2 ^ r.m) (hs : ¬ IsSpecial r e m) :
    toNum r.t (rowCode r neg e m) = .fin neg (2 ^ r.m + m) (1 - (r.bias : Int) - r.m + ((e : Int) - 1)) false := by
  rw [toNum_rowCode_of_not_isSpecial hr he hm hs, if_neg (Nat.ne_of_gt hpos)]

theorem toNum_rowCode_ieee_top (hr : r ∈ floatRows) (ht : r.t ∈ [0, 1, 2, 4, 14]) (hm : m < 2 ^ r.m) :
    toNum r.t (rowCode r neg (2 ^ r.e - 1) m) = if m = 0 then .inf neg else .nan := by
  have h := formatOfRow_of_mem_floatRows r hr
  rw [← h.m] at hm
  rw [toNum_rowCode hr, ← h.e, decode_ieee_top (h.ieee.mpr ht) hm]

theorem toNum_rowCode_nanOnly_top (hr : r ∈ floatRows) (ht : r.t = 3) : toNum r.t (rowCode r neg 15 7) = .nan := by
  have h := formatOfRow_of_mem_floatRows r hr
  obtain ⟨he4, hm3⟩ := sizes_of_nanOnly_row r hr ht
  have hcode := decode_nanOnly_top (neg := neg) (h.nanOnly.mpr ht)
  rw [h.e, he4, h.m, hm3] at hcode
  rw [toNum_rowCode hr, h.m, hm3]
  exact hcode

end Rows

/-! ### E8M0 and MXI8 (R50, R53) -/

theorem toNum_e8m0 {e : Nat} (he : e < 255) : toNum 13 e = .fin false 1 ((e : Int) - 127) false := by
  have hmod : e % 256 = e := Nat.mod_eq_of_lt (by omega)
  rw [toNum, if_neg (by decide), if_pos rfl, hmod, if_neg (Nat.ne_of_lt he)]

theorem amount_powerOfTwo (k : Int) : amount (.fin false 1 k false) = 2 ^ k := by
  rw [amount, if_neg Bool.false_ne_true, Rat.natCast_ofNat, Rat.one_mul, Rat.one_mul]

theorem toNum_mxi8 (q : Nat) : toNum 15 q = (Num.ofInt (intOf 15 q)).scale (-6) := rfl

theorem intOf_mxi8 {q : Nat} (hq : q < 256) : intOf 15 q = if 128 ≤ q then (q : Int) - 256 else q := by
  have hmod : q % 2 ^ tyBits 15 = q := Nat.mod_eq_of_lt hq
  have hsigned : (isSigned 15 && decide (q ≥ 2 ^ (tyBits 15 - 1))) = true ↔ 128 ≤ q := decide_eq_true_iff
  simp only [intOf, hmod, hsigned]
  rfl

/-! ### O8 -/

/-- Settles O8: a code of a float row falls into its fields, and each kind of exponent gives the number of R44; E8M0 is a bare power of two and MXI8 a scaled integer. -/
theorem codesStandForTheirValues : Obligations.CodesStandForTheirValues := by
  unfold Obligations.CodesStandForTheirValues
  refine ⟨fun r hr neg e m he hm => ⟨?subnormal, ?normal, ?ieeeTop, ?nanOnlyTop⟩, fun e he => ?e8m0, rfl, fun q hq => ?mxi8⟩
  case subnormal =>
    rintro rfl
    rw [toNum_rowCode_subnormal hr hm]
    exact ⟨rfl, rfl, amount_fin_eq_mul_div neg m r.m _⟩
  case normal =>
    intro hpos hieee hnan
    rw [toNum_rowCode_normal hr hpos he hm (not_or.mpr ⟨hieee, hnan⟩)]
    exact ⟨rfl, rfl, amount_normal neg m r.m e r.bias⟩
  case ieeeTop =>
    rintro ht rfl
    exact toNum_rowCode_ieee_top hr ht hm
  case nanOnlyTop =>
    rintro ht rfl rfl
    exact toNum_rowCode_nanOnly_top hr ht
  case e8m0 =>
    rw [toNum_e8m0 he]
    exact ⟨rfl, amount_powerOfTwo _⟩
  case mxi8 =>
    rw [toNum_mxi8, intOf_mxi8 hq, exactly_scale, exactly_ofInt, amount_scale, amount_ofInt]
    have hunit : (2 : Rat) ^ (-6 : Int) = 64⁻¹ := by decide +kernel
    exact ⟨rfl, by rw [hunit, Rat.div_def]⟩

end Sys2Proof.Proofs.Numbers

/-! PROOFS. Division: what an instruction that returns a register result does, the quotient and the remainder as integers, and O7. -/

namespace Sys2Proof.Proofs.Division

open Sys2Proof.Machine Sys2Proof.Claim

/-! ### A register result writes its register and moves past the instruction -/

theorem level_wx (h : Hart) (r : XReg) (v : Word) : (h.wx r v).level = h.level := by rw [Hart.wx_frame]

theorem otherBank_wx (h : Hart) (r : XReg) (v : Word) : otherBank (h.wx r v) = otherBank h := by
  have hbank := Hart.wx_bank h r v
  unfold otherBank
  rw [level_wx]
  cases hl : h.level <;> simpa only [hl] using hbank

/-- The next state of a register result keeps the package, and of the hart all but the registers, the pc and the run state. -/
theorem ret_frame (s : State) (rd : XReg) (v : Word) :
    s.ret rd v = { s with hart := { s.hart with x := (s.ret rd v).hart.x, sx := (s.ret rd v).hart.sx, pc := s.hart.pc + 4, run := .running, wait := none } } :=
  congrArg (fun h => ({ s with hart := h } : State).adv 4) (Hart.wx_frame s.hart rd v)

theorem writesReg_ret (s : State) (rd : XReg) (v : Word) : WritesReg s (s.ret rd v) 4 rd v :=
  ⟨rfl, fun hrd => Hart.rx_wx_same hrd v, fun _ hr => Hart.rx_wx_other hr v, otherBank_wx s.hart rd v, ret_frame s rd v⟩

theorem yields_of_exec_eq_ret {i : Instr} {s : State} {rd : XReg} {v : Word} (h : exec i s = .next (s.ret rd v)) : Yields i s 4 rd v :=
  ⟨s.ret rd v, h, writesReg_ret s rd v⟩

/-! ### Quotient and remainder of words as numbers (R148) -/

theorem sdiv_eq_ofInt_tdiv {w : Nat} (a b : BitVec w) : a.sdiv b = BitVec.ofInt w (a.toInt.tdiv b.toInt) :=
  BitVec.eq_of_toInt_eq (by rw [BitVec.toInt_sdiv, BitVec.toInt_ofInt])

theorem srem_eq_ofInt_sub {w : Nat} (a b : BitVec w) : a.srem b = BitVec.ofInt w (a.toInt - b.toInt * a.toInt.tdiv b.toInt) := by
  rw [← Int.tmod_def, ← BitVec.toInt_srem, BitVec.ofInt_toInt]

theorem umod_eq_ofNat_sub {w : Nat} (a b : BitVec w) : a % b = BitVec.ofNat w (a.toNat - b.toNat * (a.toNat / b.toNat)) := by
  rw [← Nat.mod_def, BitVec.umod_def]

theorem minusOne_ne_zero : (0xFFFFFFFFFFFFFFFF : Word) ≠ 0 := by decide

/-- The quotient 2^63 of the minimum by -1 is no I64 value: its word is the minimum again. -/
theorem quotient_minimum_by_minusOne :
    BitVec.ofInt 64 ((0x8000000000000000 : Word).toInt.tdiv (0xFFFFFFFFFFFFFFFF : Word).toInt) = 0x8000000000000000 := by decide

theorem remainder_minimum_by_minusOne :
    BitVec.ofInt 64 ((0x8000000000000000 : Word).toInt - (0xFFFFFFFFFFFFFFFF : Word).toInt * (0x8000000000000000 : Word).toInt.tdiv (0xFFFFFFFFFFFFFFFF : Word).toInt) = 0 := by
  decide

/-! ### The four instructions -/

section Instructions

variable (s : State) (rd rs1 rs2 : XReg)

theorem yields_div : Yields (.div rd rs1 rs2) s 4 rd
    (if s.rx rs2 = 0 then BitVec.allOnes 64 else BitVec.ofInt 64 ((s.rx rs1).toInt.tdiv (s.rx rs2).toInt)) := by
  rw [← sdiv_eq_ofInt_tdiv]
  exact yields_of_exec_eq_ret rfl

theorem yields_rem : Yields (.rem rd rs1 rs2) s 4 rd
    (if s.rx rs2 = 0 then s.rx rs1 else BitVec.ofInt 64 ((s.rx rs1).toInt - (s.rx rs2).toInt * (s.rx rs1).toInt.tdiv (s.rx rs2).toInt)) := by
  rw [← srem_eq_ofInt_sub]
  exact yields_of_exec_eq_ret rfl

theorem yields_divn : Yields (.divn rd rs1 rs2) s 4 rd
    (if s.rx rs2 = 0 then BitVec.allOnes 64 else BitVec.ofNat 64 ((s.rx rs1).toNat / (s.rx rs2).toNat)) := by
  rw [← BitVec.udiv_def]
  exact yields_of_exec_eq_ret rfl

theorem yields_remn : Yields (.remn rd rs1 rs2) s 4 rd
    (if s.rx rs2 = 0 then s.rx rs1 else BitVec.ofNat 64 ((s.rx rs1).toNat - (s.rx rs2).toNat * ((s.rx rs1).toNat / (s.rx rs2).toNat))) := by
  rw [← umod_eq_ofNat_sub]
  exact yields_of_exec_eq_ret rfl

end Instructions

/-! ### The edge cases (R148) -/

section EdgeCases

variable {s : State} (rd : XReg) {rs1 rs2 : XReg}

theorem yields_of_zero_divisor (hb : s.rx rs2 = 0) :
    Yields (.div rd rs1 rs2) s 4 rd (BitVec.allOnes 64) ∧ Yields (.divn rd rs1 rs2) s 4 rd (BitVec.allOnes 64) ∧
      Yields (.rem rd rs1 rs2) s 4 rd (s.rx rs1) ∧ Yields (.remn rd rs1 rs2) s 4 rd (s.rx rs1) := by
  have hdiv := yields_div s rd rs1 rs2
  have hdivn := yields_divn s rd rs1 rs2
  have hrem := yields_rem s rd rs1 rs2
  have hremn := yields_remn s rd rs1 rs2
  rw [if_pos hb] at hdiv hdivn hrem hremn
  exact ⟨hdiv, hdivn, hrem, hremn⟩

theorem yields_of_minimum_by_minusOne (ha : s.rx rs1 = 0x8000000000000000) (hb : s.rx rs2 = 0xFFFFFFFFFFFFFFFF) :
    Yields (.div rd rs1 rs2) s 4 rd 0x8000000000000000 ∧ Yields (.rem rd rs1 rs2) s 4 rd 0 := by
  have hdiv := yields_div s rd rs1 rs2
  have hrem := yields_rem s rd rs1 rs2
  rw [ha, hb, if_neg minusOne_ne_zero] at hdiv hrem
  rw [quotient_minimum_by_minusOne] at hdiv
  rw [remainder_minimum_by_minusOne] at hrem
  exact ⟨hdiv, hrem⟩

end EdgeCases

/-! ### O7 -/

/-- Settles O7: each form returns its quotient or remainder of the words as numbers, and the edge cases are two of its values. -/
theorem divisionsRoundTowardZeroAndNeverTrap : Obligations.DivisionsRoundTowardZeroAndNeverTrap := by
  unfold Obligations.DivisionsRoundTowardZeroAndNeverTrap
  refine ⟨fun s rd rs1 rs2 => ?values, fun s rd rs1 rs2 => ⟨yields_of_zero_divisor rd, yields_of_minimum_by_minusOne rd, ?neverTraps⟩⟩
  case values =>
    exact ⟨yields_div s rd rs1 rs2, yields_rem s rd rs1 rs2, yields_divn s rd rs1 rs2, yields_remn s rd rs1 rs2⟩
  case neverTraps =>
    simp only [List.forall_mem_cons, List.not_mem_nil, false_implies, implies_true, and_true]
    exact ⟨⟨_, yields_div s rd rs1 rs2⟩, ⟨_, yields_divn s rd rs1 rs2⟩, ⟨_, yields_rem s rd rs1 rs2⟩, ⟨_, yields_remn s rd rs1 rs2⟩⟩

end Sys2Proof.Proofs.Division

/-! PROOFS. Elements: where they lie in a register and what is read back of it; an integer code and its value; what each integer operation gives; and O23. -/

namespace Sys2Proof.Proofs.Elements

open Sys2Proof.Machine Sys2Proof.Claim

/-! ### Where elements lie (R17, R182) -/

/-- A lane of 512 bits holds a whole number of elements of each width, and a register 64 lanes. -/
theorem ewBits_divides : ∀ ew : BitVec 3, ew.toNat ≤ 4 →
    0 < 512 / ewBits ew ∧ 512 / ewBits ew * ewBits ew = 512 ∧ 32768 / ewBits ew = 512 / ewBits ew * 64 := by
  decide

section Positions

variable {tag : BitVec 8} {e : Nat}

theorem elemPos_packed (hp : tagSpread tag = false) (i : Nat) : elemPos tag e i = i * tagBits tag := by
  rw [elemPos, hp, if_neg Bool.false_ne_true]

/-- Element r of lane q. -/
theorem elemPos_spread (hs : tagSpread tag = true) (q : Nat) {r : Nat} (hr : r < 512 / e) :
    elemPos tag e (512 / e * q + r) = q * 512 + r * tagBits tag := by
  have hpos : 0 < 512 / e := Nat.zero_lt_of_lt hr
  rw [elemPos, if_pos hs, Nat.mul_add_div hpos, Nat.mul_add_mod, Nat.div_eq_of_lt hr, Nat.mod_eq_of_lt hr, Nat.add_zero]

theorem elemPos_spread_lane (hs : tagSpread tag = true) (hpos : 0 < 512 / e) (q : Nat) : elemPos tag e (512 / e * q) = q * 512 := by
  simpa using elemPos_spread hs q hpos

/-- An element ends before the next one begins. -/
def Apart (tag : BitVec 8) (e : Nat) : Prop := ∀ i, elemPos tag e i + tagBits tag ≤ elemPos tag e (i + 1)

theorem apart_packed (hp : tagSpread tag = false) : Apart tag e := fun i =>
  Nat.le_of_eq (by rw [elemPos_packed hp, elemPos_packed hp, Nat.succ_mul])

theorem apart_spread (hs : tagSpread tag = true) (hpos : 0 < 512 / e) (hlane : 512 / e * e = 512) (hb : tagBits tag ≤ e) : Apart tag e := fun i => by
  have hr := Nat.mod_lt i hpos
  have hi := elemPos_spread hs (i / (512 / e)) hr
  rw [Nat.div_add_mod] at hi
  by_cases hlast : i % (512 / e) + 1 < 512 / e
  · have hnext := elemPos_spread hs (i / (512 / e)) hlast
    rw [← Nat.add_assoc, Nat.div_add_mod, Nat.succ_mul] at hnext
    omega
  · have hlen : i % (512 / e) + 1 = 512 / e := Nat.le_antisymm hr (Nat.le_of_not_lt hlast)
    have hsucc : 512 / e * (i / (512 / e) + 1) = i + 1 := by
      have hdiv := Nat.div_add_mod i (512 / e)
      rw [Nat.mul_succ]
      omega
    have hnext := elemPos_spread_lane hs hpos (i / (512 / e) + 1)
    rw [hsucc] at hnext
    have hfill : (i % (512 / e) + 1) * tagBits tag ≤ 512 := by
      rw [hlen]
      exact Nat.le_trans (Nat.mul_le_mul_left _ hb) (Nat.le_of_eq hlane)
    rw [Nat.succ_mul] at hfill
    omega

theorem elemPos_mono (h : Apart tag e) {i j : Nat} (hij : i ≤ j) : elemPos tag e i ≤ elemPos tag e j := by
  induction hij with
  | refl => exact Nat.le_refl _
  | @step j _ ih => exact Nat.le_trans ih (Nat.le_trans (Nat.le_add_right _ _) (h j))

end Positions

/-- A tag and an element width that a register may have: its elements lie apart, and as many as the register has room for lie inside it (R183). -/
theorem apart_of_legal {tag : BitVec 8} {ew : BitVec 3} (hew : ew.toNat ≤ 4) (hb : tagSpread tag = true → tagBits tag ≤ ewBits ew) :
    Apart tag (ewBits ew) ∧ elemPos tag (ewBits ew) (32768 / (if tagSpread tag then ewBits ew else tagBits tag)) ≤ 32768 := by
  obtain ⟨hpos, hlane, hroom⟩ := ewBits_divides ew hew
  cases hs : tagSpread tag with
  | false =>
    refine ⟨apart_packed hs, ?_⟩
    rw [elemPos_packed hs, if_neg Bool.false_ne_true]
    exact Nat.div_mul_le_self _ _
  | true =>
    exact ⟨apart_spread hs hpos hlane (hb hs), Nat.le_of_eq (by rw [if_pos rfl, hroom, elemPos_spread_lane hs hpos])⟩

/-! ### What a packed image holds (R182, R193) -/

/-- What lies below bit n does not reach what begins at bit n or above. -/
theorem add_div_two_pow {x y n p : Nat} (hx : x < 2 ^ n) (hy : 2 ^ n ∣ y) (hnp : n ≤ p) : (x + y) / 2 ^ p = y / 2 ^ p := by
  obtain ⟨q, rfl⟩ := hy
  have hsplit : 2 ^ p = 2 ^ n * 2 ^ (p - n) := by rw [← Nat.pow_add, Nat.add_sub_cancel' hnp]
  have hpos := Nat.two_pow_pos n
  rw [hsplit, ← Nat.div_div_eq_div_mul, ← Nat.div_div_eq_div_mul, Nat.add_mul_div_left _ _ hpos, Nat.div_eq_of_lt hx, Nat.zero_add,
    Nat.mul_div_cancel_left _ hpos]

section Images

variable {tag : BitVec 8} {e : Nat} (h : Apart tag e)
include h

/-- The bits of one element end before the next one. -/
theorem element_lt_next (c i : Nat) : c % 2 ^ tagBits tag * 2 ^ elemPos tag e i < 2 ^ elemPos tag e (i + 1) := by
  have hc : c % 2 ^ tagBits tag < 2 ^ tagBits tag := Nat.mod_lt _ (Nat.two_pow_pos _)
  calc c % 2 ^ tagBits tag * 2 ^ elemPos tag e i
      < 2 ^ tagBits tag * 2 ^ elemPos tag e i := Nat.mul_lt_mul_of_pos_right hc (Nat.two_pow_pos _)
    _ = 2 ^ (elemPos tag e i + tagBits tag) := by rw [Nat.add_comm, Nat.pow_add]
    _ ≤ 2 ^ elemPos tag e (i + 1) := Nat.pow_le_pow_right Nat.two_pos (h i)

theorem two_pow_elemPos_dvd_packFrom (l : List Nat) (i : Nat) : 2 ^ elemPos tag e i ∣ packFrom tag e i l := by
  induction l generalizing i with
  | nil => exact Nat.dvd_zero _
  | cons c t ih => exact Nat.dvd_add (Nat.dvd_mul_left _ _) (Nat.dvd_trans (Nat.pow_dvd_pow 2 (elemPos_mono h i.le_succ)) (ih _))

/-- Above its first element an image is the image of the rest of the list. -/
theorem packFrom_cons_div {i j : Nat} (hij : i + 1 ≤ j) (c : Nat) (t : List Nat) :
    packFrom tag e i (c :: t) / 2 ^ elemPos tag e j = packFrom tag e (i + 1) t / 2 ^ elemPos tag e j :=
  add_div_two_pow (element_lt_next h c i) (two_pow_elemPos_dvd_packFrom h t (i + 1)) (elemPos_mono h hij)

theorem packFrom_lt (l : List Nat) (i : Nat) : packFrom tag e i l < 2 ^ elemPos tag e (i + l.length) := by
  induction l generalizing i with
  | nil => exact Nat.two_pow_pos _
  | cons c t ih =>
    have hrest := ih (i + 1)
    have hdiv := packFrom_cons_div h (Nat.le_add_right (i + 1) t.length) c t
    rw [Nat.div_eq_of_lt hrest, Nat.div_eq_zero_iff_lt (Nat.two_pow_pos _)] at hdiv
    rwa [List.length_cons, Nat.add_comm t.length, ← Nat.add_assoc]

/-- The element at the front of an image: the rest begins at least a whole element above it. -/
theorem packFrom_cons_front (c : Nat) (t : List Nat) (i : Nat) :
    packFrom tag e i (c :: t) / 2 ^ elemPos tag e i % 2 ^ tagBits tag = c % 2 ^ tagBits tag := by
  have hrest : 2 ^ (elemPos tag e i + tagBits tag) ∣ packFrom tag e (i + 1) t :=
    Nat.dvd_trans (Nat.pow_dvd_pow 2 (h i)) (two_pow_elemPos_dvd_packFrom h t (i + 1))
  obtain ⟨q, hq⟩ := hrest
  have hpos := Nat.two_pow_pos (elemPos tag e i)
  rw [packFrom, hq, Nat.pow_add, Nat.mul_comm _ (2 ^ elemPos tag e i), Nat.mul_assoc, ← Nat.mul_add, Nat.mul_div_cancel_left _ hpos,
    Nat.add_mul_mod_self_left, Nat.mod_mod]

theorem packFrom_getD (l : List Nat) (i k : Nat) :
    packFrom tag e i l / 2 ^ elemPos tag e (i + k) % 2 ^ tagBits tag = l.getD k 0 % 2 ^ tagBits tag := by
  induction l generalizing i k with
  | nil => rw [packFrom, Nat.zero_div, List.getD_nil]
  | cons c t ih =>
    cases k with
    | zero => exact packFrom_cons_front h c t i
    | succ k =>
      rw [packFrom_cons_div h (Nat.add_le_add_left (Nat.le_add_left 1 k) i), Nat.add_comm k, ← Nat.add_assoc, ih, Nat.add_comm 1,
        List.getD_cons_succ]

/-- An image that ends within n bits loses nothing in a register of n bits. -/
theorem toNat_ofNat_packFrom {l : List Nat} {n : Nat} (hroom : elemPos tag e l.length ≤ n) :
    (BitVec.ofNat n (packFrom tag e 0 l)).toNat = packFrom tag e 0 l := by
  have hlt := packFrom_lt h l 0
  rw [Nat.zero_add] at hlt
  rw [BitVec.toNat_ofNat, Nat.mod_eq_of_lt (Nat.lt_of_lt_of_le hlt (Nat.pow_le_pow_right Nat.two_pos hroom))]

theorem regElem_packElems {codes : List Nat} (hroom : elemPos tag e codes.length ≤ 32768) (i : Nat) :
    regElem (packElems tag e codes) tag e i = codes.getD i 0 % 2 ^ tagBits tag := by
  have hread := packFrom_getD h codes 0 i
  rw [Nat.zero_add] at hread
  have himage : (packElems tag e codes).toNat = packFrom tag e 0 codes := toNat_ofNat_packFrom h hroom
  rw [regElem, himage, hread]

end Images

/-- As many elements as there is room for end inside the register, and each is read back (R17, R182). -/
theorem packedElementsReadBack : PackedElementsReadBack := fun _tag _ew codes i _ hew hb hlen => by
  obtain ⟨hapart, hroom⟩ := apart_of_legal hew hb
  exact regElem_packElems hapart (Nat.le_trans (elemPos_mono hapart hlen) hroom) i

/-! ### An integer code and its value (Table 2.4) -/

theorem tyBits_pos (t : Nat) : 0 < tyBits t := by
  unfold tyBits
  split <;> decide

theorem two_pow_tyBits (t : Nat) : 2 ^ tyBits t = 2 * 2 ^ (tyBits t - 1) := by
  rw [← Nat.pow_succ', Nat.succ_eq_add_one, Nat.sub_add_cancel (tyBits_pos t)]

/-- The two kinds of range of Table 2.4 in one unit, half of 2^w. -/
theorem int_range (t : Nat) : ∃ half : Nat, 0 < half ∧ 2 ^ tyBits t = 2 * half ∧
    (intMin t = -half ∧ intMax t = half - 1 ∨ intMin t = 0 ∧ intMax t = 2 * half - 1) := by
  refine ⟨2 ^ (tyBits t - 1), Nat.two_pow_pos _, two_pow_tyBits t, ?_⟩
  cases h : isSigned t with
  | true => exact .inl ⟨if_pos h, if_pos h⟩
  | false =>
    have hu := Bool.eq_false_iff.mp h
    refine .inr ⟨if_neg hu, ?_⟩
    rw [intMax, if_neg hu, two_pow_tyBits]
    rfl

section Codes

variable {t a : Nat} {x : Int}

/-- Codes above the greatest value stand for the negative ones. -/
theorem intOf_of_lt (ha : a < 2 ^ tyBits t) : intOf t a = if intMax t < a then (a : Int) - (2 ^ tyBits t : Nat) else a := by
  have hw := two_pow_tyBits t
  rw [intOf, Nat.mod_eq_of_lt ha]
  cases h : isSigned t with
  | true =>
    have hiff : intMax t < a ↔ 2 ^ (tyBits t - 1) ≤ a := by
      rw [intMax, if_pos h]
      omega
    simp only [hiff, Bool.true_and, decide_eq_true_eq, ge_iff_le]
  | false =>
    have hnot : ¬ intMax t < a := by
      rw [intMax, if_neg (Bool.eq_false_iff.mp h)]
      omega
    rw [Bool.false_and, if_neg Bool.false_ne_true, if_neg hnot]

theorem intOf_emod (ha : a < 2 ^ tyBits t) : intOf t a % (2 ^ tyBits t : Nat) = a := by
  have hmod : (a : Int) % (2 ^ tyBits t : Nat) = a := Int.emod_eq_of_lt (Int.natCast_nonneg a) (Int.ofNat_lt.mpr ha)
  rw [intOf_of_lt ha]
  split
  · rw [Int.sub_emod_right, hmod]
  · exact hmod

theorem intOf_in_range (ha : a < 2 ^ tyBits t) : intMin t ≤ intOf t a ∧ intOf t a ≤ intMax t := by
  obtain ⟨half, _, hw, hrange⟩ := int_range t
  rw [intOf_of_lt ha]
  split <;> omega

theorem intOf_lt_zero (ha : a < 2 ^ tyBits t) : intOf t a < 0 ↔ intMax t < a := by
  rw [intOf_of_lt ha]
  split <;> omega

theorem intOf_zero (t : Nat) : intOf t 0 = 0 := by
  obtain ⟨half, _, _, hrange⟩ := int_range t
  rw [intOf_of_lt (Nat.two_pow_pos _), if_neg (by omega)]
  rfl

/-- The code of an integer is the code of each number that it equals modulo 2^w. -/
theorem intCode_of_emod {n : Nat} (h : x % (2 ^ tyBits t : Nat) = (n : Int) % (2 ^ tyBits t : Nat)) : intCode t x = n % 2 ^ tyBits t := by
  rw [intCode, h, ← Int.natCast_emod, Int.toNat_natCast]

theorem intCode_lt (t : Nat) (x : Int) : intCode t x < 2 ^ tyBits t := by
  have hpos : (0 : Int) < (2 ^ tyBits t : Nat) := Int.natCast_pos.mpr (Nat.two_pow_pos _)
  exact (Int.toNat_lt' (Nat.two_pow_pos _)).mpr (Int.emod_lt_of_pos x hpos)

theorem intCode_of_nonneg (h0 : 0 ≤ x) (h1 : x < (2 ^ tyBits t : Nat)) : intCode t x = x.toNat := by
  rw [intCode, Int.emod_eq_of_lt h0 h1]

theorem intCode_of_neg (h0 : x < 0) (h1 : -(2 ^ tyBits t : Nat) ≤ x) : intCode t x = (x + (2 ^ tyBits t : Nat)).toNat := by
  rw [intCode, ← Int.add_emod_right, Int.emod_eq_of_lt (by omega) (by omega)]

/-- An integer of the type's range is the value of its code. -/
theorem intOf_intCode (hlo : intMin t ≤ x) (hhi : x ≤ intMax t) : intOf t (intCode t x) = x := by
  obtain ⟨half, _, hw, hrange⟩ := int_range t
  rw [intOf_of_lt (intCode_lt t x)]
  by_cases hx : x < 0
  · rw [intCode_of_neg hx (by omega), if_pos (by omega)]
    omega
  · rw [intCode_of_nonneg (by omega) (by omega), if_neg (by omega)]
    omega

end Codes

/-! ### Results that wrap (R197) -/

section Wrapping

variable {t a b : Nat} (ha : a < 2 ^ tyBits t)
include ha

theorem int_neg : VOp.int .neg t a b = ⟨(2 ^ tyBits t - a) % 2 ^ tyBits t, 0⟩ := by
  have h : intCode t (-intOf t a) = (2 ^ tyBits t - a) % 2 ^ tyBits t := by
    apply intCode_of_emod
    rw [← Int.zero_sub, Int.sub_emod, intOf_emod ha, Int.zero_emod, Int.zero_sub, Int.natCast_sub (Nat.le_of_lt ha), ← Int.neg_emod_eq_sub_emod]
  rw [VOp.int, h]

/-- The magnitude of the minimum has the minimum's own code. -/
theorem int_abs : VOp.int .abs t a b = ⟨if intOf t a < 0 then 2 ^ tyBits t - a else a, 0⟩ := by
  have h : intCode t (intOf t a).natAbs = if intOf t a < 0 then 2 ^ tyBits t - a else a := by
    have heq := intOf_of_lt ha
    have hneg := intOf_lt_zero ha
    have hrange := int_range t
    split
    case isTrue h =>
      rw [if_pos (hneg.mp h)] at heq
      rw [intCode_of_nonneg (by omega) (by omega)]
      omega
    case isFalse h =>
      rw [if_neg (mt hneg.mpr h)] at heq
      rw [intCode_of_nonneg (by omega) (by omega)]
      omega
  rw [VOp.int, h]

variable (hb : b < 2 ^ tyBits t)
include hb

theorem int_add : VOp.int .add t a b = ⟨(a + b) % 2 ^ tyBits t, 0⟩ := by
  have h : intCode t (intOf t a + intOf t b) = (a + b) % 2 ^ tyBits t := by
    apply intCode_of_emod
    rw [Int.add_emod, intOf_emod ha, intOf_emod hb, Int.natCast_add]
  rw [VOp.int, h]

theorem int_sub : VOp.int .sub t a b = ⟨(a + 2 ^ tyBits t - b) % 2 ^ tyBits t, 0⟩ := by
  have h : intCode t (intOf t a - intOf t b) = (a + 2 ^ tyBits t - b) % 2 ^ tyBits t := by
    apply intCode_of_emod
    rw [Int.sub_emod, intOf_emod ha, intOf_emod hb, ← Int.add_emod_right]
    congr 1
    omega
  rw [VOp.int, h]

theorem int_mul : VOp.int .mul t a b = ⟨a * b % 2 ^ tyBits t, 0⟩ := by
  have h : intCode t (intOf t a * intOf t b) = a * b % 2 ^ tyBits t := by
    apply intCode_of_emod
    rw [Int.mul_emod, intOf_emod ha, intOf_emod hb, Int.natCast_mul]
  rw [VOp.int, h]

end Wrapping

/-! ### High halves and quotients (R195, R197) -/

/-- A magnitude below m times n has a quotient by n from -m to below m. -/
theorem ediv_bounds {z : Int} {m n : Nat} (h : z.natAbs < m * n) : -(m : Int) ≤ z / n ∧ z / n < m := by
  have hn : (0 : Int) < n := Int.natCast_pos.mpr (Nat.pos_of_lt_mul_left h)
  have hcast : ((m * n : Nat) : Int) = m * n := Int.natCast_mul m n
  refine ⟨Int.le_ediv_of_mul_le hn ?_, Int.ediv_lt_of_lt_mul hn ?_⟩
  · rw [Int.neg_mul]
    omega
  · omega

section Quotients

variable {t : Nat} {x y : Int} (hx : intMin t ≤ x ∧ x ≤ intMax t)
include hx

theorem product_high_in_range (hy : intMin t ≤ y ∧ y ≤ intMax t) :
    intMin t ≤ x * y / (2 ^ tyBits t : Nat) ∧ x * y / (2 ^ tyBits t : Nat) ≤ intMax t := by
  obtain ⟨half, hpos, hw, hsigned | hunsigned⟩ := int_range t
  case inl =>
    have h : (x * y).natAbs < half * 2 ^ tyBits t := by
      rw [Int.natAbs_mul]
      exact Nat.mul_lt_mul_of_le_of_lt (by omega) (by omega) hpos
    have hbounds := ediv_bounds h
    omega
  case inr =>
    have h : (x * y).natAbs < 2 ^ tyBits t * 2 ^ tyBits t := by
      rw [Int.natAbs_mul]
      exact Nat.mul_lt_mul_of_lt_of_lt (by omega) (by omega)
    have hbounds := ediv_bounds h
    have hnonneg : 0 ≤ x * y / (2 ^ tyBits t : Nat) := Int.ediv_nonneg (Int.mul_nonneg (by omega) (by omega)) (Int.natCast_nonneg _)
    omega

/-- Only the minimum by -1 has a quotient outside the range. -/
theorem quotient_in_range (hy0 : y ≠ 0) (hmin1 : ¬ (x = intMin t ∧ y = -1)) (hy : intMin t ≤ y) :
    intMin t ≤ x.tdiv y ∧ x.tdiv y ≤ intMax t := by
  obtain ⟨half, hpos, hw, hsigned | hunsigned⟩ := int_range t
  case inl =>
    by_cases hunit : y.natAbs = 1
    · obtain rfl | rfl : y = 1 ∨ y = -1 := by omega
      · rw [Int.tdiv_one]
        exact hx
      · rw [Int.tdiv_neg, Int.tdiv_one]
        omega
    · have hle : (x.tdiv y).natAbs ≤ x.natAbs / 2 := by
        rw [Int.natAbs_tdiv]
        exact Nat.div_le_div_left (by omega) Nat.two_pos
      omega
  case inr =>
    have hnonneg : 0 ≤ x.tdiv y := Int.tdiv_nonneg (by omega) (by omega)
    have hle : (x.tdiv y).natAbs ≤ x.natAbs := by
      rw [Int.natAbs_tdiv]
      exact Nat.div_le_self _ _
    omega

end Quotients

section HighHalves

variable {t a b : Nat} (ha : a < 2 ^ tyBits t) (hb : b < 2 ^ tyBits t)
include ha hb

theorem intOf_int_mulh : intOf t (VOp.int .mulh t a b).code = intOf t a * intOf t b / 2 ^ tyBits t := by
  obtain ⟨hlo, hhi⟩ := product_high_in_range (intOf_in_range ha) (intOf_in_range hb)
  rw [VOp.int, intOf_intCode hlo hhi, Int.natCast_pow]
  rfl

theorem intOf_int_div (h0 : intOf t b ≠ 0) (h1 : ¬ (intOf t a = intMin t ∧ intOf t b = -1)) :
    intOf t (VOp.int .div t a b).code = (intOf t a).tdiv (intOf t b) := by
  obtain ⟨hlo, hhi⟩ := quotient_in_range (intOf_in_range ha) h0 h1 (intOf_in_range hb).1
  rw [VOp.int, if_neg h0, intOf_intCode hlo hhi]

end HighHalves

theorem int_div_zero (t a : Nat) : VOp.int .div t a 0 = ⟨2 ^ tyBits t - 1, 0⟩ := by
  rw [VOp.int, if_pos (intOf_zero t)]

/-- The quotient of the minimum by -1 wraps to the minimum: negating it leaves its code. -/
theorem int_div_minimum_by_minusOne {t a b : Nat} (ha : a < 2 ^ tyBits t) (hb : b < 2 ^ tyBits t) (hx : intOf t a = intMin t) (hy : intOf t b = -1) :
    VOp.int .div t a b = ⟨a, 0⟩ := by
  have h : intCode t ((intOf t a).tdiv (intOf t b)) = a := by
    obtain ⟨half, _, hw, hrange⟩ := int_range t
    have hlo := intOf_in_range hb
    have heq := intOf_of_lt ha
    rw [hy, Int.tdiv_neg, Int.tdiv_one, intCode_of_nonneg (by omega) (by omega)]
    split at heq <;> omega
  rw [VOp.int, if_neg (by rw [hy]; decide), h]

/-! ### Results that are chosen or clamped (R197) -/

theorem intOf_int_min (t a b : Nat) : intOf t (VOp.int .min t a b).code = min (intOf t a) (intOf t b) := by
  simp only [VOp.int, apply_ite (intOf t)]
  split <;> omega

theorem intOf_int_max (t a b : Nat) : intOf t (VOp.int .max t a b).code = max (intOf t a) (intOf t b) := by
  simp only [VOp.int, apply_ite (intOf t)]
  split <;> omega

/-- An integer clamped to the type's range, with its flag. -/
def clamped (t : Nat) (v : Int) : Res := ⟨intCode t (clampInt t v).1, flagIf (clampInt t v).2 fSAT⟩

theorem int_adds (t a b : Nat) : VOp.int .adds t a b = clamped t (intOf t a + intOf t b) := rfl

theorem int_subs (t a b : Nat) : VOp.int .subs t a b = clamped t (intOf t a - intOf t b) := rfl

theorem clampInt_fst (t : Nat) (v : Int) : (clampInt t v).1 = max (intMin t) (min (intMax t) v) := by
  have hrange := int_range t
  unfold clampInt
  split
  · omega
  · split <;> omega

theorem clampInt_snd (t : Nat) (v : Int) : (clampInt t v).2 = true ↔ ¬ (intMin t ≤ v ∧ v ≤ intMax t) := by
  unfold clampInt
  split
  · simp only [true_iff]
    omega
  · split <;> simp <;> omega

theorem intOf_clamped (t : Nat) (v : Int) : intOf t (clamped t v).code = max (intMin t) (min (intMax t) v) := by
  have hrange := int_range t
  rw [← clampInt_fst]
  refine intOf_intCode ?_ ?_ <;> rw [clampInt_fst] <;> omega

theorem flags_clamped (t : Nat) (v : Int) : (clamped t v).flags = if intMin t ≤ v ∧ v ≤ intMax t then 0 else fSAT := by
  simp only [clamped, flagIf, clampInt_snd, ite_not]

/-! ### Shifts (R197) -/

section Shifts

variable {w a n : Nat}

theorem shiftElem_srl (ha : a < 2 ^ w) : shiftElem .srl w a n = if w ≤ n then 0 else a / 2 ^ n := by
  rw [shiftElem, Nat.mod_eq_of_lt (Nat.lt_of_le_of_lt (Nat.div_le_self _ _) ha)]

/-- An arithmetic shift of w bits gives the same element as any longer one. -/
theorem shiftElem_sra (ha : a < 2 ^ w) : shiftElem .sra w a n =
    if 2 ^ (w - 1) ≤ a then 2 ^ w - 1 - (2 ^ w - 1 - a) / 2 ^ (if w ≤ n then w else n) else a / 2 ^ (if w ≤ n then w else n) := by
  have hdef : shiftElem .sra w a n = ((BitVec.ofNat w a).sshiftRight (if w ≤ n then w else n)).toNat := rfl
  rw [hdef, BitVec.toNat_sshiftRight, BitVec.msb_eq_decide, BitVec.toNat_ofNat, Nat.mod_eq_of_lt ha, Nat.shiftRight_eq_div_pow,
    Nat.shiftRight_eq_div_pow]
  simp only [decide_eq_true_eq]

/-- With bit w - 1 set, the n vacated bits are set. -/
theorem complement_shift (ha : a < 2 ^ w) (hn : n < w) :
    2 ^ w - 1 - (2 ^ w - 1 - a) / 2 ^ n = a / 2 ^ n + (2 ^ n - 1) * 2 ^ (w - n) := by
  have hw : 2 ^ w = 2 ^ n * 2 ^ (w - n) := by rw [← Nat.pow_add, Nat.add_sub_cancel' (Nat.le_of_lt hn)]
  have hq : a / 2 ^ n < 2 ^ (w - n) := Nat.div_lt_of_lt_mul (hw ▸ ha)
  have hle : 2 ^ (w - n) ≤ 2 ^ n * 2 ^ (w - n) := Nat.le_mul_of_pos_left _ (Nat.two_pow_pos n)
  have hcomplement : 2 ^ w - 1 - a = 2 ^ n * 2 ^ (w - n) - (a + 1) := by omega
  rw [hcomplement, Nat.mul_sub_div _ _ _ (hw ▸ ha), Nat.sub_mul]
  generalize a / 2 ^ n = q at hq ⊢
  omega

theorem shiftElem_sra_of_lt (ha : a < 2 ^ w) (hn : n < w) :
    shiftElem .sra w a n = if 2 ^ (w - 1) ≤ a then a / 2 ^ n + (2 ^ n - 1) * 2 ^ (w - n) else a / 2 ^ n := by
  rw [shiftElem_sra ha, if_neg (Nat.not_le_of_lt hn), complement_shift ha hn]

theorem shiftElem_sra_of_le (ha : a < 2 ^ w) (hn : w ≤ n) : shiftElem .sra w a n = if 2 ^ (w - 1) ≤ a then 2 ^ w - 1 else 0 := by
  have hlt : 2 ^ w - 1 - a < 2 ^ w := by omega
  rw [shiftElem_sra ha, if_pos hn, Nat.div_eq_of_lt hlt, Nat.div_eq_of_lt ha, Nat.sub_zero]

end Shifts

/-! ### O23 -/

theorem isFloat_of_tyIN {t : Nat} (h : tyIN t = true) : isFloat t = false := by
  have hnone : ∀ t ∈ [8, 9, 10, 18, 11, 19, 16, 17], isFloat t = false := by decide
  exact hnone t (List.contains_iff_mem.mp h)

/-- On an integer type every operation is the integer one, whatever the mode and the old element. -/
theorem eval_eq_int {t : Nat} (h : tyIN t = true) (op : VOp) (mode : RMode) (r a b c : Nat) : VOp.eval op t mode r a b c = VOp.int op t a b := by
  cases op <;> simp only [VOp.eval, VOp.int, isFloat_of_tyIN h, Bool.false_eq_true, if_false]

/-- Each operation by its own lemma; the flags are those of the equations that give the results (R195, R197). -/
theorem integerElementsWrapClampAndDivide : IntegerElementsWrapClampAndDivide := by
  intro t a b c r mode ht ha hb
  simp only [eval_eq_int ht]
  refine ⟨int_add ha hb, int_sub ha hb, int_mul ha hb, intOf_int_mulh ha hb, ?divZero, intOf_int_div ha hb, int_div_minimum_by_minusOne ha hb,
    rfl, rfl, intOf_int_min t a b, intOf_int_max t a b, ?saturating, fun n => ⟨rfl, shiftElem_srl ha⟩, fun n => shiftElem_sra_of_lt ha,
    fun n => shiftElem_sra_of_le ha, ?shiftFlags, ?otherFlags, int_neg ha, int_abs ha⟩
  case divZero =>
    rintro rfl
    exact int_div_zero t a
  case saturating =>
    simp only [List.forall_mem_cons, List.not_mem_nil, false_implies, implies_true, and_true, int_adds, int_subs]
    exact ⟨⟨intOf_clamped t _, flags_clamped t _⟩, intOf_clamped t _, flags_clamped t _⟩
  case shiftFlags =>
    simp only [List.forall_mem_cons, List.not_mem_nil, false_implies, implies_true, and_true]
    exact fun n => ⟨rfl, rfl, rfl⟩
  case otherFlags =>
    simp only [List.forall_mem_cons, List.not_mem_nil, false_implies, implies_true, and_true]
    exact ⟨rfl, rfl, rfl, rfl, rfl⟩

/-- Settles O23: elements lie apart inside the register, so each is read back; an integer result is the code of an integer that equals it modulo 2^w, and its value wherever the range holds it. -/
theorem elementsReadBackAndIntegersWrap : Obligations.ElementsReadBackAndIntegersWrap :=
  ⟨packedElementsReadBack, integerElementsWrapClampAndDivide⟩

end Sys2Proof.Proofs.Elements
